-- ==== Sys2Proof/Word.lean ====
section
/-! DEFINITION. The word types of the MN-48: the byte of its links and the bit strings it shifts, masks or compares whole. -/
namespace Sys2Proof

/-- A byte of either link: eight bits (00_scope.md, Sizes). -/
abbrev Byte := BitVec 8

/-- A 16-bit check or class set as it stands in a layout (R83, R210). -/
abbrev Word16 := BitVec 16

/-- A 32-bit span number or carriage CRC-32 (R1, R43). -/
abbrev Word32 := BitVec 32

/-- A 64-bit reel id, L64 digest or roll-up (R1, R28). -/
abbrev Word64 := BitVec 64

/-- A set of the nine finding classes: the bit of weight 2 to the power n stands for class n (R210). -/
abbrev ClassSet := BitVec 9

end Sys2Proof
end

