-- ==== Sys2Proof/Syntax.lean ====
section
/-! DEFINITION. The commands of the MN-48: one constructor for each row of spec/opcode_table.json.

The part is a block, not a processor: a command is one of the part's steps, an event on one of its links, timers, lines or
units.  A REQUEST row (kinds of R202) carries the tag and the body bytes of the request's control-link frame, as R209, R210 and
R215 lay them out (log entry 1).  A row of a READER UNIT carries the lane it arrives on and the unit's session number, body bytes and CRC-32,
as R211 lays them out; the unit's type is the row's own.  A TIMER row names the lane or slot whose timer it is. -/
namespace Sys2Proof

/-- The commands, in the order of spec/opcode_table.json. -/
inductive Instr where
  /-- POWER_UP (R206). -/
  | powerUp
  /-- RESET_LINE_ASSERTED (R206). -/
  | resetLineAsserted
  /-- RESET_LINE_RELEASED (R206). -/
  | resetLineReleased
  /-- CONTROL_LINK_FRAME (R198). -/
  | controlLinkFrame (bytes : List Byte)
  /-- FRAME_GAP_EXPIRED (R198). -/
  | frameGapExpired
  /-- FRAME_SENT (R203). -/
  | frameSent
  /-- NOT_A_REQUEST_KIND (R201). -/
  | notARequestKind (kind tag : Byte) (body : List Byte)
  /-- OPEN_MANIFEST (R6). Kind 0x01, body bytes 19. -/
  | openManifest (tag : Byte) (body : List Byte)
  /-- LOAD_RECORDS (R7). Kind 0x02, body bytes 4 + 12 × count. -/
  | loadRecords (tag : Byte) (body : List Byte)
  /-- COMPLETE_MANIFEST (R10). Kind 0x03, body bytes 9. -/
  | completeManifest (tag : Byte) (body : List Byte)
  /-- ERASE_MANIFEST (R17). Kind 0x04, body bytes 1. -/
  | eraseManifest (tag : Byte) (body : List Byte)
  /-- BIND_COPIES (R15). Kind 0x05, body bytes 3. -/
  | bindCopies (tag : Byte) (body : List Byte)
  /-- READ_MANIFEST (R18). Kind 0x06, body bytes 1. -/
  | readManifest (tag : Byte) (body : List Byte)
  /-- READ_RECORDS (R19). Kind 0x07, body bytes 4. -/
  | readRecords (tag : Byte) (body : List Byte)
  /-- BRING_UP_LANE (R49). Kind 0x08, body bytes 1. -/
  | bringUpLane (tag : Byte) (body : List Byte)
  /-- PUT_DOWN_LANE (R66). Kind 0x09, body bytes 1. -/
  | putDownLane (tag : Byte) (body : List Byte)
  /-- RESTART_LANE (R54). Kind 0x0A, body bytes 1. -/
  | restartLane (tag : Byte) (body : List Byte)
  /-- SET_LANE (R65). Kind 0x0B, body bytes 9. -/
  | setLane (tag : Byte) (body : List Byte)
  /-- READ_LANE (R67). Kind 0x0C, body bytes 1. -/
  | readLane (tag : Byte) (body : List Byte)
  /-- SET_CAPTURE (R89). Kind 0x0D, body bytes 6. -/
  | setCapture (tag : Byte) (body : List Byte)
  /-- READ_CAPTURE (R90). Kind 0x0E, body bytes 2. -/
  | readCapture (tag : Byte) (body : List Byte)
  /-- VERIFY (R94). Kind 0x10, body bytes 14. -/
  | verify (tag : Byte) (body : List Byte)
  /-- RESUME_CAMPAIGN (R117). Kind 0x11, body bytes 2. -/
  | resumeCampaign (tag : Byte) (body : List Byte)
  /-- ABANDON_CAMPAIGN (R118). Kind 0x12, body bytes 2. -/
  | abandonCampaign (tag : Byte) (body : List Byte)
  /-- DISMISS_CAMPAIGN (R119). Kind 0x13, body bytes 2. -/
  | dismissCampaign (tag : Byte) (body : List Byte)
  /-- READ_CAMPAIGN (R120). Kind 0x14, body bytes 2. -/
  | readCampaign (tag : Byte) (body : List Byte)
  /-- READ_FINDINGS (R144). Kind 0x18, body bytes 5. -/
  | readFindings (tag : Byte) (body : List Byte)
  /-- ACKNOWLEDGE (R142). Kind 0x19, body bytes 4. -/
  | acknowledge (tag : Byte) (body : List Byte)
  /-- SET_PROFILE (R136). Kind 0x1A, body bytes 12. -/
  | setProfile (tag : Byte) (body : List Byte)
  /-- SELECT_PROFILE (R137). Kind 0x1B, body bytes 1. -/
  | selectProfile (tag : Byte) (body : List Byte)
  /-- READ_FLAGS (R145). Kind 0x1C, body bytes 0. -/
  | readFlags (tag : Byte) (body : List Byte)
  /-- CLEAR_FLAGS (R146). Kind 0x1D, body bytes 2. -/
  | clearFlags (tag : Byte) (body : List Byte)
  /-- ENQUEUE_SUSPECTS (R153). Kind 0x20, body bytes 3. -/
  | enqueueSuspects (tag : Byte) (body : List Byte)
  /-- WITHDRAW_SUSPECT (R172). Kind 0x21, body bytes 5. -/
  | withdrawSuspect (tag : Byte) (body : List Byte)
  /-- READ_SUSPECTS (R176). Kind 0x22, body bytes 2. -/
  | readSuspects (tag : Byte) (body : List Byte)
  /-- SET_REPAIR (R175). Kind 0x23, body bytes 1. -/
  | setRepair (tag : Byte) (body : List Byte)
  /-- SET_DUTY (R187). Kind 0x28, body bytes 1. -/
  | setDuty (tag : Byte) (body : List Byte)
  /-- HOLD (R184). Kind 0x29, body bytes 3. -/
  | hold (tag : Byte) (body : List Byte)
  /-- WAKE (R186). Kind 0x2A, body bytes 1. -/
  | wake (tag : Byte) (body : List Byte)
  /-- SET_PACING (R191). Kind 0x2B, body bytes 10. -/
  | setPacing (tag : Byte) (body : List Byte)
  /-- CALIBRATE_LANE (R192). Kind 0x2C, body bytes 1. -/
  | calibrateLane (tag : Byte) (body : List Byte)
  /-- READ_DUTY (R195). Kind 0x2D, body bytes 0. -/
  | readDuty (tag : Byte) (body : List Byte)
  /-- RESTART_ENGINE (R207). Kind 0x3F, body bytes 0. -/
  | restartEngine (tag : Byte) (body : List Byte)
  /-- HELLO (R50). -/
  | hello (lane : Fin 8) (session : Byte) (body : List Byte) (crc : Word32)
  /-- HEADER (R73). -/
  | header (lane : Fin 8) (session : Byte) (body : List Byte) (crc : Word32)
  /-- MARK (R75). -/
  | mark (lane : Fin 8) (session : Byte) (body : List Byte) (crc : Word32)
  /-- PAYLOAD (R77). -/
  | payload (lane : Fin 8) (session : Byte) (body : List Byte) (crc : Word32)
  /-- END (R78). -/
  | endUnit (lane : Fin 8) (session : Byte) (body : List Byte) (crc : Word32)
  /-- TRAILER (R74). -/
  | trailer (lane : Fin 8) (session : Byte) (body : List Byte) (crc : Word32)
  /-- NOT_FOUND (R76). -/
  | notFound (lane : Fin 8) (session : Byte) (body : List Byte) (crc : Word32)
  /-- FAULT (R78). -/
  | fault (lane : Fin 8) (session : Byte) (body : List Byte) (crc : Word32)
  /-- ANNOTATION (R82). -/
  | annotation (lane : Fin 8) (session : Byte) (body : List Byte) (crc : Word32)
  /-- YIELD (R61). -/
  | yield (lane : Fin 8) (session : Byte) (body : List Byte) (crc : Word32)
  /-- RESUME (R63). -/
  | resume (lane : Fin 8) (session : Byte) (body : List Byte) (crc : Word32)
  /-- REWRITE_DONE (R165). -/
  | rewriteDone (lane : Fin 8) (session : Byte) (body : List Byte) (crc : Word32)
  /-- REWRITE_FAILED (R166). -/
  | rewriteFailed (lane : Fin 8) (session : Byte) (body : List Byte) (crc : Word32)
  /-- UNKNOWN_UNIT_TYPE (R46). -/
  | unknownUnitType (lane : Fin 8) (type session : Byte) (body : List Byte) (crc : Word32)
  /-- REWRITE_END_SENT (R58). -/
  | rewriteEndSent (lane : Fin 8)
  /-- SETTLE_WAIT_EXPIRED (R50). -/
  | settleWaitExpired (lane : Fin 8)
  /-- STALL_TIMER_EXPIRED (R52). -/
  | stallTimerExpired (lane : Fin 8)
  /-- FRESHNESS_TIMER_EXPIRED (R88). -/
  | freshnessTimerExpired (slot : Fin 16)
  /-- HOLD_TIMER_EXPIRED (R185). -/
  | holdTimerExpired
  /-- PACING_GATE_OPENS (R190). -/
  | pacingGateOpens (lane : Fin 8)
  /-- ROLLUP_COMPLETES (R13). -/
  | rollupCompletes
deriving DecidableEq, Repr

end Sys2Proof
end

