-- ==== Sys2Proof/Config.lean ====
section
/-! DEFINITION. What the MN-48's manual leaves to an implementation: the free values, as constants without a body, and the one fixed convention for staging memory. -/
namespace Sys2Proof

/-- FREE VALUE (log entry 3). The bytes of a number that its field of a layout cannot hold: R215 fixes the width of
a time or of a sequence number and states no result for a number past it. The arguments are the field's width and the number. -/
opaque Config.overflowBytes : Nat → Nat → List Byte

/-- FREE VALUE (log entry 4). What READ DUTY sends for the previous frame bytes and the previous end time of a pacing record whose
first exchange has not ended: R189 sets those two values only at the exchange's end. The argument is the previous FETCH time. -/
opaque Config.unendedPacing : Nat → Nat × Nat

/-- DESIGN CHOICE (log entry 2), unsafe. What a byte of staging that no source fetch has written reads as. R155 says that
no behaviour depends on it: a rewrite reads only bytes that its own source fetch wrote. -/
def Config.unwrittenByte : Byte := 0x00

/-- DESIGN CHOICE (log entry 5). How far the reference clock moves in one step that finds no command waiting, in microseconds:
R190 computes times to the microsecond. -/
def Config.tick : Nat := 1

end Sys2Proof
end

