-- ==== Sys2Proof/Machine/State.lean ====
section
/-! DEFINITION. The state of the MN-48, block by block, as plain data, and its value after power-up.

Each structure is one table of the manual. A field the manual marks "or absent" is an Option. A count, a frame number or a time is a Nat;
an identity, a digest or a check is a bit string. Where two chapters name one thing (the lane's open session and the parser's,
a lane's queue and the campaign table, the contexts and the entries that hold them) it is stored once (log entry 18). -/
namespace Sys2Proof.Machine

/-! ## Fixity Store (chapter 01) -/

/-- The state of a manifest that a slot holds (R1). A slot in state EMPTY holds none. -/
inductive ManifestState where
  | loading | closing | ready | discordant
deriving DecidableEq, Repr

/-- The seven states of a frame record (R3, R4). -/
inductive RecordState where
  | unvisited | sound | suspect | inRepair | repaired | sisterSound | lost
deriving DecidableEq, Repr

/-- Outcome details (R4). -/
inductive Detail where
  | notRewritable | rewriteOff | rewriteUnreliable | bothDamaged | sourceUnreadable
deriving DecidableEq, Repr

/-- Verdict codes 0 to 3 (R39). -/
inductive Verdict where
  | sound | damaged | missized | uncomparable
deriving DecidableEq, Repr

/-- A frame record (R3). `length` is absent while the record is unloaded. -/
structure FrameRecord where
  length   : Option Nat := none
  digest   : Word64 := 0
  state    : RecordState := .unvisited
  last     : Option Verdict := none
  visiting : Bool := false
  queued   : Bool := false
  detail   : Option Detail := none
deriving DecidableEq, Repr

/-- A manifest in a slot (R1). -/
structure Manifest where
  state            : ManifestState
  reel             : Word64
  span             : Word32
  first            : Nat
  count            : Nat
  records          : List FrameRecord
  expected         : Option Word64 := none
  computed         : Option Word64 := none
  copyA            : Option (Fin 8) := none
  copyB            : Option (Fin 8) := none
  trailerDisagrees : Bool := false
  campaignPins     : Nat := 0
  suspectPins      : Nat := 0
deriving DecidableEq, Repr

/-- The Fixity Store: sixteen slots (EMPTY is none), the pool's free count, the roll-up unit and its FIFO (R1, R2, R12). -/
structure Store where
  slots : Vector (Option Manifest) 16
  free  : Nat
  unit  : Option (Fin 16)
  fifo  : List (Fin 16)
deriving DecidableEq, Repr

/-! ## Owners of work (R29, R55) -/

/-- A Suspect List entry's name: its manifest slot and frame number (R149). -/
structure EntryKey where
  slot  : Fin 16
  frame : Nat
deriving DecidableEq, Repr

/-- The owner of an item, a session or a digest claim (R29, R55). -/
inductive Owner where
  | campaign (id : Nat)
  | entry (key : EntryKey)
  | duty
deriving DecidableEq, Repr

/-! ## Digest Pool (chapter 02) -/

/-- Item kinds of digest claims (R29). -/
inductive ClaimKind where
  | campaignFrame | sourceFetch | readback
deriving DecidableEq, Repr

/-- A claim for a digest unit (R30). -/
structure Claim where
  lane      : Fin 8
  kind      : ClaimKind
  owner     : Owner
  slot      : Fin 16
  frame     : Nat
  recLength : Nat
deriving DecidableEq, Repr

/-- A held digest unit, GRANTED or RUNNING (R29). -/
structure DigestUnit where
  claim     : Claim
  running   : Bool
  received  : Nat
  remainder : Word64
deriving DecidableEq, Repr

/-- The Digest Pool: four units (FREE is none) and the FIFO of waiting claims (R29, R30). -/
structure Pool where
  units : Vector (Option DigestUnit) 4
  fifo  : List Claim
deriving DecidableEq, Repr

/-! ## Lane Controllers and Carriage Parsers (chapters 03 and 04) -/

/-- Lane states (R47). -/
inductive LaneState where
  | off | settling | ready | engaged | calibrating | yielding | lent | stalled
deriving DecidableEq, Repr

/-- Causes of LANE_CHANGED (R68, R69). -/
inductive LaneCause where
  | reset | bringUp | settled | restart | hostRestart | stall | noAnswer | putDown | hold | wake | yield | resume
deriving DecidableEq, Repr

/-- A lane's settings (R48). `settleWait` is in milliseconds, `stallLimit` in half-seconds, `yieldAllowance` in MiB, `ceiling` in MiB/s. -/
structure LaneSettings where
  settleWait     : Nat := 800
  stallLimit     : Nat := 20
  autoRestart    : Bool := true
  yieldAllowance : Nat := 8
  keepAlive      : Bool := false
  ceiling        : Nat := 256
deriving DecidableEq, Repr

/-- A reader's capabilities (R45, R50). -/
structure Caps where
  rewritable : Bool
  largest    : Nat
deriving DecidableEq, Repr

/-- Session kinds (R47). -/
inductive SessionKind where
  | campaign | repair | calibration
deriving DecidableEq, Repr

/-- An open session (R47, R71). `span` is absent for a calibration. -/
structure Session where
  number : Nat
  kind   : SessionKind
  span   : Option (Word64 × Word32)
  owner  : Owner
deriving DecidableEq, Repr

/-- How far a frame exchange has come (R71). -/
inductive FramePhase where
  | awaitingMark | receiving | draining
deriving DecidableEq, Repr

/-- A frame exchange as the parser holds it (R71). -/
structure FrameExchange where
  phase     : FramePhase
  fetched   : Nat
  delivered : Option Nat
  announced : Option Nat
  soFar     : Nat
deriving DecidableEq, Repr

/-- The exchange in flight on a lane, with the parser's fields of it (R51, R71); `idle` is the manual's NONE. `rewrite` says whether END has been sent. -/
inductive Exchange where
  | idle
  | opening
  | frame (f : FrameExchange)
  | closing
  | rewrite (frame : Nat) (endSent : Bool)
  | calibration (length bytes : Nat)
deriving DecidableEq, Repr

/-- Work item kinds (R55). -/
inductive ItemKind where
  | campaignAction | repairStep | calibrationRun
deriving DecidableEq, Repr

/-- The work item in hand (R55). `stopping`: a duty change has told the owner to end the item at its answer (R114, R165, R174; log entry 12). -/
structure Item where
  kind     : ItemKind
  owner    : Owner
  stopping : Bool := false
deriving DecidableEq, Repr

/-- Where RESUME leads (R47, R63). -/
inductive ResumeTarget where
  | ready | settle
deriving DecidableEq, Repr

/-- A pacing record (R189), with times in microseconds of the clock. `ended` holds the previous frame bytes and the previous end time. -/
structure Pacing where
  fetchAt : Nat
  ended   : Option (Nat × Nat)
deriving DecidableEq, Repr

/-- A unit that a lane sends on its carriage port (R44); the first argument of a session unit is its session number. -/
inductive SentUnit where
  | hello
  | restart
  | openSpan (session : Nat) (reel : Word64) (span : Word32)
  | fetch (session frame : Nat)
  | close (session : Nat)
  | rewrite (session frame length : Nat)
  | payload (session : Nat) (bytes : List Byte)
  | endUnit (session : Nat)
  | calibrate (session length : Nat)
  | halt (session : Nat)
  | release
deriving DecidableEq, Repr

/-- A lane with its parser (R47, R71, R189, R190). `sent` is the model's trace of the units the lane has sent, oldest first (log entry 11). -/
structure Lane where
  state         : LaneState := .off
  settings      : LaneSettings := {}
  caps          : Option Caps := none
  helloTaken    : Bool := false
  settleExpired : Bool := false
  settleTimer   : Option Nat := none
  stallTimer    : Option Nat := none
  restarts      : Nat := 0
  session       : Option Session := none
  nextSession   : Nat := 1
  item          : Option Item := none
  exchange      : Exchange := .idle
  resumeTarget  : Option ResumeTarget := none
  putDownByHold : Bool := false
  lastCause     : LaneCause := .reset
  stallEvents   : Nat := 0
  yields        : Nat := 0
  pacing        : Option Pacing := none
  gate          : Option Nat := none
  sent          : List SentUnit := []
deriving DecidableEq, Repr

/-! ## Annotation Capture (chapter 04) -/

/-- A capture slot (R85). `selector` none is ANY; `window` is in seconds; `timer` is the clock time at which the freshness timer expires. -/
structure CaptureSlot where
  selector   : Option (Fin 8) := none
  kind       : Option Byte := none
  keepFaulty : Bool := false
  window     : Nat := 0
  notify     : Bool := false
  content    : Option (List Byte) := none
  seen       : Bool := false
  faulty     : Bool := false
  lastLane   : Option (Fin 8) := none
  timer      : Option Nat := none
deriving DecidableEq, Repr

/-! ## Campaign Scheduler (chapter 05) -/

/-- Campaign states (R92). -/
inductive CampaignState where
  | waiting | opening | running | closing | yielded | held | done | ended
deriving DecidableEq, Repr

/-- Why a campaign is held (R92). -/
inductive HeldCause where
  | finding | stall | laneDown | logFull
deriving DecidableEq, Repr

/-- Why a campaign ended (R92). -/
inductive EndCause where
  | abandoned | identity
deriving DecidableEq, Repr

/-- The nine finding classes in their order of precedence, 0 to 8 (R124). -/
inductive FindingClass where
  | identity | unreadable | missing | short | long | content | rollup | stray | annotation
deriving DecidableEq, Repr

/-- A halt code: the halting class and the recognised set (R125). -/
structure HaltCode where
  cls        : FindingClass
  recognised : ClassSet
deriving DecidableEq, Repr

/-- The profile a campaign names (R92). -/
inductive ProfileChoice where
  | numbered (p : Fin 4)
  | current
deriving DecidableEq, Repr

/-- The five counts of a campaign (R92). -/
structure Counts where
  sound        : Nat := 0
  damaged      : Nat := 0
  missized     : Nat := 0
  uncomparable : Nat := 0
  skipped      : Nat := 0
deriving DecidableEq, Repr

/-- An entry of the campaign table (R92). `resumePoint` none is PAST. -/
structure Campaign where
  id             : Nat
  lane           : Fin 8
  slot           : Fin 16
  windowFirst    : Nat
  windowLast     : Nat
  step           : Nat
  profile        : ProfileChoice
  disregard      : ClassSet
  state          : CampaignState := .waiting
  resumePoint    : Option Nat
  counts         : Counts := {}
  frameRestarts  : Nat := 0
  noted          : ClassSet := 0
  haltCode       : Option HaltCode := none
  heldCause      : Option HeldCause := none
  endCause       : Option EndCause := none
  pendingFinding : Bool := false
  waiver         : Bool := false
  trailerChecked : Bool := false
deriving DecidableEq, Repr

/-- The Campaign Scheduler: the table in order of acceptance and the next-id counter (R92, R95). -/
structure Scheduler where
  table  : List Campaign
  nextId : Nat
deriving DecidableEq, Repr

/-! ## Finding Recorder (chapter 06) -/

/-- A finding (R139). `sequence` is absent while the finding is pending; `halted` is the disposition HALTED. -/
structure Finding where
  sequence     : Option Nat
  cls          : FindingClass
  recognised   : ClassSet
  halted       : Bool
  profile      : Fin 4
  campaign     : Nat
  lane         : Fin 8
  slot         : Fin 16
  reel         : Word64
  span         : Word32
  frame        : Option Nat
  delivered    : Option Nat
  verdict      : Option Verdict
  annotation   : Option Byte
  acknowledged : Bool
deriving DecidableEq, Repr

/-- A finding waiting for room in the log (R141). `enqueued`: its event made an enqueue request (R142). -/
structure PendingFinding where
  finding  : Finding
  enqueued : Bool
deriving DecidableEq, Repr

/-- A handling profile (R135): the classes disposed HALT (every other class is disposed NOTE), and the two options. -/
structure Profile where
  halts   : ClassSet
  enqueue : Bool
  rewrite : Bool
deriving DecidableEq, Repr

/-- The Finding Recorder (R132, R135, R138, R140, R141). -/
structure Recorder where
  log            : List Finding
  nextSequence   : Nat
  pending        : List PendingFinding
  flags          : ClassSet
  profiles       : Vector Profile 4
  defaultProfile : Fin 4
deriving DecidableEq, Repr

/-! ## Repair Engine (chapter 07) -/

/-- Phases of a Suspect List entry (R149). -/
inductive RepairPhase where
  | waiting | fetching | staged | rewriting | readback
deriving DecidableEq, Repr

/-- A Suspect List entry (R149). `cause` none is HOST. `stepLane` is the lane that carries the entry's step in hand; the
exchange in flight of the step is that lane's. `awaits` is the sequence that the pending finding whose request created the entry will take
(R142, R152; log entry 30). -/
structure Entry where
  key             : EntryKey
  cause           : Option FindingClass
  sequence        : Option Nat
  damaged         : Fin 8
  source          : Fin 8
  rewriteAllowed  : Bool
  phase           : RepairPhase := .waiting
  sourceAttempts  : Nat := 0
  rewriteAttempts : Nat := 0
  extents         : Option (List Nat) := none
  context         : Option (Fin 4) := none
  interrupted     : Bool := false
  stepLane        : Option (Fin 8) := none
  awaits          : Option Nat := none
deriving DecidableEq, Repr

/-- The Repair Engine: the Suspect List, the free extents in ascending order, the repair policy (R150, R155, R175). -/
structure RepairEngine where
  list           : List Entry
  freeExtents    : List Nat
  rewriteEnabled : Bool
deriving DecidableEq, Repr

/-! ## Duty Controller (chapter 08) -/

/-- Duty modes (R179). -/
inductive DutyMode where
  | full | shared | held
deriving DecidableEq, Repr

/-- Wake modes (R179). -/
inductive WakeMode where
  | full | shared
deriving DecidableEq, Repr

/-- A calibration in hand (R179). -/
structure Calibration where
  session : Nat
  firstAt : Option Nat
  bytes   : Nat
deriving DecidableEq, Repr

/-- Why a calibration run was aborted (R194). -/
inductive AbortCause where
  | yield | stall | putDown | restart
deriving DecidableEq, Repr

/-- The end of a lane's most recent calibration run (R179). -/
inductive CalibrationEnd where
  | done (elapsed ceiling : Nat)
  | aborted (cause : AbortCause)
deriving DecidableEq, Repr

/-- The Duty Controller (R179). `holdTimer` is the clock time at which the hold ends. -/
structure Duty where
  mode            : DutyMode
  wake            : WakeMode
  holdTimer       : Option Nat
  share           : Nat
  eligible        : Vector Bool 8
  repairsInShared : Bool
  calibration     : Vector (Option Calibration) 8
  lastCalibration : Vector (Option CalibrationEnd) 8
deriving DecidableEq, Repr

/-! ## Control Port (chapter 09) -/

/-- A received request: kind, tag and body of its frame (R197). -/
structure Request where
  kind : Byte
  tag  : Byte
  body : List Byte
deriving DecidableEq, Repr

/-- Reasons of a REFUSED reply (R201). -/
inductive Reason where
  | form | kind | duty | range | absent | state | room | pinned | overlap | busy
deriving DecidableEq, Repr

/-- A reply: DONE with its result bytes, or REFUSED with its reason (R201). -/
inductive Reply where
  | done (results : List Byte)
  | refused (reason : Reason)
deriving DecidableEq, Repr

/-- Causes of ENGINE_UP (R208). -/
inductive EngineCause where
  | powerUp | resetLine | restart
deriving DecidableEq, Repr

/-- Causes of DUTY_CHANGED (R188). -/
inductive DutyCause where
  | hold | expiry | wake | setDuty
deriving DecidableEq, Repr

/-- Causes of CAMPAIGN_CHANGED (R121, R214). -/
inductive CampaignCause where
  | finding | stall | laneDown | logFull | abandoned | identity | complete | resumed | logged
deriving DecidableEq, Repr

/-- Causes of FRAME_REJECTED (R198). -/
inductive RejectCause where
  | length | gap | check | tag
deriving DecidableEq, Repr

/-- Notices and their fields (R204, R213). -/
inductive Notice where
  | engineUp (cause : EngineCause) (lastSequence slots suspects nextId : Nat) (wake : WakeMode)
  | laneChanged (lane : Fin 8) (state : LaneState) (cause : LaneCause) (restarts : Nat)
  | manifestSettled (slot : Fin 16) (reel : Word64) (span : Word32) (state : ManifestState) (computed : Word64)
  | campaignChanged (id : Nat) (lane : Fin 8) (slot : Fin 16) (state : CampaignState) (cause : CampaignCause)
      (resumePoint : Option Nat) (counts : Counts)
  | logAdvanced (lastSequence : Nat)
  | repairSettled (key : EntryKey) (reel : Word64) (span : Word32) (outcome : RecordState) (detail : Option Detail)
      (damaged source : Fin 8) (cause : Option FindingClass) (sequence : Option Nat)
      (sourceAttempts rewriteAttempts : Nat) (interrupted : Bool)
  | calibrationDone (lane : Fin 8) (result : CalibrationEnd) (ceiling before : Nat)
  | dutyChanged (entered left : DutyMode) (cause : DutyCause) (wake : WakeMode) (holdLeft : Nat)
  | captureSeen (slot : Fin 16) (lane : Fin 8) (kind : Byte) (content : List Byte)
  | frameRejected (cause : RejectCause) (kind tag : Byte)
  | requestDropped (kind tag : Byte)
  | noticeGap (dropped : Nat)
deriving DecidableEq, Repr

/-- A frame awaiting transmission (R203). -/
inductive OutFrame where
  | reply (kind tag : Byte) (reply : Reply)
  | notice (n : Notice)
deriving DecidableEq, Repr

/-- The Control Port. `receiver` holds the bytes of the frame being received, from its 0xA5; it is empty while the receiver
hunts with nothing in hand (R198). `raised` holds the notices raised in the step until they are queued (R204). -/
structure Port where
  inbound  : List Request
  outbound : List OutFrame
  gap      : Bool
  dropped  : Nat
  receiver : List Byte
  raised   : List Notice
deriving DecidableEq, Repr

/-! ## The part -/

/-- The ten blocks, the staging DRAM, the reset line and the reference clock. -/
structure Block where
  port      : Port
  lanes     : Vector Lane 8
  pool      : Pool
  store     : Store
  sched     : Scheduler
  recorder  : Recorder
  repair    : RepairEngine
  staging   : List Host.Cell
  capture   : Vector CaptureSlot 16
  duty      : Duty
  /-- Microseconds of the reference clock since power-up or the reset line (log entry 5). -/
  clock     : Nat
  /-- The clock at the last RESTART ENGINE (R215). -/
  epoch     : Nat
  /-- Lanes whose work arbiter is to be asked before the step ends (R57; log entry 13). -/
  asks      : List (Fin 8)
  /-- The reset line is asserted (R206). -/
  resetLine : Bool
deriving DecidableEq, Repr

/-- The machine: the part, and the queue of the commands that wait, first in, first out. -/
structure State where
  blk     : Block
  pending : List Instr
deriving DecidableEq, Repr

/-- Faults. The manual names no condition that stops the part (log entry 23), so there is no fault: the type has no constructor. -/
inductive Fault where
deriving DecidableEq, Repr

/-- Refusals. -/
inductive Refusal where
  /-- Raised by an arm of exec for a command the model gives no meaning. No arm raises it. Safe: the model stops where the part goes on. -/
  | notModelled (mnemonic : String)
deriving DecidableEq, Repr

/-! ## Reset values -/

/-- R26. -/
def Store.reset : Store :=
  { slots := Vector.replicate 16 none, free := 16384, unit := none, fifo := [] }

/-- R42. -/
def Pool.reset : Pool :=
  { units := Vector.replicate 4 none, fifo := [] }

/-- The nine classes as a set. -/
def ClassSet.all : ClassSet := 0x1FF

/-- R135: routine, careful (IDENTITY and ROLLUP HALT), investigate, survey. -/
def Profile.resetBank : Vector Profile 4 :=
  #v[{ halts := 0, enqueue := true, rewrite := true },
     { halts := 0x041, enqueue := true, rewrite := true },
     { halts := ClassSet.all, enqueue := true, rewrite := false },
     { halts := 0, enqueue := false, rewrite := false }]

/-- R147. -/
def Recorder.reset : Recorder :=
  { log := [], nextSequence := 1, pending := [], flags := 0, profiles := Profile.resetBank, defaultProfile := 0 }

/-- R177. -/
def RepairEngine.reset : RepairEngine :=
  { list := [], freeExtents := List.range 64, rewriteEnabled := true }

/-- R179. -/
def Duty.reset : Duty :=
  { mode := .held, wake := .full, holdTimer := none, share := 2, eligible := Vector.replicate 8 false,
    repairsInShared := false, calibration := Vector.replicate 8 none, lastCalibration := Vector.replicate 8 none }

/-- R206, R208: the port after a start, with ENGINE_UP queued. -/
def Port.started (cause : EngineCause) : Port :=
  { inbound := [], outbound := [.notice (.engineUp cause 0 0 0 1 .full)], gap := false, dropped := 0, receiver := [], raised := [] }

/-- The part after power-up or the reset line: each block's chapter gives its values (R26, R42, R69, R71, R91, R122, R147, R177, R179, R206). The reset line
is not asserted, also where POWER_UP comes under an asserted line (DESIGN CHOICE, log entry 31). -/
def Block.started (cause : EngineCause) : Block :=
  { port := Port.started cause, lanes := Vector.replicate 8 {}, pool := Pool.reset, store := Store.reset,
    sched := { table := [], nextId := 1 }, recorder := Recorder.reset, repair := RepairEngine.reset, staging := [],
    capture := Vector.replicate 16 {}, duty := Duty.reset, clock := 0, epoch := 0, asks := [], resetLine := false }

/-- The machine right after power-up (R206; log entry 19). -/
def State.reset : State :=
  { blk := Block.started .powerUp, pending := [] }

end Sys2Proof.Machine
end

