-- ==== Sys2Proof/Machine/Ops.lean ====
section
/-! DEFINITION. Named operations the blocks share: bytes and checks, staging memory, and access to lanes, slots, units, records, campaigns and entries. -/
namespace Sys2Proof.Machine

/-! ## Bytes and numbers, most significant byte first (00, Conventions) -/

/-- The number that bytes spell, most significant first. -/
def beNat (bs : List Byte) : Nat := bs.foldl (fun acc b => acc * 256 + b.toNat) 0

/-- `n` bytes of a number, most significant first. -/
def beBytes : Nat → Nat → List Byte
  | 0, _ => []
  | n + 1, v => BitVec.ofNat 8 (v / 256 ^ n) :: beBytes n v

/-- A number in a field of `n` bytes; a number past the field gives a free value (log entry 3). -/
def beField (n v : Nat) : List Byte :=
  if v < 256 ^ n then beBytes n v else Config.overflowBytes n v

/-- `len` bytes from an offset of a layout. -/
def sliceAt (bs : List Byte) (off len : Nat) : List Byte := (bs.drop off).take len

/-- The number in `len` bytes at an offset of a layout. -/
def fieldAt (bs : List Byte) (off len : Nat) : Nat := beNat (sliceAt bs off len)

/-- A mark: set or on is 0x01, clear or off 0x00 (R210, R215). -/
def markByte (b : Bool) : Byte := if b then 0x01 else 0x00

/-! ## The three checks (R28, R43, R83) -/

/-- One bit of a CRC: R28's step. -/
def crcBit {w : Nat} (poly r : BitVec w) (d : Bool) : BitVec w :=
  if r.msb ^^ d then (r <<< 1) ^^^ poly else r <<< 1

/-- One byte, its bits most significant first. -/
def crcByte {w : Nat} (poly r : BitVec w) (b : Byte) : BitVec w :=
  [7, 6, 5, 4, 3, 2, 1, 0].foldl (fun acc i => crcBit poly acc (b.getLsbD i)) r

/-- A remainder taken over a sequence of bytes. -/
def crcFrom {w : Nat} (poly r : BitVec w) (bs : List Byte) : BitVec w := bs.foldl (crcByte poly) r

/-- R28's generator polynomial. -/
def l64Poly : Word64 := 0x42F0E1EBA9EA3693

/-- R28's starting remainder: every bit set. -/
def l64Start : Word64 := 0xFFFFFFFFFFFFFFFF

/-- The remainder of R28 over more bytes. -/
def l64Update (r : Word64) (bs : List Byte) : Word64 := crcFrom l64Poly r bs

/-- R28's last step. -/
def l64Finish (r : Word64) : Word64 := r ^^^ 0xFFFFFFFFFFFFFFFF

/-- The L64 digest of a byte sequence (R28). -/
def l64 (bs : List Byte) : Word64 := l64Finish (l64Update l64Start bs)

/-- The CRC-32 of a carriage unit (R43). -/
def crc32 (bs : List Byte) : Word32 := crcFrom 0x04C11DB7#32 0xFFFFFFFF#32 bs ^^^ 0xFFFFFFFF#32

/-- The CRC-16 of the control link and of annotations (R83). -/
def crc16 (bs : List Byte) : Word16 := crcFrom 0x1021#16 0xFFFF#16 bs

/-! ## Staging memory (R155) -/

/-- What a staging byte that is not listed reads as. -/
def Memory.unlisted : Byte := Config.unwrittenByte

/-- One byte of memory. -/
def Memory.read : List Host.Cell → Nat → Byte
  | [], _ => Memory.unlisted
  | (k, v) :: t, a => if k = a then v else Memory.read t a

/-- Write one byte, keeping the canonical form. -/
def Memory.write : List Host.Cell → Nat → Byte → List Host.Cell
  | [], a, b => if b = Memory.unlisted then [] else [(a, b)]
  | (k, v) :: t, a, b =>
    if a < k then (if b = Memory.unlisted then (k, v) :: t else (a, b) :: (k, v) :: t)
    else if a = k then (if b = Memory.unlisted then t else (a, b) :: t)
    else (k, v) :: Memory.write t a b

/-- The canonical form: addresses strictly rising above a bound, and no entry equal to what an unlisted address reads as. -/
def Memory.wfAbove : Option Nat → List Host.Cell → Bool
  | _, [] => true
  | lo, (k, v) :: t =>
    (match lo with | none => true | some l => decide (l < k)) && (v != Memory.unlisted) && Memory.wfAbove (some k) t

/-- The canonical form of memory. -/
def Memory.wf (m : List Host.Cell) : Bool := Memory.wfAbove none m

/-- Bytes of an extent: 16 MiB (R155). -/
def extentBytes : Nat := 16777216

/-- Extents that a frame of a length needs (R155). -/
def extentsNeeded (length : Nat) : Nat := (length + (extentBytes - 1)) / extentBytes

/-- Where byte `i` of a frame stands in staging: offset i mod 16 MiB of the extent in position i / 16 MiB of the list (R155). -/
def stagingAddress (extents : List Nat) (i : Nat) : Option Nat :=
  (extents[i / extentBytes]?).map (fun e => e * extentBytes + i % extentBytes)

/-- Write consecutive bytes of a frame from byte `i` on (R159). -/
def stageBytes (extents : List Nat) : Nat → List Byte → List Host.Cell → List Host.Cell
  | _, [], m => m
  | i, b :: bs, m =>
    stageBytes extents (i + 1) bs (match stagingAddress extents i with | some a => Memory.write m a b | none => m)

/-- Read `n` consecutive bytes of a frame from byte `i` on (R164). -/
def unstageBytes (extents : List Nat) (m : List Host.Cell) : Nat → Nat → List Byte
  | _, 0 => []
  | i, n + 1 =>
    (match stagingAddress extents i with | some a => Memory.read m a | none => Memory.unlisted) :: unstageBytes extents m (i + 1) n

/-- Cut a frame into PAYLOAD bodies of 65,536 bytes, the last with the rest (R58). The first argument bounds the number of bodies. -/
def payloadBodies : Nat → List Byte → List (List Byte)
  | 0, _ => []
  | _, [] => []
  | n + 1, b :: bs => ((b :: bs).take 65536) :: payloadBodies n ((b :: bs).drop 65536)

/-! ## Ranges -/

/-- A lane number 0 to 7. -/
def laneOf (n : Nat) : Option (Fin 8) := if h : n < 8 then some ⟨n, h⟩ else none

/-- A manifest slot 0 to 15. -/
def slotOf (n : Nat) : Option (Fin 16) := if h : n < 16 then some ⟨n, h⟩ else none

/-- A profile 0 to 3. -/
def profileOf (n : Nat) : Option (Fin 4) := if h : n < 4 then some ⟨n, h⟩ else none

/-- An on-or-off byte (R210). -/
def onOff (n : Nat) : Option Bool := if n = 0 then some false else if n = 1 then some true else none

/-- The eight lanes in order. -/
def allLanes : List (Fin 8) := [0, 1, 2, 3, 4, 5, 6, 7]

/-- The sixteen slots in order. -/
def allSlots : List (Fin 16) := [0, 1, 2, 3, 4, 5, 6, 7, 8, 9, 10, 11, 12, 13, 14, 15]

/-- The four digest units, contexts or profiles in order. -/
def allFour : List (Fin 4) := [0, 1, 2, 3]

/-- The largest recorded length, largest frame or announced length: 256 MiB (R3, R45, R71). -/
def maxFrameBytes : Nat := 268435456

/-- One more, stopping at 65,535 (R47, R205). -/
def countUp (n : Nat) : Nat := if n < 65535 then n + 1 else 65535

/-! ## Lanes -/

/-- A lane of the part. -/
def Block.lane (b : Block) (l : Fin 8) : Lane := b.lanes[l]

/-- Change one lane. -/
def Block.updLane (b : Block) (l : Fin 8) (f : Lane → Lane) : Block :=
  { b with lanes := b.lanes.set l.val (f b.lanes[l]) l.isLt }

/-- A lane sends a unit (R44). -/
def Block.send (b : Block) (l : Fin 8) (u : SentUnit) : Block :=
  b.updLane l (fun ln => { ln with sent := ln.sent ++ [u] })

/-- A block raises a notice (R204). -/
def Block.raise (b : Block) (n : Notice) : Block :=
  { b with port := { b.port with raised := b.port.raised ++ [n] } }

/-- The lane's work arbiter is to be asked (R57). -/
def Block.ask (b : Block) (l : Fin 8) : Block :=
  if l ∈ b.asks then b else { b with asks := b.asks ++ [l] }

/-- The number of the lane's open session, 0 when none is open (R43: a session unit never carries 0). -/
def Lane.sessionNumber (ln : Lane) : Nat :=
  match ln.session with
  | some s => s.number
  | none => 0

/-- Start the stall timer with the lane's stall limit (R52). A half-second is 500,000 microseconds. -/
def Block.startStall (b : Block) (l : Fin 8) : Block :=
  b.updLane l (fun ln => { ln with stallTimer := some (b.clock + ln.settings.stallLimit * 500000) })


/-- The lane is in service: it has reached READY and has not since entered OFF, STALLED, SETTLING or LENT (R156). -/
def LaneState.inService : LaneState → Bool
  | .ready => true
  | .engaged => true
  | .calibrating => true
  | .yielding => true
  | .off => false
  | .settling => false
  | .lent => false
  | .stalled => false

/-- The frame of a visit whose FETCH has been sent and whose result has not reached the owner (R20, R106). -/
def Exchange.openVisit : Exchange → Option Nat
  | .frame f => match f.phase with
    | .awaitingMark => some f.fetched
    | .receiving => some f.fetched
    | .draining => none
  | .idle => none
  | .opening => none
  | .closing => none
  | .rewrite _ _ => none
  | .calibration _ _ => none

/-- A frame exchange is in flight, the draining among it. -/
def Exchange.isFrame : Exchange → Bool
  | .frame _ => true
  | .idle => false
  | .opening => false
  | .closing => false
  | .rewrite _ _ => false
  | .calibration _ _ => false

/-- The stall timer runs for the exchange: every exchange in flight but a rewrite whose END has not been sent (R52). -/
def Exchange.timed : Exchange → Bool
  | .idle => false
  | .opening => true
  | .frame _ => true
  | .closing => true
  | .rewrite _ endSent => endSent
  | .calibration _ _ => true

/-- A unit of the exchange in flight, or an ANNOTATION of the open session, starts the stall timer again with the full limit (R52). -/
def Block.restartStall (b : Block) (l : Fin 8) : Block :=
  if (b.lane l).exchange.timed then b.startStall l else b

/-- A rewrite exchange is in flight (R58). -/
def Exchange.isRewrite : Exchange → Bool
  | .rewrite _ _ => true
  | .idle => false
  | .opening => false
  | .closing => false
  | .frame _ => false
  | .calibration _ _ => false

/-- The item in hand is a campaign action. -/
def Lane.campaignItem (ln : Lane) : Bool :=
  match ln.item with
  | some it => it.kind == .campaignAction
  | none => false

/-! ## Manifests and records -/

/-- The manifest in a slot, none when EMPTY. -/
def Store.manifest (st : Store) (k : Fin 16) : Option Manifest := st.slots[k]

/-- Put a manifest into a slot, or empty it. -/
def Store.put (st : Store) (k : Fin 16) (m : Option Manifest) : Store :=
  { st with slots := st.slots.set k.val m k.isLt }

/-- Change the manifest of a slot, if it holds one. -/
def Store.updManifest (st : Store) (k : Fin 16) (f : Manifest → Manifest) : Store :=
  st.put k ((st.manifest k).map f)

/-- The record index of a frame number in a manifest (R1, R93). -/
def Manifest.index (m : Manifest) (frame : Nat) : Option Nat :=
  if m.first ≤ frame ∧ frame < m.first + m.count then some (frame - m.first) else none

/-- The record of a frame number. -/
def Manifest.record (m : Manifest) (frame : Nat) : Option FrameRecord :=
  match m.index frame with
  | some i => m.records[i]?
  | none => none

/-- Change the record of a frame number. -/
def Manifest.updRecord (m : Manifest) (frame : Nat) (f : FrameRecord → FrameRecord) : Manifest :=
  match m.index frame with
  | some i => { m with records := m.records.modify i f }
  | none => m

/-- The record of a frame of a slot's manifest. -/
def Store.record (st : Store) (k : Fin 16) (frame : Nat) : Option FrameRecord :=
  match st.manifest k with
  | some m => m.record frame
  | none => none

/-- Change the record of a frame of a slot's manifest. -/
def Store.updRecord (st : Store) (k : Fin 16) (frame : Nat) (f : FrameRecord → FrameRecord) : Store :=
  st.updManifest k (fun m => m.updRecord frame f)

/-- The recorded length of a frame, 0 where there is none. -/
def Store.recordedLength (st : Store) (k : Fin 16) (frame : Nat) : Nat :=
  match st.record k frame with
  | some r => r.length.getD 0
  | none => 0

/-- A manifest's pin count (R1). -/
def Manifest.pins (m : Manifest) : Nat := m.campaignPins + m.suspectPins

/-- A manifest's identity as a HEADER gives it: reel id, span number, first frame, frame count (R99). -/
def Manifest.identity (m : Manifest) : Word64 × Word32 × Nat × Nat := (m.reel, m.span, m.first, m.count)

/-! ## Campaigns -/

/-- A campaign is active from its acceptance until DONE or ENDED (R92). -/
def CampaignState.active : CampaignState → Bool
  | .done => false
  | .ended => false
  | .waiting => true
  | .opening => true
  | .running => true
  | .closing => true
  | .yielded => true
  | .held => true

/-- The table's entry with an id. -/
def Scheduler.find (sc : Scheduler) (id : Nat) : Option Campaign := sc.table.find? (fun c => c.id == id)

/-- Change the entry with an id. -/
def Scheduler.upd (sc : Scheduler) (id : Nat) (f : Campaign → Campaign) : Scheduler :=
  { sc with table := sc.table.map (fun c => if c.id = id then f c else c) }

/-- A lane's queue: its active campaigns in order of acceptance (R96). -/
def Scheduler.queue (sc : Scheduler) (l : Fin 8) : List Campaign :=
  sc.table.filter (fun c => c.lane == l && c.state.active)

/-- The head of a lane's queue (R96). -/
def Scheduler.head (sc : Scheduler) (l : Fin 8) : Option Campaign := (sc.queue l).head?

/-- A campaign of the part. -/
def Block.campaign (b : Block) (id : Nat) : Option Campaign := b.sched.find id

/-- Change a campaign. -/
def Block.updCampaign (b : Block) (id : Nat) (f : Campaign → Campaign) : Block :=
  { b with sched := b.sched.upd id f }

/-- Change the Fixity Store. -/
def Block.updStore (b : Block) (f : Store → Store) : Block := { b with store := f b.store }

/-- Change the Digest Pool. -/
def Block.updPool (b : Block) (f : Pool → Pool) : Block := { b with pool := f b.pool }

/-- Change the Repair Engine. -/
def Block.updRepair (b : Block) (f : RepairEngine → RepairEngine) : Block := { b with repair := f b.repair }

/-- Change the Duty Controller. -/
def Block.updDuty (b : Block) (f : Duty → Duty) : Block := { b with duty := f b.duty }

/-! ## Suspect List entries -/

/-- The entry with a name. -/
def RepairEngine.find (r : RepairEngine) (k : EntryKey) : Option Entry := r.list.find? (fun e => e.key == k)

/-- Change the entry with a name; it keeps its place (R150). -/
def RepairEngine.upd (r : RepairEngine) (k : EntryKey) (f : Entry → Entry) : RepairEngine :=
  { r with list := r.list.map (fun e => if e.key = k then f e else e) }

/-- Remove the entry with a name; the entries behind keep their order (R150). -/
def RepairEngine.remove (r : RepairEngine) (k : EntryKey) : RepairEngine :=
  { r with list := r.list.filter (fun e => e.key != k) }

/-- Put a number into an ascending list. -/
def insertAscending (n : Nat) : List Nat → List Nat
  | [] => [n]
  | m :: t => if n ≤ m then n :: m :: t else m :: insertAscending n t

/-- Return extents to the free set (R155). -/
def RepairEngine.freeAll (r : RepairEngine) (extents : List Nat) : RepairEngine :=
  { r with freeExtents := extents.foldr insertAscending r.freeExtents }

/-- The lowest-numbered free context (R154): a context is held by the entry that names it. -/
def RepairEngine.freeContext (r : RepairEngine) : Option (Fin 4) :=
  allFour.find? (fun i => r.list.all (fun e => e.context != some i))

/-- Change an entry of the part. -/
def Block.updEntry (b : Block) (k : EntryKey) (f : Entry → Entry) : Block :=
  b.updRepair (fun r => r.upd k f)

/-! ## Digest units -/

/-- The unit a lane holds (R31: a lane holds at most one). -/
def Pool.unitOf (p : Pool) (l : Fin 8) : Option (Fin 4) :=
  allFour.find? (fun i => match p.units[i] with | some u => u.claim.lane == l | none => false)

/-- The unit's contents, as its lane holds it. -/
def Pool.heldBy (p : Pool) (l : Fin 8) : Option DigestUnit :=
  match p.unitOf l with
  | some i => p.units[i]
  | none => none

/-- The lowest-numbered FREE unit (R31). -/
def Pool.freeUnit (p : Pool) : Option (Fin 4) := allFour.find? (fun i => (p.units[i]).isNone)

/-- Put a unit's contents, or FREE. -/
def Pool.setUnit (p : Pool) (i : Fin 4) (u : Option DigestUnit) : Pool :=
  { p with units := p.units.set i.val u i.isLt }

/-- Change the unit a lane holds. -/
def Pool.updHeld (p : Pool) (l : Fin 8) (f : DigestUnit → DigestUnit) : Pool :=
  match p.unitOf l with
  | some i => p.setUnit i ((p.units[i]).map f)
  | none => p

/-- Free the unit a lane holds: a result, an abandonment or an unused release (R32, R35, R36, R37). -/
def Pool.release (p : Pool) (l : Fin 8) : Pool :=
  match p.unitOf l with
  | some i => p.setUnit i none
  | none => p

/-- Withdraw a lane's waiting claim; the claims behind it keep their order (R38). -/
def Pool.withdraw (p : Pool) (l : Fin 8) : Pool :=
  { p with fifo := p.fifo.filter (fun c => c.lane != l) }

/-- The bytes outstanding of a held unit (R34). -/
def DigestUnit.outstanding (u : DigestUnit) : Nat := u.claim.recLength - u.received

/-- The bytes that the unit a lane holds has received (R29). -/
def Pool.receivedBy (p : Pool) (l : Fin 8) : Nat :=
  match p.heldBy l with
  | some u => u.received
  | none => 0

/-- The bytes of more payload that the unit digests: the first recorded-length bytes of the frame (R33). -/
def DigestUnit.digestible (u : DigestUnit) (bs : List Byte) : List Byte := bs.take (u.claim.recLength - u.received)

/-- Take payload bytes (R33): count them all, digest the first recorded-length bytes of the frame. -/
def DigestUnit.take (u : DigestUnit) (bs : List Byte) : DigestUnit :=
  { u with received := u.received + bs.length, remainder := l64Update u.remainder (u.digestible bs) }

/-! ## Duty permissions (R180) -/

/-- A lane may run campaigns. -/
def Duty.mayRun (d : Duty) (l : Fin 8) : Bool :=
  match d.mode with
  | .full => true
  | .shared => d.eligible[l]
  | .held => false

/-- Repairs are permitted on an entry's two lanes. -/
def Duty.permits (d : Duty) (source damaged : Fin 8) : Bool :=
  match d.mode with
  | .full => true
  | .shared => d.repairsInShared && d.eligible[source] && d.eligible[damaged]
  | .held => false

/-- A lane's effective ceiling in MiB/s, or none (R190). -/
def Duty.effectiveCeiling (d : Duty) (l : Fin 8) (ceiling : Nat) : Option Nat :=
  match d.mode with
  | .full => some ceiling
  | .shared => if d.eligible[l] then some (max 1 (ceiling * d.share / 8)) else none
  | .held => none

/-- Whole seconds left of a timer, rounded up, 0 when it is stopped (R90, R188). -/
def secondsLeft (clock : Nat) : Option Nat → Nat
  | some t => (t - clock + 999999) / 1000000
  | none => 0

/-! ## Pacing (R189, R190) -/

/-- The opening time of a pacing gate, in microseconds: the later of the end plus 4 ms and, with an effective ceiling, the FETCH plus
the frame's bytes at the ceiling, rounded up to a whole microsecond. -/
def gateTime (fetchAt bytes endAt : Nat) : Option Nat → Nat
  | some ceiling => max (endAt + 4000) (fetchAt + (bytes * 1000000 + (ceiling * 1048576 - 1)) / (ceiling * 1048576))
  | none => endAt + 4000

/-- Compute a lane's gate again from its pacing record (R190). A gate whose time is already past asks the arbiter. -/
def Block.regate (b : Block) (l : Fin 8) : Block :=
  match (b.lane l).pacing with
  | some p => match p.ended with
    | some (bytes, endAt) =>
      let t := gateTime p.fetchAt bytes endAt (b.duty.effectiveCeiling l (b.lane l).settings.ceiling)
      let b1 := b.updLane l (fun ln => { ln with gate := some t })
      if t ≤ b.clock then b1.ask l else b1
    | none => b
  | none => b

/-- A lane's pacing gate is open (R190). -/
def Block.gateOpen (b : Block) (l : Fin 8) : Bool :=
  match (b.lane l).gate with
  | some t => decide (t ≤ b.clock)
  | none => true

/-- The campaign frame exchange of a lane ends or is abandoned: its pacing record takes the bytes and the time (R189). -/
def Block.endPacing (b : Block) (l : Fin 8) : Block :=
  match (b.lane l).campaignItem, (b.lane l).exchange with
  | true, .frame f =>
    (b.updLane l (fun ln => { ln with
      pacing := ln.pacing.map (fun p => { p with ended := some (f.soFar, b.clock) }) })).regate l
  | _, _ => b

end Sys2Proof.Machine
end

