-- ==== Sys2Proof/Machine/Flags.lean ====
section
/-! DEFINITION. Class sets, verdict codes, conditions and the outcome of an event: the flag computations of chapters 02 and 06. -/
namespace Sys2Proof.Machine

/-- The number of a class; the lower number takes precedence (R124). -/
def FindingClass.number : FindingClass → Nat
  | .identity => 0
  | .unreadable => 1
  | .missing => 2
  | .short => 3
  | .long => 4
  | .content => 5
  | .rollup => 6
  | .stray => 7
  | .annotation => 8

/-- The classes in order of precedence. -/
def FindingClass.all : List FindingClass :=
  [.identity, .unreadable, .missing, .short, .long, .content, .rollup, .stray, .annotation]

/-- The set of one class. -/
def FindingClass.set (c : FindingClass) : ClassSet := BitVec.twoPow 9 c.number

/-- A class stands in a set. -/
def ClassSet.has (s : ClassSet) (c : FindingClass) : Bool := s.getLsbD c.number

/-- The highest-precedence class of a set (R125). -/
def ClassSet.highest (s : ClassSet) : Option FindingClass := FindingClass.all.find? (fun c => ClassSet.has s c)

/-- The frame findings, classes 1 to 5 (R124). -/
def ClassSet.frameLevel : ClassSet := 0x03E

/-- The classes a disregard set may name: LONG, STRAY, MISSING, ROLLUP, ANNOTATION (R92, R124). -/
def ClassSet.disregardable : ClassSet := 0x1D4

/-- The code of a verdict (R39). -/
def Verdict.code : Verdict → Nat
  | .sound => 0
  | .damaged => 1
  | .missized => 2
  | .uncomparable => 3

/-- A digest unit's result as it is handed to the owner, beside the frame's number: complete (R35), or incomplete with its cause (R36), each with the
bytes received; `restartLimit` is R106's third stall on one frame, which has no result from the pool (R39). -/
inductive FrameResult where
  | complete (received : Nat) (digest : Word64)
  | fault (received : Nat) (reason : Byte)
  | notFound (received : Nat)
  | substituted (received delivered : Nat)
  | restartLimit
deriving DecidableEq, Repr

/-- The frame number a substituting MARK carried. -/
def FrameResult.delivered : FrameResult → Option Nat
  | .substituted _ n => some n
  | .complete _ _ => none
  | .fault _ _ => none
  | .notFound _ => none
  | .restartLimit => none

/-- The verdict code: R39's rows, tried in order, over the record's recorded length and expected digest. -/
def verdictOf (length : Nat) (expected : Word64) : FrameResult → Verdict
  | .fault _ _ => .uncomparable
  | .notFound _ => .uncomparable
  | .substituted _ _ => .uncomparable
  | .restartLimit => .uncomparable
  | .complete received digest =>
    if received = length then (if digest = expected then .sound else .damaged) else .missized

/-- The conditions handed to the Finding Recorder (R39, R40). -/
def conditionsOf (length : Nat) (expected : Word64) : FrameResult → ClassSet
  | .fault _ _ => FindingClass.unreadable.set
  | .notFound _ => FindingClass.missing.set
  | .substituted _ _ => FindingClass.missing.set ||| FindingClass.stray.set
  | .restartLimit => FindingClass.unreadable.set
  | .complete received digest =>
    if received = length then (if digest = expected then 0 else FindingClass.content.set)
    else if received < length then FindingClass.short.set
    else if digest = expected then FindingClass.long.set
    else FindingClass.long.set ||| FindingClass.content.set

/-- The outcome of an event (R128). `goOn` is CONTINUE, `finish` is END. -/
inductive EventOutcome where
  | goOn | halt | finish
deriving DecidableEq, Repr

/-- An event as a campaign hands it to the Finding Recorder (R103, R99, R105, R108). `frame` is present for a frame event. -/
structure Event where
  conditions : ClassSet
  frame      : Option (Verdict × Nat)
  delivered  : Option Nat
  annotation : Option (Byte × Word64 × Word32)
deriving DecidableEq, Repr

/-- What the Recorder decides on an event (R125 to R128). -/
structure Decision where
  profile    : Fin 4
  recognised : ClassSet
  halts      : ClassSet
  noted      : ClassSet
  outcome    : EventOutcome
deriving DecidableEq, Repr

/-- The profile a campaign's events are handled under (R126). -/
def Recorder.resolve (r : Recorder) : ProfileChoice → Fin 4
  | .numbered p => p
  | .current => r.defaultProfile

/-- Recognition and dispositions (R127, R128): a condition of the disregard set is not recognised; each recognised class takes the profile's disposition. -/
def Recorder.judge (r : Recorder) (choice : ProfileChoice) (disregard conditions : ClassSet) : Decision :=
  let p := r.resolve choice
  let recognised := conditions &&& ~~~disregard
  let halts := recognised &&& (r.profiles[p]).halts
  let noted := recognised &&& ~~~(r.profiles[p]).halts
  { profile := p, recognised := recognised, halts := halts, noted := noted,
    outcome := if halts ≠ 0 then .halt else if ClassSet.has noted .identity then .finish else .goOn }

/-- The halting class when there is one, and otherwise the highest-precedence recognised class (R125). -/
def Decision.loggedClass (d : Decision) : Option FindingClass :=
  if d.halts ≠ 0 then ClassSet.highest d.halts else ClassSet.highest d.recognised

/-- The cause class of a suspect (R125): the highest-precedence frame-level class disposed NOTE. -/
def Decision.causeClass (d : Decision) : Option FindingClass :=
  ClassSet.highest (d.noted &&& ClassSet.frameLevel)

/-- A frame-level class is recognised on the event (R129). -/
def Decision.frameFinding (d : Decision) : Bool := d.recognised &&& ClassSet.frameLevel != 0

/-- The halt code of the event (R125). -/
def Decision.haltCode (d : Decision) : Option HaltCode :=
  (ClassSet.highest d.halts).map (fun c => { cls := c, recognised := d.recognised })

end Sys2Proof.Machine
end

