-- ==== Sys2Proof/Machine/Operands.lean ====
section
/-! DEFINITION. The operand forms: request bodies and reader-unit bodies as the layouts of chapter 09 give them, and the codes and bodies of
what the part sends (R209 to R215). -/
namespace Sys2Proof.Machine

/-! ## Reader units (R43, R45, R211) -/

/-- The bytes a unit's CRC-32 covers: type, session number, body length, body (R43, R211). -/
def unitBytes (type session : Byte) (body : List Byte) : List Byte :=
  type :: session :: (beBytes 3 body.length ++ body)

/-- The CRC-32 of a received unit matches (R43, R46). -/
def unitCrcGood (type session : Byte) (body : List Byte) (crc : Word32) : Bool :=
  crc32 (unitBytes type session body) == crc

/-- HELLO of a reader: rewritable 0x00 or 0x01, largest frame 1 to 256 MiB (R45, R211). -/
def parseHello (body : List Byte) : Option Caps :=
  if body.length = 5 ∧ 1 ≤ fieldAt body 1 4 ∧ fieldAt body 1 4 ≤ maxFrameBytes then
    (onOff (fieldAt body 0 1)).map (fun r => { rewritable := r, largest := fieldAt body 1 4 })
  else none

/-- HEADER: reel id, span number, first frame, frame count (R211). -/
def parseHeader (body : List Byte) : Option (Word64 × Word32 × Nat × Nat) :=
  if body.length = 20 then
    some (BitVec.ofNat 64 (fieldAt body 0 8), BitVec.ofNat 32 (fieldAt body 8 4), fieldAt body 12 4, fieldAt body 16 4)
  else none

/-- MARK: frame number and length (R211). R45 gives neither a range: the length is the parser's to check (R75). -/
def parseMark (body : List Byte) : Option (Nat × Nat) :=
  if body.length = 8 then some (fieldAt body 0 4, fieldAt body 4 4) else none

/-- PAYLOAD: a body of 1 to 65,536 bytes (R43). -/
def payloadBodyGood (body : List Byte) : Bool := decide (1 ≤ body.length) && decide (body.length ≤ 65536)

/-- TRAILER: roll-up and frame count (R211). -/
def parseTrailer (body : List Byte) : Option (Word64 × Nat) :=
  if body.length = 12 then some (BitVec.ofNat 64 (fieldAt body 0 8), fieldAt body 8 4) else none

/-- What a NOT_FOUND names (R45, R211). -/
inductive Missing where
  | frame (n : Nat)
  | span (reel : Word64) (span : Word32)
deriving DecidableEq, Repr

/-- NOT_FOUND: form 0x00 a frame, whose reel bytes are not compared, or 0x01 a span (R211). -/
def parseNotFound (body : List Byte) : Option Missing :=
  if body.length = 13 then
    if fieldAt body 0 1 = 0 then some (.frame (fieldAt body 9 4))
    else if fieldAt body 0 1 = 1 then some (.span (BitVec.ofNat 64 (fieldAt body 1 8)) (BitVec.ofNat 32 (fieldAt body 9 4)))
    else none
  else none

/-- FAULT: frame number and the reader's reason code (R211). -/
def parseFault (body : List Byte) : Option (Nat × Byte) :=
  if body.length = 5 then some (fieldAt body 0 4, BitVec.ofNat 8 (fieldAt body 4 1)) else none

/-- REWRITE_DONE and REWRITE_FAILED: a frame number (R211). -/
def parseFrameNumber (body : List Byte) : Option Nat :=
  if body.length = 4 then some (fieldAt body 0 4) else none

/-- ANNOTATION: kind 0x10 to 0xFE, content length 0 to 60 and equal to the body length less four, content, 16-bit check (R82). -/
def parseAnnotation (body : List Byte) : Option (Byte × List Byte × Word16) :=
  if 4 ≤ body.length ∧ body.length = fieldAt body 1 1 + 4 ∧ fieldAt body 1 1 ≤ 60 ∧ 0x10 ≤ fieldAt body 0 1 ∧ fieldAt body 0 1 ≤ 0xFE then
    some (BitVec.ofNat 8 (fieldAt body 0 1), sliceAt body 2 (fieldAt body 1 1),
      BitVec.ofNat 16 (fieldAt body (2 + fieldAt body 1 1) 2))
  else none

/-- The annotation check of R83, over the kind, the content length and the content. -/
def annotationCheck (kind : Byte) (content : List Byte) : Word16 :=
  crc16 (kind :: BitVec.ofNat 8 content.length :: content)

/-! ## Units the part sends (R44, R211) -/

/-- A whole carriage unit: header, body, CRC-32 (R211). -/
def wholeUnit (type : Byte) (session : Nat) (body : List Byte) : List Byte :=
  let head := unitBytes type (BitVec.ofNat 8 session) body
  head ++ beBytes 4 (crc32 head).toNat

/-- The bytes of a unit the lane sends (R211). -/
def SentUnit.bytes : SentUnit → List Byte
  | .hello => wholeUnit 0x01 0 []
  | .restart => wholeUnit 0x02 0 []
  | .openSpan s reel span => wholeUnit 0x03 s (beBytes 8 reel.toNat ++ beBytes 4 span.toNat)
  | .fetch s f => wholeUnit 0x04 s (beBytes 4 f)
  | .close s => wholeUnit 0x05 s []
  | .rewrite s f n => wholeUnit 0x06 s (beBytes 4 f ++ beBytes 4 n)
  | .calibrate s n => wholeUnit 0x07 s (beBytes 4 n)
  | .halt s => wholeUnit 0x08 s []
  | .release => wholeUnit 0x09 0 []
  | .payload s bs => wholeUnit 0x10 s bs
  | .endUnit s => wholeUnit 0x11 s []

/-! ## Codes (R201, R209, R210, R214, R215) -/

/-- R209. -/
def Reason.code : Reason → Byte
  | .form => 0x01
  | .kind => 0x02
  | .duty => 0x03
  | .range => 0x04
  | .absent => 0x05
  | .state => 0x06
  | .room => 0x07
  | .pinned => 0x08
  | .overlap => 0x09
  | .busy => 0x0A

/-- R214. -/
def LaneState.code : LaneState → Byte
  | .off => 0x00
  | .settling => 0x01
  | .ready => 0x02
  | .engaged => 0x03
  | .calibrating => 0x04
  | .yielding => 0x05
  | .lent => 0x06
  | .stalled => 0x07

/-- R214. -/
def LaneCause.code : LaneCause → Byte
  | .reset => 0x00
  | .bringUp => 0x01
  | .settled => 0x02
  | .restart => 0x03
  | .hostRestart => 0x04
  | .stall => 0x05
  | .noAnswer => 0x06
  | .putDown => 0x07
  | .hold => 0x08
  | .wake => 0x09
  | .yield => 0x0A
  | .resume => 0x0B

/-- R214; EMPTY is 0x00. -/
def ManifestState.code : ManifestState → Byte
  | .loading => 0x01
  | .closing => 0x02
  | .ready => 0x03
  | .discordant => 0x04

/-- R214. -/
def RecordState.code : RecordState → Byte
  | .unvisited => 0x00
  | .sound => 0x01
  | .suspect => 0x02
  | .inRepair => 0x03
  | .repaired => 0x04
  | .sisterSound => 0x05
  | .lost => 0x06

/-- R214; an absent detail is 0x00. -/
def detailCode : Option Detail → Byte
  | none => 0x00
  | some .notRewritable => 0x01
  | some .rewriteOff => 0x02
  | some .rewriteUnreliable => 0x03
  | some .bothDamaged => 0x04
  | some .sourceUnreadable => 0x05

/-- R214. -/
def CampaignState.code : CampaignState → Byte
  | .waiting => 0x00
  | .opening => 0x01
  | .running => 0x02
  | .closing => 0x03
  | .yielded => 0x04
  | .held => 0x05
  | .done => 0x06
  | .ended => 0x07

/-- R214. -/
def CampaignCause.code : CampaignCause → Byte
  | .finding => 0x01
  | .stall => 0x02
  | .laneDown => 0x03
  | .logFull => 0x04
  | .abandoned => 0x05
  | .identity => 0x06
  | .complete => 0x07
  | .resumed => 0x08
  | .logged => 0x09

/-- A held cause as a campaign cause (R121). -/
def HeldCause.cause : HeldCause → CampaignCause
  | .finding => .finding
  | .stall => .stall
  | .laneDown => .laneDown
  | .logFull => .logFull

/-- An end cause as a campaign cause (R121). -/
def EndCause.cause : EndCause → CampaignCause
  | .abandoned => .abandoned
  | .identity => .identity

/-- R214. -/
def RepairPhase.code : RepairPhase → Byte
  | .waiting => 0x00
  | .fetching => 0x01
  | .staged => 0x02
  | .rewriting => 0x03
  | .readback => 0x04

/-- R214. -/
def DutyMode.code : DutyMode → Byte
  | .full => 0x01
  | .shared => 0x02
  | .held => 0x03

/-- R210. -/
def WakeMode.code : WakeMode → Byte
  | .full => 0x01
  | .shared => 0x02

/-- The duty mode a wake mode leads to (R185, R186). -/
def WakeMode.mode : WakeMode → DutyMode
  | .full => .full
  | .shared => .shared

/-- R214. -/
def DutyCause.code : DutyCause → Byte
  | .hold => 0x01
  | .expiry => 0x02
  | .wake => 0x03
  | .setDuty => 0x04

/-- R214. -/
def AbortCause.code : AbortCause → Byte
  | .yield => 0x01
  | .stall => 0x02
  | .putDown => 0x03
  | .restart => 0x04

/-- R214. -/
def EngineCause.code : EngineCause → Byte
  | .powerUp => 0x01
  | .resetLine => 0x02
  | .restart => 0x03

/-- R214. -/
def RejectCause.code : RejectCause → Byte
  | .length => 0x01
  | .gap => 0x02
  | .check => 0x03
  | .tag => 0x04

/-- A lane that may be absent: 0xFF when absent (R210). -/
def laneByte : Option (Fin 8) → Byte
  | some l => BitVec.ofNat 8 l.val
  | none => 0xFF

/-- A class set in two bytes (R210). -/
def classSetBytes (s : ClassSet) : List Byte := beBytes 2 s.toNat

/-- The cause class of an entry: 1 to 5, or 0xFF for HOST (R213). -/
def causeByte : Option FindingClass → Byte
  | some c => BitVec.ofNat 8 c.number
  | none => 0xFF

/-- A quantity that may be absent: a presence byte, then the value, or zeros when absent (R215). -/
def optBytes (width : Nat) : Option (List Byte) → List Byte
  | some bs => 0x01 :: bs
  | none => 0x00 :: List.replicate width 0x00

/-- A profile choice: 0 to 3, or 0xFF for CURRENT (R210). -/
def ProfileChoice.byte : ProfileChoice → Byte
  | .numbered p => BitVec.ofNat 8 p.val
  | .current => 0xFF

/-- A campaign's resume point: whether it is PAST, and the frame number, 0 when PAST (R213). -/
def resumeBytes : Option Nat → List Byte
  | some f => 0x00 :: beBytes 4 f
  | none => 0x01 :: beBytes 4 0

/-- The five counts, two bytes each (R213). -/
def Counts.bytes (c : Counts) : List Byte :=
  beBytes 2 c.sound ++ beBytes 2 c.damaged ++ beBytes 2 c.missized ++ beBytes 2 c.uncomparable ++ beBytes 2 c.skipped

/-! ## Notices and frames (R197, R209, R213) -/

/-- The kind of a notice (R213). -/
def Notice.kind : Notice → Byte
  | .engineUp .. => 0x40
  | .laneChanged .. => 0x41
  | .manifestSettled .. => 0x42
  | .campaignChanged .. => 0x43
  | .logAdvanced .. => 0x44
  | .repairSettled .. => 0x45
  | .calibrationDone .. => 0x46
  | .dutyChanged .. => 0x47
  | .captureSeen .. => 0x48
  | .frameRejected .. => 0x49
  | .requestDropped .. => 0x4A
  | .noticeGap .. => 0x4B

/-- The body of a notice (R213). -/
def Notice.body : Notice → List Byte
  | .engineUp cause last slots suspects nextId wake =>
    cause.code :: (beBytes 4 last ++ beBytes 1 slots ++ beBytes 1 suspects ++ beBytes 2 nextId ++ [wake.code])
  | .laneChanged l st cause restarts => [BitVec.ofNat 8 l.val, st.code, cause.code, BitVec.ofNat 8 restarts]
  | .manifestSettled k reel span st computed =>
    BitVec.ofNat 8 k.val :: (beBytes 8 reel.toNat ++ beBytes 4 span.toNat ++ [st.code] ++ beBytes 8 computed.toNat)
  | .campaignChanged id l k st cause resume counts =>
    beBytes 2 id ++ [BitVec.ofNat 8 l.val, BitVec.ofNat 8 k.val, st.code, cause.code] ++ resumeBytes resume ++ counts.bytes
  | .logAdvanced n => beBytes 4 n
  | .repairSettled key reel span outcome detail damaged source cause seq sa ra intr =>
    BitVec.ofNat 8 key.slot.val :: (beBytes 8 reel.toNat ++ beBytes 4 span.toNat ++ beBytes 4 key.frame ++
      [outcome.code, detailCode detail, BitVec.ofNat 8 damaged.val, BitVec.ofNat 8 source.val, causeByte cause] ++
      beBytes 4 (seq.getD 0) ++ [BitVec.ofNat 8 sa, BitVec.ofNat 8 ra, markByte intr])
  | .calibrationDone l (.done t _) ceiling before =>
    [BitVec.ofNat 8 l.val, 0x00, 0x00] ++ beBytes 2 ceiling ++ beBytes 2 before ++ beField 4 t
  | .calibrationDone l (.aborted c) ceiling before =>
    [BitVec.ofNat 8 l.val, 0x01, c.code] ++ beBytes 2 ceiling ++ beBytes 2 before ++ beBytes 4 0
  | .dutyChanged entered left cause wake holdLeft =>
    [entered.code, left.code, cause.code, wake.code] ++ beBytes 4 holdLeft
  | .captureSeen k l kind content =>
    [BitVec.ofNat 8 k.val, BitVec.ofNat 8 l.val, kind, BitVec.ofNat 8 content.length] ++ content
  | .frameRejected cause kind tag => [cause.code, kind, tag]
  | .requestDropped kind tag => [kind, tag]
  | .noticeGap n => beBytes 2 n

/-- The body of a reply: the status byte, then the results of a DONE reply (R209). -/
def Reply.body : Reply → List Byte
  | .done results => 0x00 :: results
  | .refused r => [r.code]

/-- The kind, tag and body of an outbound frame (R197, R201). -/
def OutFrame.parts : OutFrame → Byte × Byte × List Byte
  | .reply kind tag r => (kind, tag, r.body)
  | .notice n => (n.kind, 0x00, n.body)

/-- A whole control-link frame: sync pair, body length, kind, tag, body, check (R209). -/
def linkFrame (kind tag : Byte) (body : List Byte) : List Byte :=
  let checked := beBytes 2 body.length ++ [kind, tag] ++ body
  [0xA5, 0x5A] ++ checked ++ beBytes 2 (crc16 checked).toNat

/-- The bytes of an outbound frame on the control link (R197, R209). -/
def OutFrame.bytes (f : OutFrame) : List Byte := linkFrame f.parts.1 f.parts.2.1 f.parts.2.2

/-! ## Parts of reply bodies (R41, R67, R215; log entry 9) -/

/-- The kind of a digest claim, as its place in R29's list (R215). -/
def ClaimKind.code : ClaimKind → Byte
  | .campaignFrame => 0x00
  | .sourceFetch => 0x01
  | .readback => 0x02

/-- R47's list of session kinds (R215). -/
def SessionKind.code : SessionKind → Byte
  | .campaign => 0x00
  | .repair => 0x01
  | .calibration => 0x02

/-- R71's list of frame phases; NONE is 0x00 (R215). -/
def FramePhase.code : FramePhase → Byte
  | .awaitingMark => 0x01
  | .receiving => 0x02
  | .draining => 0x03

/-- The exchange in flight as READ LANE reports it (R67, R71): the exchange, the frame phase, the fetched frame, the delivered
frame, the announced length and the bytes so far, each absent outside a frame exchange. -/
def Exchange.bytes : Exchange → List Byte
  | .idle => [0x00, 0x00] ++ optBytes 4 none ++ optBytes 4 none ++ optBytes 4 none ++ optBytes 4 none
  | .opening => [0x01, 0x00] ++ optBytes 4 none ++ optBytes 4 none ++ optBytes 4 none ++ optBytes 4 none
  | .frame f => [0x02, f.phase.code] ++ optBytes 4 (some (beBytes 4 f.fetched)) ++ optBytes 4 (f.delivered.map (beBytes 4)) ++
      optBytes 4 (f.announced.map (beBytes 4)) ++ optBytes 4 (some (beBytes 4 f.soFar))
  | .closing => [0x03, 0x00] ++ optBytes 4 none ++ optBytes 4 none ++ optBytes 4 none ++ optBytes 4 none
  | .rewrite _ _ => [0x04, 0x00] ++ optBytes 4 none ++ optBytes 4 none ++ optBytes 4 none ++ optBytes 4 none
  | .calibration _ _ => [0x05, 0x00] ++ optBytes 4 none ++ optBytes 4 none ++ optBytes 4 none ++ optBytes 4 none

/-- The open session as READ LANE reports it (R67). -/
def Session.bytes (s : Session) : List Byte :=
  [BitVec.ofNat 8 s.number, s.kind.code] ++ optBytes 8 (s.span.map (fun p => beBytes 8 p.1.toNat)) ++
    optBytes 4 (s.span.map (fun p => beBytes 4 p.2.toNat))

/-- R55's list of item kinds (R215). -/
def ItemKind.code : ItemKind → Byte
  | .campaignAction => 0x00
  | .repairStep => 0x01
  | .calibrationRun => 0x02

/-- The item's kind and owner as READ LANE reports them (R67): a campaign id, and an entry's slot and frame, each absent where the owner is another. -/
def Item.bytes (it : Item) : List Byte :=
  it.kind.code :: match it.owner with
    | .campaign id => optBytes 2 (some (beBytes 2 id)) ++ optBytes 5 none
    | .entry k => optBytes 2 none ++ optBytes 5 (some (BitVec.ofNat 8 k.slot.val :: beBytes 4 k.frame))
    | .duty => optBytes 2 none ++ optBytes 5 none

/-- The place, counted from 1, of the first item of a list that meets a test; 0 when none does. -/
def placeOf {α : Type} (p : α → Bool) : List α → Nat
  | [] => 0
  | x :: t => if p x then 1 else (match placeOf p t with | 0 => 0 | n + 1 => n + 2)

/-- The digest claim of a lane as R41 gives it: NONE, WAITING with its place and kind, or HELD with the unit's values. -/
def Pool.claimBytes (p : Pool) (l : Fin 8) : List Byte :=
  match p.unitOf l, p.heldBy l with
  | some i, some u =>
    [0x02, BitVec.ofNat 8 i.val, (if u.running then 0x02 else 0x01), u.claim.kind.code] ++ beBytes 4 u.claim.frame ++
      beBytes 4 u.claim.recLength ++ beBytes 4 u.received ++ beBytes 4 u.outstanding
  | _, _ =>
    match p.fifo.find? (fun c => c.lane == l) with
    | some c => [0x01, BitVec.ofNat 8 (placeOf (fun c => c.lane == l) p.fifo), c.kind.code]
    | none => [0x00]

/-- A frame record as READ RECORDS gives it, with the frame number it describes (R19). -/
def FrameRecord.bytes (frame : Nat) (r : FrameRecord) : List Byte :=
  beBytes 4 frame ++ optBytes 4 (r.length.map (beBytes 4)) ++ beBytes 8 r.digest.toNat ++ [r.state.code] ++
    optBytes 1 (r.last.map (fun v => [BitVec.ofNat 8 v.code])) ++ [markByte r.visiting, markByte r.queued, detailCode r.detail]

/-- A finding as READ FINDINGS gives it: 37 bytes (R212). -/
def Finding.bytes (f : Finding) : List Byte :=
  beBytes 4 (f.sequence.getD 0) ++ [BitVec.ofNat 8 f.cls.number] ++ classSetBytes f.recognised ++
    [markByte f.halted, BitVec.ofNat 8 f.profile.val] ++ beBytes 2 f.campaign ++
    [BitVec.ofNat 8 f.lane.val, BitVec.ofNat 8 f.slot.val] ++ beBytes 8 f.reel.toNat ++ beBytes 4 f.span.toNat ++
    beBytes 4 (f.frame.getD 0) ++ beBytes 4 (f.delivered.getD 0) ++
    [BitVec.ofNat 8 (match f.verdict with | some v => v.code | none => 0), f.annotation.getD 0,
     (if f.frame.isSome then 0x01 else 0x00) + (if f.delivered.isSome then 0x02 else 0x00), markByte f.acknowledged]

/-- A capture slot as READ CAPTURE gives it (R90). An unset kind is 0x00, ANY and an absent last lane 0xFF (R210). The content length and the content
are one optional value: a presence byte, then both, or one zero byte when absent (PRESUMED, log entry 9). -/
def CaptureSlot.bytes (clock : Nat) (c : CaptureSlot) : List Byte :=
  [laneByte c.selector, c.kind.getD 0x00, markByte c.keepFaulty, BitVec.ofNat 8 c.window, markByte c.notify,
   markByte c.seen, markByte c.faulty, laneByte c.lastLane, BitVec.ofNat 8 (secondsLeft clock c.timer)] ++
    optBytes 1 (c.content.map (fun bs => BitVec.ofNat 8 bs.length :: bs))

/-- Whole items of a list, in order, as far as they fit in the bytes that remain of a body (R215). -/
def fitItems : Nat → List (List Byte) → List (List Byte)
  | _, [] => []
  | room, i :: t => if i.length ≤ room then i :: fitItems (room - i.length) t else []

/-- The results of a DONE reply that lists items after a fixed part: one byte with the number of the items sent, then as many whole ones as fit in a
body of 1,024 bytes, whose first byte is the status (R209, R215; log entry 9). -/
def listResults (fixed : List Byte) (items : List (List Byte)) : List Byte :=
  let sent := fitItems (1022 - fixed.length) items
  fixed ++ [BitVec.ofNat 8 sent.length] ++ sent.flatten

end Sys2Proof.Machine
end

