-- ==== Sys2Proof/Machine/Port.lean ====
section
/-! DEFINITION. The Control Port (chapter 09): the receiver, the inbound and outbound queues, and the port's own checks. -/
namespace Sys2Proof.Machine

/-! ## The outbound queue (R203, R204, R205) -/

/-- A frame stands in a notice place. -/
def OutFrame.isNotice : OutFrame → Bool
  | .notice _ => true
  | .reply _ _ _ => false

/-- Notice places in use. -/
def Port.noticesUsed (p : Port) : Nat := p.outbound.countP OutFrame.isNotice

/-- Reply places in use. -/
def Port.repliesUsed (p : Port) : Nat := p.outbound.countP (fun f => !f.isNotice)

/-- A LOG_ADVANCED stands in the queue. -/
def OutFrame.isLogAdvanced : OutFrame → Bool
  | .notice (.logAdvanced _) => true
  | .notice _ => false
  | .reply _ _ _ => false

/-- Queue a notice in a free notice place, or drop it and remember the drop (R203, R205). -/
def Port.place (p : Port) (n : Notice) : Port :=
  if p.noticesUsed < 12 then { p with outbound := p.outbound ++ [.notice n] }
  else { p with gap := true, dropped := countUp p.dropped }

/-- Bring a waiting LOG_ADVANCED up to date (R143). The first frame of the queue is being sent and is no longer waiting (log entry 6). -/
def Port.foldLog (p : Port) (last : Nat) : Port :=
  match p.outbound with
  | [] => p
  | h :: t => { p with outbound := h :: t.map (fun f => if f.isLogAdvanced then .notice (.logAdvanced last) else f) }

/-- Queue a raised notice: a LOG_ADVANCED folds into one that waits, any other notice needs a place (R143, R205). -/
def Port.queueNotice (p : Port) (n : Notice) : Port :=
  match n with
  | .logAdvanced last => if p.outbound.tail.any OutFrame.isLogAdvanced then p.foldLog last else p.place n
  | .engineUp .. => p.place n
  | .laneChanged .. => p.place n
  | .manifestSettled .. => p.place n
  | .campaignChanged .. => p.place n
  | .repairSettled .. => p.place n
  | .calibrationDone .. => p.place n
  | .dutyChanged .. => p.place n
  | .captureSeen .. => p.place n
  | .frameRejected .. => p.place n
  | .requestDropped .. => p.place n
  | .noticeGap .. => p.place n

/-- Queue the notices raised in the step, in the order raised (R204). -/
def Port.flush (p : Port) : Port :=
  p.raised.foldl Port.queueNotice { p with raised := [] }

/-- Queue the notices of a step of the part. -/
def Block.flush (b : Block) : Block := { b with port := b.port.flush }

/-- The last byte of the first frame has been sent: its place is freed, and a freed notice place takes NOTICE_GAP when the
marker is set (R203, R205). -/
def Port.frameSent (p : Port) : Port :=
  match p.outbound with
  | [] => p
  | h :: t =>
    if h.isNotice && p.gap then
      { p with outbound := t ++ [.notice (.noticeGap p.dropped)], gap := false, dropped := 0 }
    else { p with outbound := t }

/-! ## The receiver and the inbound queue (R198, R199) -/

/-- A received request joins the inbound queue, or is dropped when four are held (R199). -/
def Port.accept (p : Port) (r : Request) : Port :=
  if p.inbound.length < 4 then { p with inbound := p.inbound ++ [r] }
  else { p with raised := p.raised ++ [.requestDropped r.kind r.tag] }

/-- Reject a frame (R198). -/
def Port.reject (p : Port) (cause : RejectCause) (kind tag : Byte) : Port :=
  { p with raised := p.raised ++ [.frameRejected cause kind tag] }

/-- The receiver takes bytes (R198). `bs` begins where the receiver hunts; the fuel is at least the number of bytes. After a LENGTH or CHECK
rejection it hunts again from the byte after the 0xA5 that began the frame; after a whole frame, from the byte after its check. -/
def Port.scan : Nat → List Byte → Port → Port
  | 0, bs, p => { p with receiver := bs }
  | n + 1, bs, p =>
    match bs with
    | [] => { p with receiver := [] }
    | b :: rest =>
      if b ≠ 0xA5 then Port.scan n rest p
      else if rest = [] then { p with receiver := bs }
      else if rest.head? ≠ some 0x5A then Port.scan n rest p
      else if bs.length < 4 then { p with receiver := bs }
      else if 1024 < fieldAt bs 2 2 then Port.scan n rest (p.reject .length 0 0)
      else if bs.length < 8 + fieldAt bs 2 2 then { p with receiver := bs }
      else if crc16 (sliceAt bs 2 (4 + fieldAt bs 2 2)) ≠ BitVec.ofNat 16 (fieldAt bs (6 + fieldAt bs 2 2) 2) then
        Port.scan n rest (p.reject .check (bs.getD 4 0) (bs.getD 5 0))
      else if bs.getD 5 0 = 0 then
        Port.scan n (bs.drop (8 + fieldAt bs 2 2)) (p.reject .tag (bs.getD 4 0) 0)
      else
        Port.scan n (bs.drop (8 + fieldAt bs 2 2))
          (p.accept { kind := bs.getD 4 0, tag := bs.getD 5 0, body := sliceAt bs 6 (fieldAt bs 2 2) })

/-- Bytes arrive on the control link. -/
def Port.receive (p : Port) (bytes : List Byte) : Port :=
  Port.scan (p.receiver.length + bytes.length + 1) (p.receiver ++ bytes) p

/-- The receiver is receiving: it holds a sync pair (R198). -/
def Port.receiving (p : Port) : Bool := decide (2 ≤ p.receiver.length)

/-- More than 50 ms pass within a frame: it is rejected with the kind and tag as far as they were received, and the bytes after its 0xA5
are examined again (R198). -/
def Port.gapExpired (p : Port) : Port :=
  if p.receiving then
    Port.scan (p.receiver.length + 1) p.receiver.tail (p.reject .gap (p.receiver.getD 4 0) (p.receiver.getD 5 0))
  else p

/-! ## The port's own checks (R200, R201, R202) -/

/-- The body length R202 gives for a request kind; none for a kind that is not a request kind. For LOAD RECORDS it follows the count the
body carries. -/
def requestLength (kind : Byte) (body : List Byte) : Option Nat :=
  match kind.toNat with
  | 0x01 => some 19
  | 0x02 => some (if body.length < 4 then 4 else 4 + 12 * fieldAt body 3 1)
  | 0x03 => some 9
  | 0x04 => some 1
  | 0x05 => some 3
  | 0x06 => some 1
  | 0x07 => some 4
  | 0x08 => some 1
  | 0x09 => some 1
  | 0x0A => some 1
  | 0x0B => some 9
  | 0x0C => some 1
  | 0x0D => some 6
  | 0x0E => some 2
  | 0x10 => some 14
  | 0x11 => some 2
  | 0x12 => some 2
  | 0x13 => some 2
  | 0x14 => some 2
  | 0x18 => some 5
  | 0x19 => some 4
  | 0x1A => some 12
  | 0x1B => some 1
  | 0x1C => some 0
  | 0x1D => some 2
  | 0x20 => some 3
  | 0x21 => some 5
  | 0x22 => some 2
  | 0x23 => some 1
  | 0x28 => some 1
  | 0x29 => some 3
  | 0x2A => some 1
  | 0x2B => some 10
  | 0x2C => some 1
  | 0x2D => some 0
  | 0x3F => some 0
  | _ => none

/-- The duty modes in which a request kind is taken (R202). -/
def requestModes (kind : Byte) (mode : DutyMode) : Bool :=
  match kind.toNat with
  | 0x0B => mode == .held
  | 0x28 => mode != .held
  | 0x29 => mode != .held
  | 0x2A => mode == .held
  | 0x2C => mode != .shared
  | _ => true

/-- The port's checks, in order: KIND, FORM, DUTY (R200). -/
def portRefusal (r : Request) (mode : DutyMode) : Option Reason :=
  match requestLength r.kind r.body with
  | none => some .kind
  | some n =>
    if r.body.length ≠ n then some .form
    else if requestModes r.kind mode then none
    else some .duty

/-- The kind of a reply: the request's kind plus 0x80, or 0xFF for a kind outside 0x01 to 0x3F (R201). -/
def replyKind (kind : Byte) : Byte :=
  if 0x01 ≤ kind.toNat ∧ kind.toNat ≤ 0x3F then kind + 0x80 else 0xFF

/-- Queue the reply, then the notices held; the request leaves the inbound queue (R200, R204). -/
def Port.answer (p : Port) (r : Request) (rep : Reply) : Port :=
  ({ p with inbound := p.inbound.tail, outbound := p.outbound ++ [OutFrame.reply (replyKind r.kind) r.tag rep] }).flush

/-- The port can take the request: it stands at the head of the inbound queue and a reply place is free (R200). -/
def Port.canTake (p : Port) (r : Request) : Bool := p.inbound.head? == some r && decide (p.repliesUsed < 4)

end Sys2Proof.Machine
end

