-- ==== Sys2Proof/Machine/Store.lean ====
section
/-! DEFINITION. The Fixity Store (chapter 01): the roll-up unit, the pins, and the claims on frame records. -/
namespace Sys2Proof.Machine

/-! ## The roll-up (R11 to R14) -/

/-- The byte sequence of a manifest's roll-up (R11). -/
def Manifest.rollupBytes (m : Manifest) : List Byte :=
  beBytes 8 m.reel.toNat ++ beBytes 4 m.span.toNat ++ beBytes 4 m.first ++ beBytes 4 m.count ++
    (m.records.map (fun r => beBytes 8 (r.length.getD 0) ++ beBytes 8 r.digest.toNat)).flatten

/-- The roll-up the unit computes (R11). -/
def Manifest.rollup (m : Manifest) : Word64 := l64 m.rollupBytes

/-- The idle roll-up unit takes the manifest at the head of the FIFO (R12). -/
def Store.takeRollup (st : Store) : Store :=
  match st.unit, st.fifo with
  | none, h :: t => { st with unit := some h, fifo := t }
  | _, _ => st

/-- A roll-up is cancelled (R14). -/
def Store.cancelRollup (st : Store) (k : Fin 16) : Store :=
  if st.unit = some k then ({ st with unit := none }).takeRollup
  else { st with fifo := st.fifo.filter (fun j => j != k) }

/-- The place of a CLOSING manifest (R12): 0 while the unit holds it, else its place in the FIFO. -/
def Store.rollupPosition (st : Store) (k : Fin 16) : Nat :=
  if st.unit = some k then 0 else placeOf (fun j => j == k) st.fifo

/-- The number of a manifest's records that are loaded (R7). -/
def Manifest.loaded (m : Manifest) : Nat := m.records.countP (fun r => r.length.isSome)

/-! ## Pins (R16) -/

/-- A campaign pin is taken. -/
def Store.pinCampaign (st : Store) (k : Fin 16) : Store :=
  st.updManifest k (fun m => { m with campaignPins := m.campaignPins + 1 })

/-- A campaign pin is released. -/
def Store.unpinCampaign (st : Store) (k : Fin 16) : Store :=
  st.updManifest k (fun m => { m with campaignPins := m.campaignPins - 1 })

/-! ## Claims on frame records (R20 to R25) -/

/-- A record enters a state without an outcome detail (R4). -/
def FrameRecord.enter (r : FrameRecord) (st : RecordState) : FrameRecord := { r with state := st, detail := none }

/-- A visit claim is granted when the record is not IN_REPAIR (R20). -/
def Store.visitGranted (st : Store) (k : Fin 16) (frame : Nat) : Bool :=
  match st.record k frame with
  | some r => r.state != .inRepair
  | none => false

/-- A granted visit claim sets the visiting mark (R20). -/
def Store.markVisiting (st : Store) (k : Fin 16) (frame : Nat) : Store :=
  st.updRecord k frame (fun r => { r with visiting := true })

/-- A visit-abandoned claim clears the visiting mark (R20). -/
def Store.clearVisiting (st : Store) (k : Fin 16) (frame : Nat) : Store :=
  st.updRecord k frame (fun r => { r with visiting := false })

/-- A verdict claim (R21). -/
def Store.verdictClaim (st : Store) (k : Fin 16) (frame : Nat) (v : Verdict) (frameFinding : Bool) : Store :=
  st.updRecord k frame (fun r =>
    { r.enter (if frameFinding then .suspect else .sound) with last := some v, visiting := false })

/-- A queue claim is granted for a SUSPECT record with its queued mark clear, when the pin is granted: the manifest is READY (R16, R22). -/
def Store.queueGranted (st : Store) (k : Fin 16) (frame : Nat) : Bool :=
  match st.manifest k, st.record k frame with
  | some m, some r => m.state == .ready && r.state == .suspect && !r.queued
  | _, _ => false

/-- A granted queue claim sets the queued mark and takes a suspect pin (R22). -/
def Store.queueClaim (st : Store) (k : Fin 16) (frame : Nat) : Store :=
  (st.updRecord k frame (fun r => { r with queued := true })).updManifest k
    (fun m => { m with suspectPins := m.suspectPins + 1 })

/-- An unqueue claim clears the queued mark and releases a suspect pin (R22). -/
def Store.unqueueClaim (st : Store) (k : Fin 16) (frame : Nat) : Store :=
  (st.updRecord k frame (fun r => { r with queued := false })).updManifest k
    (fun m => { m with suspectPins := m.suspectPins - 1 })

/-- A repair-start claim is granted for a SUSPECT record, queued and not visiting (R23). -/
def Store.repairStartGranted (st : Store) (k : Fin 16) (frame : Nat) : Bool :=
  match st.record k frame with
  | some r => r.state == .suspect && r.queued && !r.visiting
  | none => false

/-- A granted repair-start claim takes the record to IN_REPAIR (R23). -/
def Store.repairStart (st : Store) (k : Fin 16) (frame : Nat) : Store :=
  st.updRecord k frame (fun r => r.enter .inRepair)

/-- A repair-return claim takes the record from IN_REPAIR to SUSPECT (R23). -/
def Store.repairReturn (st : Store) (k : Fin 16) (frame : Nat) : Store :=
  st.updRecord k frame (fun r => if r.state = .inRepair then r.enter .suspect else r)

/-- A repair-outcome claim: the outcome as the record's state, its detail, the queued mark cleared and one suspect pin released (R24). -/
def Store.repairOutcome (st : Store) (k : Fin 16) (frame : Nat) (outcome : RecordState) (detail : Option Detail) : Store :=
  (st.updRecord k frame (fun r => { r with state := outcome, detail := detail, queued := false })).updManifest k
    (fun m => { m with suspectPins := m.suspectPins - 1 })

/-- The manifest-flag claim, taken in READY (R25). -/
def Store.flagClaim (st : Store) (k : Fin 16) : Store :=
  st.updManifest k (fun m => if m.state = .ready then { m with trailerDisagrees := true } else m)

end Sys2Proof.Machine
end

