-- ==== Sys2Proof/Machine/Repair.lean ====
section
/-! DEFINITION. The Repair Engine's own moves (chapter 07): the start pass, staging and contexts, settling, and failed attempts. -/
namespace Sys2Proof.Machine

/-! ## Eligibility and the start pass (R154 to R157) -/

/-- An entry is eligible to start (R156). -/
def Block.eligible (b : Block) (e : Entry) : Bool :=
  e.phase == .waiting &&
    (match b.store.record e.key.slot e.key.frame with | some r => !r.visiting | none => false) &&
    (b.lane e.source).state.inService && b.duty.permits e.source e.damaged

/-- Extents the entry needs (R155): by its frame record's recorded length. -/
def Block.entryNeed (b : Block) (e : Entry) : Nat :=
  extentsNeeded (b.store.recordedLength e.key.slot e.key.frame)

/-- Start an entry whose repair-start claim is granted (R157): IN_REPAIR, the context, the lowest free extents, FETCHING; its source step is
pending, so the source lane's arbiter is asked. -/
def Block.startEntry (b : Block) (e : Entry) (ctx : Fin 4) : Block :=
  let need := b.entryNeed e
  let b1 := b.updStore (fun st => st.repairStart e.key.slot e.key.frame)
  let b2 := b1.updEntry e.key (fun x =>
    { x with phase := .fetching, context := some ctx, extents := some (b.repair.freeExtents.take need) })
  let b3 := b2.updRepair (fun r => { r with freeExtents := b.repair.freeExtents.drop need })
  b3.ask e.source

/-- The start pass over the entries named, in list order (R157): it stops at the first eligible entry that finds no context or too few extents. -/
def Block.passFrom : List EntryKey → Block → Block
  | [], b => b
  | k :: ks, b =>
    match b.repair.find k with
    | none => Block.passFrom ks b
    | some e =>
      if b.eligible e then
        match b.repair.freeContext with
        | none => b
        | some ctx =>
          if b.entryNeed e ≤ b.repair.freeExtents.length then
            if b.store.repairStartGranted k.slot k.frame then Block.passFrom ks (b.startEntry e ctx)
            else Block.passFrom ks b
          else b
      else Block.passFrom ks b

/-- The names of the entries in list order. -/
def RepairEngine.keys (r : RepairEngine) : List EntryKey := r.list.map Entry.key

/-- The start pass (R157). -/
def Block.startPass (b : Block) : Block := Block.passFrom b.repair.keys b

/-! ## Leaving a phase (R154, R155, R162, R170) -/

/-- Free an entry's extents and context (R154, R155). -/
def Block.freeEntry (b : Block) (k : EntryKey) : Block :=
  match b.repair.find k with
  | none => b
  | some e =>
    (b.updRepair (fun r => r.freeAll (e.extents.getD []))).updEntry k
      (fun x => { x with extents := none, context := none, stepLane := none })

/-- An entry goes back to WAITING in its place, with the repair-return claim (R23, R162), and the start pass is made. -/
def Block.entryToWaiting (b : Block) (k : EntryKey) : Block :=
  let b1 := b.freeEntry k
  let b2 := b1.updStore (fun st => st.repairReturn k.slot k.frame)
  let b3 := b2.updEntry k (fun x => { x with phase := .waiting })
  b3.startPass

/-- An entry settles (R170): the outcome claim, its extents and context, the list, REPAIR_SETTLED, the start pass. -/
def Block.settleEntry (b : Block) (k : EntryKey) (outcome : RecordState) (detail : Option Detail) : Block :=
  match b.repair.find k with
  | none => b
  | some e =>
    let (reel, span) := match b.store.manifest k.slot with | some m => (m.reel, m.span) | none => (0, 0)
    let b1 := b.updStore (fun st => st.repairOutcome k.slot k.frame outcome detail)
    let b2 := b1.freeEntry k
    let b3 := b2.updRepair (fun r => r.remove k)
    let b4 := b3.raise (.repairSettled k reel span outcome detail e.damaged e.source e.cause e.sequence
      e.sourceAttempts e.rewriteAttempts e.interrupted)
    b4.startPass

/-- The rewrite test of an entry in STAGED (R163): the first failing condition settles it; when both pass, its rewrite step is pending. -/
def Block.rewriteTest (b : Block) (k : EntryKey) : Block :=
  match b.repair.find k with
  | none => b
  | some e =>
    if e.phase = .staged then
      if !(e.rewriteAllowed && b.repair.rewriteEnabled) then b.settleEntry k .sisterSound (some .rewriteOff)
      else match (b.lane e.damaged).caps with
        | some c =>
          if !c.rewritable || decide (c.largest < b.store.recordedLength k.slot k.frame) then
            b.settleEntry k .sisterSound (some .notRewritable)
          else b.ask e.damaged
        | none => b
    else b

/-- A source attempt fails (R161): below three the entry waits again, at three it settles LOST. -/
def Block.sourceFailed (b : Block) (k : EntryKey) : Block :=
  let b1 := b.updEntry k (fun x => { x with sourceAttempts := x.sourceAttempts + 1, stepLane := none })
  match b1.repair.find k with
  | none => b1
  | some e => if e.sourceAttempts < 3 then b1.entryToWaiting k else b1.settleEntry k .lost (some .sourceUnreadable)

/-- A rewrite attempt fails (R166): at one the entry goes back to STAGED and is tested again, at two it settles REWRITE_UNRELIABLE. -/
def Block.rewriteFailed (b : Block) (k : EntryKey) : Block :=
  let b1 := b.updEntry k (fun x => { x with rewriteAttempts := x.rewriteAttempts + 1, phase := .staged, stepLane := none })
  match b1.repair.find k with
  | none => b1
  | some e => if e.rewriteAttempts < 2 then b1.rewriteTest k else b1.settleEntry k .sisterSound (some .rewriteUnreliable)

/-- A source fetch is proved sound: the entry goes to STAGED and is tested at once (R160, R163). -/
def Block.sourceSound (b : Block) (k : EntryKey) : Block :=
  (b.updEntry k (fun x => { x with phase := .staged, stepLane := none })).rewriteTest k

/-- An entry is removed without an outcome, with the unqueue claim (R22, R171, R172). -/
def Block.dropEntry (b : Block) (k : EntryKey) : Block :=
  (b.updStore (fun st => st.unqueueClaim k.slot k.frame)).updRepair (fun r => r.remove k)

/-! ## What ends a step without an answer (R161, R162, R165, R167, R169, R173, R174) -/

/-- How an item in hand was ended without its answer (R64). -/
inductive Departure where
  | stall | yield | putDown | duty
deriving DecidableEq, Repr

/-- The Repair Engine is told that an entry's step was ended with the given exchange in flight. An entry whose rewrite step ends before REWRITE enters
STAGED again and is tested at once, whatever ended it (R163, R167, R175). -/
def Block.stepEnded (b : Block) (k : EntryKey) (x : Exchange) (why : Departure) : Block :=
  match b.repair.find k with
  | none => b
  | some e =>
    match e.phase with
    | .fetching =>
      match why with
      | .stall => b.sourceFailed k
      | .putDown => b.sourceFailed k
      | .yield => b.entryToWaiting k
      | .duty => b.entryToWaiting k
    | .rewriting =>
      if x.isRewrite then (b.updEntry k (fun y => { y with interrupted := true })).rewriteFailed k
      else (b.updEntry k (fun y => { y with phase := .staged, stepLane := none })).rewriteTest k
    | .readback => b.updEntry k (fun y => { y with stepLane := none })
    | .waiting => b
    | .staged => b

/-- A lane leaves service: every entry in FETCHING with that source lane and no step in hand goes back to WAITING without counting (R162). -/
def Block.leftService (b : Block) (l : Fin 8) : Block :=
  (b.repair.list.filter (fun e => e.phase == .fetching && e.source == l && e.stepLane.isNone)).foldl
    (fun acc e => acc.entryToWaiting e.key) b

/-- A lane has reached READY: the rewrite test of its STAGED entries, then the start pass (R157, R163). -/
def Block.enteredService (b : Block) (l : Fin 8) : Block :=
  ((b.repair.list.filter (fun e => e.phase == .staged && e.damaged == l)).foldl
    (fun acc e => acc.rewriteTest e.key) b).startPass

/-! ## Joining and leaving by a campaign's verdict (R151, R171) -/

/-- The lane of a manifest's other copy, when the damaged lane is one of its copy lanes and the other is bound (R151). -/
def Manifest.otherCopy (m : Manifest) (damaged : Fin 8) : Option (Fin 8) :=
  if m.copyA = some damaged then m.copyB else if m.copyB = some damaged then m.copyA else none

/-- Append an entry in WAITING with its queue claim (R149, R150, R151). -/
def Block.appendEntry (b : Block) (k : EntryKey) (cause : Option FindingClass) (seq awaits : Option Nat) (damaged source : Fin 8)
    (allowed : Bool) : Block :=
  let e : Entry :=
    { key := k, cause := cause, sequence := seq, damaged := damaged, source := source, rewriteAllowed := allowed, awaits := awaits }
  (b.updStore (fun st => st.queueClaim k.slot k.frame)).updRepair (fun r => { r with list := r.list ++ [e] })

/-- An enqueue request from the Finding Recorder (R151): the entry has the finding's sequence, or awaits the one its pending finding will take (R152). -/
def Block.enqueue (b : Block) (k : EntryKey) (cause : Option FindingClass) (seq awaits : Option Nat) (damaged : Fin 8) (allowed : Bool) : Block :=
  match b.store.manifest k.slot with
  | none => b
  | some m =>
    match m.otherCopy damaged with
    | none => b
    | some source =>
      if b.repair.list.length < 128 ∧ b.store.queueGranted k.slot k.frame then
        (b.appendEntry k cause seq awaits damaged source allowed).startPass
      else b

/-- The Fixity Store has cleared the visiting mark of a record: the Repair Engine is told when the record is queued (R156), and makes the pass. -/
def Block.visitCleared (b : Block) (k : Fin 16) (frame : Nat) : Block :=
  match b.store.record k frame with
  | some r => if r.queued then b.startPass else b
  | none => b

/-- A visit-abandoned claim with its tell (R20, R156). -/
def Block.abandonVisit (b : Block) (k : Fin 16) (frame : Nat) : Block :=
  (b.updStore (fun st => st.clearVisiting k frame)).visitCleared k frame

/-- A verdict claim with its tells (R21, R156, R171): a queued record found SOUND has its entry removed. -/
def Block.giveVerdict (b : Block) (k : Fin 16) (frame : Nat) (v : Verdict) (frameFinding : Bool) : Block :=
  let b1 := b.updStore (fun st => st.verdictClaim k frame v frameFinding)
  match b1.store.record k frame with
  | some r =>
    if r.queued then
      (if frameFinding then b1 else b1.dropEntry { slot := k, frame := frame }).startPass
    else b1
  | none => b1

/-! ## Steps that may be pending (R158) -/

/-- The lane on which an entry's step is pending, if one is. -/
def Block.pendingLane (b : Block) (e : Entry) : Option (Fin 8) :=
  let lane := match e.phase with
    | .fetching => some e.source
    | .staged => some e.damaged
    | .readback => some e.damaged
    | .waiting => none
    | .rewriting => none
  match lane with
  | some l => if e.stepLane.isNone && (b.lane l).state.inService && b.duty.permits e.source e.damaged then some l else none
  | none => none

/-- The oldest pending step of a lane, in Suspect List order (R57, R158). -/
def Block.pendingStep (b : Block) (l : Fin 8) : Option Entry :=
  b.repair.list.find? (fun e => b.pendingLane e == some l)

end Sys2Proof.Machine
end

