-- ==== Sys2Proof/Machine/Recorder.lean ====
section
/-! DEFINITION. The Finding Recorder (chapter 06): taking an event, logging a finding or making it pending, and draining the pending findings. -/
namespace Sys2Proof.Machine

/-- The last sequence number that may be assigned (R140). -/
def lastSequenceNumber : Nat := 4294967295

/-- The log has room (R140): fewer than 256 findings, or at least one acknowledged. -/
def Recorder.hasRoom (r : Recorder) : Bool := decide (r.log.length < 256) || r.log.any Finding.acknowledged

/-- Room in the log and a sequence number remain (R140, R142). -/
def Recorder.canAppend (r : Recorder) : Bool := r.hasRoom && decide (r.nextSequence ≤ lastSequenceNumber)

/-- Log a finding (R140): a full log loses its oldest acknowledged finding, the finding takes the next sequence number, and that number rises. -/
def Recorder.append (r : Recorder) (f : Finding) : Recorder :=
  let kept := if r.log.length < 256 then r.log else r.log.eraseP Finding.acknowledged
  { r with log := kept ++ [{ f with sequence := some r.nextSequence, acknowledged := false }], nextSequence := r.nextSequence + 1 }

/-- The last sequence number assigned, 0 when none has been (R142, R208). -/
def Recorder.lastSequence (r : Recorder) : Nat := r.nextSequence - 1

/-- What the Recorder answers a campaign (R129), with what the default actions need (R130): `sequence` is the number of a finding logged, and `awaits` the
number that a finding made pending will take (R141, R142). -/
structure Answer where
  noted        : ClassSet
  frameFinding : Bool
  outcome      : EventOutcome
  haltCode     : Option HaltCode
  pending      : Bool
  enqueue      : Bool
  cause        : Option FindingClass
  sequence     : Option Nat
  awaits       : Option Nat
  rewrite      : Bool
deriving DecidableEq, Repr

/-- The answer to an event with no class recognised, and to a frame result of code 0 (R103, R127). -/
def Answer.empty : Answer :=
  { noted := 0, frameFinding := false, outcome := .goOn, haltCode := none, pending := false, enqueue := false, cause := none,
    sequence := none, awaits := none, rewrite := false }

/-- The finding of an event (R139). The reel id and span number come from the ANNOTATION condition for an annotation event, and otherwise from
the manifest. The delivered frame is the number of a wrong MARK, whichever class of its event is recognised (R134; DESIGN CHOICE, log entry 29). -/
def makeFinding (st : Store) (c : Campaign) (ev : Event) (d : Decision) : Finding :=
  let ids : Word64 × Word32 := match ev.annotation with
    | some (_, reel, span) => (reel, span)
    | none => match st.manifest c.slot with
      | some m => (m.reel, m.span)
      | none => (0, 0)
  { sequence := none, cls := (d.loggedClass).getD .annotation, recognised := d.recognised, halted := d.halts != 0,
    profile := d.profile, campaign := c.id, lane := c.lane, slot := c.slot, reel := ids.1, span := ids.2,
    frame := ev.frame.map Prod.snd,
    delivered := ev.delivered,
    verdict := ev.frame.map Prod.fst, annotation := ev.annotation.map Prod.fst, acknowledged := false }

/-- The event calls for a suspect (R130): a frame-level class disposed NOTE, under a profile with its enqueue option on. -/
def Recorder.callsForSuspect (r : Recorder) (ev : Event) (d : Decision) : Bool :=
  ev.frame.isSome && d.causeClass.isSome && (r.profiles[d.profile]).enqueue

/-- The class flags of the classes disposed NOTE are set (R132). -/
def Recorder.flag (r : Recorder) (noted : ClassSet) : Recorder := { r with flags := r.flags ||| noted }

/-- A finding is logged at once when none is pending and there is room (R141). -/
def Recorder.logsNow (r : Recorder) : Bool := r.pending.isEmpty && r.canAppend

/-- The number that the next finding to join the pending findings will take: they are logged in their order, each with the next number (R140, R142). -/
def Recorder.nextAwaited (r : Recorder) : Nat := r.nextSequence + r.pending.length

/-- A finding joins the pending findings (R141). -/
def Recorder.await (r : Recorder) (f : Finding) (wants : Bool) : Recorder :=
  { r with pending := r.pending ++ [{ finding := f, enqueued := wants }] }

/-- Change the Finding Recorder. -/
def Block.updRecorder (b : Block) (f : Recorder → Recorder) : Block := { b with recorder := f b.recorder }

/-- A finding is logged, with LOG_ADVANCED, or made pending (R140, R141, R143). -/
def Block.keepFinding (b : Block) (f : Finding) (wants : Bool) : Block :=
  if b.recorder.logsNow then (b.updRecorder (fun r => r.append f)).raise (.logAdvanced b.recorder.nextSequence)
  else b.updRecorder (fun r => r.await f wants)

/-- The Recorder takes an event of a campaign whole (R126 to R132, R140, R141): flags, the log or the pending FIFO, the answer, and the default
action of ROLLUP under NOTE. The enqueue of R130 waits for the campaign's verdict claim. -/
def Block.takeEvent (b : Block) (c : Campaign) (ev : Event) : Answer × Block :=
  let d := b.recorder.judge c.profile c.disregard ev.conditions
  if d.recognised = 0 then (Answer.empty, b)
  else
    let wants := b.recorder.callsForSuspect ev d
    let now := b.recorder.logsNow
    let b1 := (b.updRecorder (fun r => r.flag d.noted)).keepFinding (makeFinding b.store c ev d) wants
    let b2 := if ClassSet.has d.noted .rollup then b1.updStore (fun st => st.flagClaim c.slot) else b1
    ({ noted := d.noted, frameFinding := d.frameFinding, outcome := d.outcome, haltCode := d.haltCode, pending := !now,
       enqueue := wants, cause := d.causeClass, sequence := if now then some b.recorder.nextSequence else none,
       awaits := if now then none else some b.recorder.nextAwaited, rewrite := (b.recorder.profiles[d.profile]).rewrite }, b2)

/-- ACKNOWLEDGE marks every finding up to a number (R142). -/
def Recorder.mark (r : Recorder) (n : Nat) : Recorder :=
  { r with log := r.log.map (fun f => if f.sequence.getD 0 ≤ n then { f with acknowledged := true } else f) }

/-- The findings an ACKNOWLEDGE newly marks (R142). -/
def Recorder.newlyMarked (r : Recorder) (n : Nat) : Nat :=
  r.log.countP (fun f => decide (f.sequence.getD 0 ≤ n) && !f.acknowledged)

/-- The highest sequence acknowledged, or 0 (R144). Acknowledged findings are always the oldest, and only they leave the log, so it is the
number before the oldest finding not acknowledged (DEDUCED, log entry 17). -/
def Recorder.highestAcknowledged (r : Recorder) : Nat :=
  match r.log.find? (fun f => !f.acknowledged) with
  | some f => f.sequence.getD 0 - 1
  | none => r.lastSequence

end Sys2Proof.Machine
end

