-- ==== Sys2Proof/Machine/Campaign.lean ====
section
/-! DEFINITION. The Campaign Scheduler's own moves (chapter 05): the resume point, the skip, and a campaign's changes of state. -/
namespace Sys2Proof.Machine

/-! ## The resume point (R93, R101) -/

/-- Frames of a window to visit from a frame on (R93). -/
def framesFrom (r last step : Nat) : Nat := if r ≤ last then (last - r) / step + 1 else 0

/-- The frames still to visit (R93). -/
def Campaign.stillToVisit (c : Campaign) : Nat :=
  match c.resumePoint with
  | some r => framesFrom r c.windowLast c.step
  | none => 0

/-- The frames of the window (R93). -/
def Campaign.windowFrames (c : Campaign) : Nat := framesFrom c.windowFirst c.windowLast c.step

/-- The resume point advances, to PAST when there is no next frame; the frame restart count returns to 0 (R93, R101, R103). -/
def Campaign.advance (c : Campaign) : Campaign :=
  { c with
    resumePoint := match c.resumePoint with
      | some r => if 0 < c.step ∧ r + c.step ≤ c.windowLast then some (r + c.step) else none
      | none => none
    frameRestarts := 0 }

/-- The frame at the resume point is skipped (R101). -/
def Campaign.skip (c : Campaign) : Campaign :=
  { c.advance with counts := { c.counts with skipped := c.counts.skipped + 1 } }

/-- Skip a run of IN_REPAIR records in one pass (R101). The fuel is the number of frames still to visit. -/
def Campaign.skipRun (st : Store) : Nat → Campaign → Campaign
  | 0, c => c
  | n + 1, c =>
    match c.resumePoint with
    | none => c
    | some f => if st.visitGranted c.slot f then c else Campaign.skipRun st n c.skip

/-- In RUNNING the campaign's next action is chosen from its resume point (R101). -/
def Block.chooseNext (b : Block) (id : Nat) : Block :=
  b.updCampaign id (fun c => if c.state = .running then c.skipRun b.store c.stillToVisit else c)

/-- Raise the count of a verdict code (R103). -/
def Counts.add (k : Counts) : Verdict → Counts
  | .sound => { k with sound := k.sound + 1 }
  | .damaged => { k with damaged := k.damaged + 1 }
  | .missized => { k with missized := k.missized + 1 }
  | .uncomparable => { k with uncomparable := k.uncomparable + 1 }

/-! ## Changes of state and CAMPAIGN_CHANGED (R97, R115, R121) -/

/-- Send CAMPAIGN_CHANGED with a campaign's values (R121). -/
def Block.campaignNotice (b : Block) (id : Nat) (cause : CampaignCause) : Block :=
  match b.campaign id with
  | some c => b.raise (.campaignChanged c.id c.lane c.slot c.state cause c.resumePoint c.counts)
  | none => b

/-- A campaign goes to HELD (R113, R115, R116). -/
def Block.holdCampaign (b : Block) (id : Nat) (cause : HeldCause) : Block :=
  (b.updCampaign id (fun c => { c with state := .held, heldCause := some cause })).campaignNotice id cause.cause

/-- A campaign leaves its queue for DONE or ENDED (R97): its pin is released, and the arbiter is asked for the next head. -/
def Block.closeCampaign (b : Block) (id : Nat) (st : CampaignState) (endCause : Option EndCause) (cause : CampaignCause) : Block :=
  match b.campaign id with
  | some c =>
    let b1 := b.updCampaign id (fun c => { c with state := st, endCause := endCause, heldCause := none })
    ((b1.updStore (fun s => s.unpinCampaign c.slot)).campaignNotice id cause).ask c.lane
  | none => b

/-- A campaign leaves HELD for WAITING (R116, R117). -/
def Block.releaseCampaign (b : Block) (id : Nat) (cause : CampaignCause) : Block :=
  match b.campaign id with
  | some c =>
    ((b.updCampaign id (fun c => { c with state := .waiting, heldCause := none })).campaignNotice id cause).ask c.lane
  | none => b

/-- OPENING, RUNNING or CLOSING. -/
def CampaignState.inSession : CampaignState → Bool
  | .opening => true
  | .running => true
  | .closing => true
  | .waiting => false
  | .yielded => false
  | .held => false
  | .done => false
  | .ended => false

/-- The head of a lane's queue goes from OPENING, RUNNING or CLOSING to another state, without a notice (R109, R110, R112, R114). -/
def Block.headTo (b : Block) (l : Fin 8) (st : CampaignState) : Block :=
  match b.sched.head l with
  | some c => if c.state.inSession then b.updCampaign c.id (fun x => { x with state := st }) else b
  | none => b

/-- The lane has entered STALLED, or OFF by put-down or no answer: its head, unless already HELD, goes to HELD (R113). -/
def Block.headHeld (b : Block) (l : Fin 8) (cause : HeldCause) : Block :=
  match b.sched.head l with
  | some c => if c.state = .held then b else b.holdCampaign c.id cause
  | none => b

/-- The lane leaves LENT for READY or SETTLING: a YIELDED head goes to WAITING (R111). -/
def Block.headReturned (b : Block) (l : Fin 8) : Block :=
  match b.sched.head l with
  | some c => if c.state = .yielded then b.updCampaign c.id (fun x => { x with state := .waiting }) else b
  | none => b

end Sys2Proof.Machine
end

