-- ==== Sys2Proof/Machine/Lanes.lean ====
section
/-! DEFINITION. The Lane Controller's moves (chapter 03): ending an exchange, a session or an item, and each change of lane state. -/
namespace Sys2Proof.Machine

/-! ## Ending an exchange and a session (R37, R38, R56, R71, R189) -/

/-- The exchange in flight ends or is given up: the pacing record takes its end, the digest unit is freed and a waiting claim withdrawn, the
parser's exchange returns to NONE and the stall timer stops. -/
def Block.dropExchange (b : Block) (l : Fin 8) : Block :=
  ((b.endPacing l).updPool (fun p => (p.withdraw l).release l)).updLane l (fun ln => { ln with exchange := .idle, stallTimer := none })

/-- The lane sends HALT if a session is open, and ends the session (R56). -/
def Block.haltSession (b : Block) (l : Fin 8) : Block :=
  match (b.lane l).session with
  | some s => (b.send l (.halt s.number)).updLane l (fun ln => { ln with session := none })
  | none => b

/-! ## Changes of lane state (R49, R50, R60 to R63, R66, R68, R182) -/

/-- The lane stores the cause and sends LANE_CHANGED (R68). -/
def Block.laneNotice (b : Block) (l : Fin 8) (cause : LaneCause) : Block :=
  let b1 := b.updLane l (fun ln => { ln with lastCause := cause })
  b1.raise (.laneChanged l (b1.lane l).state cause (b1.lane l).restarts)

/-- The item ends and the lane returns to READY; its arbiter is asked (R55, R57). -/
def Block.toReady (b : Block) (l : Fin 8) : Block :=
  (b.updLane l (fun ln => { ln with state := .ready, item := none })).ask l

/-- The lane becomes LENT: RELEASE is sent, the yield is counted (R60, R61, R62). -/
def Block.becomeLent (b : Block) (l : Fin 8) (target : ResumeTarget) : Block :=
  (b.send l .release).updLane l (fun ln =>
    { ln with state := .lent, item := none, session := none, settleTimer := none, stallTimer := none,
              resumeTarget := some target, yields := countUp ln.yields })

/-- LANE_CHANGED for the loan, and what the Campaign Scheduler and the Repair Engine are told (R64, R110). -/
def Block.tellLent (b : Block) (l : Fin 8) : Block :=
  ((b.laneNotice l .yield).headTo l .yielded).leftService l

/-- The lane gives the drive up with nothing more to complete (R61, R62). -/
def Block.toLent (b : Block) (l : Fin 8) (target : ResumeTarget) : Block :=
  (b.becomeLent l target).tellLent l

/-- The owner ends its item or its open session through the lane (R56, R62): the exchange in flight is abandoned, HALT is sent, and the lane goes to
READY, or to LENT if it was YIELDING. -/
def Block.endOwner (b : Block) (l : Fin 8) : Block :=
  let b1 := (b.dropExchange l).haltSession l
  match (b1.lane l).state with
  | .yielding => b1.toLent l .ready
  | .engaged => b1.toReady l
  | .calibrating => b1.toReady l
  | .ready => b1
  | .off => b1
  | .settling => b1
  | .lent => b1
  | .stalled => b1

/-- A campaign asks the lane to end its session, if one is open (R56): a frame whose FETCH was sent has its visiting mark cleared (R20, R105, R116, R118).
The rules give the two no order: the lane ends the session first, then the visit-abandoned claim is sent with its start pass (DEDUCED, log entry 20). -/
def Block.campaignEndsSession (b : Block) (c : Campaign) : Block :=
  match (b.lane c.lane).session with
  | some s =>
    if s.owner = .campaign c.id then
      match (b.lane c.lane).campaignItem, (b.lane c.lane).exchange.openVisit with
      | true, some f => (b.endOwner c.lane).abandonVisit c.slot f
      | _, _ => b.endOwner c.lane
    else b
  | none => b

/-- The lane sends HELLO or RESTART and goes to SETTLING (R49): HELLO taken and settle expired clear, the settle timer starts. -/
def Block.beginSettling (b : Block) (l : Fin 8) (unit : SentUnit) : Block :=
  (b.send l unit).updLane l (fun ln =>
    { ln with state := .settling, item := none, session := none, helloTaken := false, settleExpired := false,
              settleTimer := some (b.clock + ln.settings.settleWait * 1000), stallTimer := none, resumeTarget := none })

/-- The lane enters SETTLING and sends LANE_CHANGED (R49, R68). -/
def Block.enterSettling (b : Block) (l : Fin 8) (unit : SentUnit) (cause : LaneCause) : Block :=
  (b.beginSettling l unit).laneNotice l cause

/-- The lane reaches READY from SETTLING (R50): the restart counter is cleared, LANE_CHANGED, the Repair Engine is told, the arbiter is asked. -/
def Block.settled (b : Block) (l : Fin 8) : Block :=
  let b1 := b.updLane l (fun ln => { ln with state := .ready, restarts := 0, settleTimer := none, stallTimer := none })
  ((b1.laneNotice l .settled).enteredService l).ask l

/-- The lane is put down by hold (R182). `silent` at RESTART ENGINE, which sends no LANE_CHANGED for it (R196). -/
def Block.putDownByHold (b : Block) (l : Fin 8) (silent : Bool) : Block :=
  let b1 := (b.haltSession l).updLane l (fun ln =>
    { ln with state := .off, putDownByHold := true, lastCause := .hold, settleTimer := none, stallTimer := none })
  let b2 := if silent then b1 else b1.laneNotice l .hold
  b2.leftService l

/-- A lane marked put-down-by-hold settles again on waking (R183). -/
def Block.wakeLane (b : Block) (l : Fin 8) : Block :=
  if (b.lane l).state = .off ∧ (b.lane l).putDownByHold = true then
    (b.updLane l (fun ln => { ln with putDownByHold := false, restarts := 0 })).enterSettling l .hello .wake
  else b

/-! ## Calibration ends (R193, R194) -/

/-- A calibration run is aborted (R194). -/
def Block.abortCalibration (b : Block) (l : Fin 8) (cause : AbortCause) : Block :=
  let b1 := b.updDuty (fun d => { d with
    calibration := d.calibration.set l.val none l.isLt
    lastCalibration := d.lastCalibration.set l.val (some (.aborted cause)) l.isLt })
  b1.raise (.calibrationDone l (.aborted cause) (b.lane l).settings.ceiling (b.lane l).settings.ceiling)

end Sys2Proof.Machine
end

