-- ==== Sys2Proof/Machine/Events.lean ====
section
/-! DEFINITION. What an owner does with what its lane tells it: a campaign's headers, results, trailers and annotations (chapter 05), a
repair step's headers, results and rewrite answers (chapter 07), and an item ended without its answer (R64). -/
namespace Sys2Proof.Machine

/-! ## Campaigns (R99, R100, R103 to R108, R115, R116) -/

/-- The noted set takes the noted classes, the halt code is the event's when it has one, and a pending finding is remembered (R104, R115, R116). -/
def Campaign.takeAnswer (ans : Answer) (c : Campaign) : Campaign :=
  { c with
    noted := c.noted ||| ans.noted
    haltCode := match ans.haltCode with | some h => some h | none => c.haltCode
    pendingFinding := c.pendingFinding || ans.pending }

/-- A campaign acts on the Recorder's answer (R100, R104, R115, R116). `viaLane` is false where the lane itself has ended the session. -/
def Block.applyAnswer (b : Block) (id : Nat) (ans : Answer) (viaLane : Bool) : Block :=
  let b1 := b.updCampaign id (Campaign.takeAnswer ans)
  match b1.campaign id with
  | none => b1
  | some c =>
    let ended := if viaLane then b1.campaignEndsSession c else b1
    match ans.outcome with
    | .finish => ended.closeCampaign id .ended (some .identity) .identity
    | .halt => ended.holdCampaign id (if ans.pending then .logFull else .finding)
    | .goOn => if ans.pending then ended.holdCampaign id .logFull else b1

/-- The recorded length and the expected digest of a frame, which a result is compared with (R39). -/
def Store.expects (st : Store) (k : Fin 16) (frame : Nat) : Nat × Word64 :=
  match st.record k frame with
  | some r => (r.length.getD 0, r.digest)
  | none => (0, 0)

/-- A result of code 0 makes no event; any other is an event of the campaign (R103). -/
def Block.resultEvent (b : Block) (c : Campaign) (frame : Nat) (v : Verdict) (conditions : ClassSet) (delivered : Option Nat) : Answer × Block :=
  if v = .sound then (Answer.empty, b)
  else b.takeEvent c { conditions := conditions, frame := some (v, frame), delivered := delivered, annotation := none }

/-- The verdict claim, then the enqueue that the event calls for (R103, R130, R151). -/
def Block.claimVerdict (b : Block) (c : Campaign) (frame : Nat) (v : Verdict) (ans : Answer) : Block :=
  let b1 := b.giveVerdict c.slot frame v ans.frameFinding
  if ans.enqueue then b1.enqueue { slot := c.slot, frame := frame } ans.cause ans.sequence ans.awaits c.lane ans.rewrite else b1

/-- A campaign has a result for a frame, or meets the frame restart limit (R103, R106): count, event, verdict claim, enqueue, resume point, answer. -/
def Block.campaignResult (b : Block) (id frame : Nat) (res : FrameResult) (viaLane : Bool) : Block :=
  match b.campaign id with
  | none => b
  | some c =>
    let e := b.store.expects c.slot frame
    let v := verdictOf e.1 e.2 res
    let out := (b.updCampaign id (fun x => { x with counts := x.counts.add v })).resultEvent c frame v (conditionsOf e.1 e.2 res) res.delivered
    ((out.2.claimVerdict c frame v out.1).updCampaign id Campaign.advance).applyAnswer id out.1 viaLane

/-- A campaign's item has its answer (R55, R62, R104, R114): unless the owner has ended it, the lane gives the drive up if YIELDING, the campaign ends its
session if a duty change told it to, and otherwise the lane is READY and the next action is chosen. -/
def Block.finishItem (b : Block) (l : Fin 8) (id : Nat) : Block :=
  match (b.lane l).item with
  | none => b
  | some it =>
    if (b.lane l).state = .yielding then (b.haltSession l).toLent l .ready
    else if it.stopping then ((b.haltSession l).headTo l .waiting).toReady l
    else (b.toReady l).chooseNext id

/-- A frame exchange of a campaign ends with a result (R35, R36, R103). -/
def Block.campaignFrameEnds (b : Block) (l : Fin 8) (id frame : Nat) (res : FrameResult) : Block :=
  ((b.dropExchange l).campaignResult id frame res true).finishItem l id

/-- The IDENTITY event (R99, R100). -/
def Block.identityEvent (b : Block) (id : Nat) : Block :=
  match b.campaign id with
  | none => b
  | some c =>
    let (ans, b1) := b.takeEvent c { conditions := FindingClass.identity.set, frame := none, delivered := none, annotation := none }
    b1.applyAnswer id ans true

/-- A header event of a campaign in OPENING (R99, R114). -/
def Block.campaignHeader (b : Block) (l : Fin 8) (id : Nat) (header : Word64 × Word32 × Nat × Nat) : Block :=
  let b0 := b.dropExchange l
  match b0.campaign id with
  | none => b0
  | some c =>
    if c.waiver ∨ (b0.store.manifest c.slot).map Manifest.identity = some header then
      (b0.updCampaign id (fun x => { x with state := .running, waiver := false })).finishItem l id
    else b0.identityEvent id

/-- A span-not-found event of a campaign in OPENING (R99). -/
def Block.campaignSpanMissing (b : Block) (l : Fin 8) (id : Nat) : Block :=
  (b.dropExchange l).identityEvent id

/-- The closing exchange of a campaign is answered (R74, R108): `agrees` says whether a TRAILER came whose roll-up and frame count are the manifest's. -/
def Block.campaignTrailer (b : Block) (l : Fin 8) (id : Nat) (agrees : Bool) : Block :=
  let b0 := ((b.dropExchange l).updLane l (fun ln => { ln with session := none })).updCampaign id
    (fun c => { c with trailerChecked := true })
  match b0.campaign id with
  | none => b0.toReady l
  | some c =>
    if agrees then (b0.closeCampaign id .done none .complete).toReady l
    else
      let (ans, b1) := b0.takeEvent c { conditions := FindingClass.rollup.set, frame := none, delivered := none, annotation := none }
      let b2 := b1.applyAnswer id ans false
      (if ans.outcome = .goOn ∧ ans.pending = false then b2.closeCampaign id .done none .complete else b2).toReady l

/-- The trailer check (R108): the TRAILER's roll-up and frame count against the manifest's expected roll-up and frame count. -/
def Manifest.trailerAgrees (m : Manifest) (rollup : Word64) (count : Nat) : Bool :=
  m.expected == some rollup && m.count == count

/-- An ANNOTATION condition of a campaign's session (R105). -/
def Block.campaignAnnotation (b : Block) (id : Nat) (kind : Byte) (reel : Word64) (span : Word32) : Block :=
  match b.campaign id with
  | none => b
  | some c =>
    let (ans, b1) := b.takeEvent c
      { conditions := FindingClass.annotation.set, frame := none, delivered := none, annotation := some (kind, reel, span) }
    b1.applyAnswer id ans true

/-! ## Repair steps (R159, R160, R164 to R169, R174) -/

/-- A lane makes a digest claim; it joins the tail of the FIFO, and is granted at once where a unit is FREE and the FIFO was empty (R30, R31). -/
def Block.makeClaim (b : Block) (c : Claim) : Block :=
  b.updPool (fun p => { p with fifo := p.fifo ++ [c] })

/-- The digest claim of a repair step. -/
def Block.claimForEntry (b : Block) (l : Fin 8) (k : EntryKey) (kind : ClaimKind) : Block :=
  b.makeClaim { lane := l, kind := kind, owner := .entry k, slot := k.slot, frame := k.frame, recLength := b.store.recordedLength k.slot k.frame }

/-- The item in hand was told to stop at its answer by a duty change. -/
def Lane.stopping (ln : Lane) : Bool :=
  match ln.item with
  | some it => it.stopping
  | none => false

/-- The opening exchange of a repair step is answered (R159, R164, R169): by a header that agrees or not, or by a span-not-found event. -/
def Block.repairHeader (b : Block) (l : Fin 8) (k : EntryKey) (agrees : Bool) : Block :=
  match b.repair.find k with
  | none => b.endOwner l
  | some e =>
    if agrees then
      let b0 := b.dropExchange l
      if (b0.lane l).stopping then (b0.endOwner l).stepEnded k .idle .duty
      else match e.phase with
        | .fetching => b0.claimForEntry l k .sourceFetch
        | .readback => b0.claimForEntry l k .readback
        | .rewriting =>
          (b0.send l (.rewrite (b0.lane l).sessionNumber k.frame (b0.store.recordedLength k.slot k.frame))).updLane l
            (fun ln => { ln with exchange := .rewrite k.frame false })
        | .waiting => b0.endOwner l
        | .staged => b0.endOwner l
    else match e.phase with
      | .fetching => (b.endOwner l).sourceFailed k
      | .rewriting => (b.endOwner l).rewriteFailed k
      | .readback => (b.endOwner l).rewriteFailed k
      | .waiting => b.endOwner l
      | .staged => b.endOwner l

/-- What an answer means for the entry, and the end of its step: a YIELDING lane goes on to HALT and RELEASE once the owner has acted (R62, R162, R166),
and on any other lane the step ends first and the engine acts by it (R161, R166; DEDUCED, log entry 20). -/
def Block.stepAnswered (b : Block) (l : Fin 8) (act : Block → Block) : Block :=
  if (b.lane l).state = .yielding then (act b).endOwner l else act (b.endOwner l)

/-- The result of a source fetch or of a read-back (R160, R168). -/
def Block.repairResult (b : Block) (l : Fin 8) (k : EntryKey) (res : FrameResult) : Block :=
  match b.repair.find k with
  | none => b.endOwner l
  | some e =>
    let v := verdictOf (b.store.expects k.slot k.frame).1 (b.store.expects k.slot k.frame).2 res
    match e.phase with
    | .fetching => match v with
      | .sound => b.stepAnswered l (fun x => x.sourceSound k)
      | .damaged => b.stepAnswered l (fun x => x.settleEntry k .lost (some .bothDamaged))
      | .missized => b.stepAnswered l (fun x => x.settleEntry k .lost (some .bothDamaged))
      | .uncomparable => b.stepAnswered l (fun x => x.sourceFailed k)
    | .readback => match v with
      | .sound => (b.settleEntry k .repaired none).endOwner l
      | .damaged => b.stepAnswered l (fun x => x.rewriteFailed k)
      | .missized => b.stepAnswered l (fun x => x.rewriteFailed k)
      | .uncomparable => b.stepAnswered l (fun x => x.rewriteFailed k)
    | .waiting => b.endOwner l
    | .staged => b.endOwner l
    | .rewriting => b.endOwner l

/-- REWRITE_DONE for an entry's frame (R165): READBACK, in the same session unless the lane is YIELDING or a duty change has stopped the step. -/
def Block.repairRewritten (b : Block) (l : Fin 8) (k : EntryKey) : Block :=
  let b0 := (b.dropExchange l).updEntry k (fun e => { e with interrupted := false, phase := .readback })
  if (b0.lane l).state = .yielding ∨ (b0.lane l).stopping = true then
    (b0.endOwner l).updEntry k (fun e => { e with stepLane := none })
  else b0.claimForEntry l k .readback

/-- REWRITE_FAILED for an entry's frame (R166): counted before a YIELDING lane goes on to HALT and RELEASE. -/
def Block.repairRewriteFailed (b : Block) (l : Fin 8) (k : EntryKey) : Block :=
  b.stepAnswered l (fun x => x.rewriteFailed k)

/-! ## Items ended without their answer (R64, R106, R110, R112, R113) -/

/-- A campaign is told that its frame exchange was ended by a stall after FETCH and before its result (R106): the visit is abandoned twice and UNREADABLE
at the third. -/
def Block.campaignFrameStalled (b : Block) (id frame : Nat) : Block :=
  match b.campaign id with
  | none => b
  | some c =>
    if c.frameRestarts < 2 then
      (b.updCampaign id (fun x => { x with frameRestarts := x.frameRestarts + 1 })).abandonVisit c.slot frame
    else b.campaignResult id frame .restartLimit false

/-- A campaign is told that its item was ended without its answer (R106, R110, R112, R113). Its change of state follows the lane's. -/
def Block.campaignTold (b : Block) (id : Nat) (x : Exchange) (why : Departure) : Block :=
  match x.openVisit with
  | none => b
  | some frame =>
    match why with
    | .stall => b.campaignFrameStalled id frame
    | .yield => match b.campaign id with | some c => b.abandonVisit c.slot frame | none => b
    | .putDown => match b.campaign id with | some c => b.abandonVisit c.slot frame | none => b
    | .duty => match b.campaign id with | some c => b.abandonVisit c.slot frame | none => b

/-- The abort cause of a calibration run (R194). A duty change ends no run (R180), so it stands beside STALL only for totality. -/
def Departure.abortCause : Departure → AbortCause
  | .stall => .stall
  | .yield => .yield
  | .putDown => .putDown
  | .duty => .stall

/-- The owner of an item is told how it ended (R64). `it` and `x` are the item and the exchange that were in hand. -/
def Block.tellOwner (b : Block) (l : Fin 8) (it : Option Item) (x : Exchange) (why : Departure) : Block :=
  match it with
  | none => b
  | some i =>
    match i.owner with
    | .campaign id => b.campaignTold id x why
    | .entry k => b.stepEnded k x why
    | .duty => b.abortCalibration l why.abortCause

end Sys2Proof.Machine
end

