-- ==== Sys2Proof/Machine/Arbiter.lean ====
section
/-! DEFINITION. The work arbiter and the grants of digest units, and how a step of the part ends: every claim and every asked arbiter is settled, then the
notices are queued (R31, R57, R204). -/
namespace Sys2Proof.Machine

/-! ## Sessions (R44, R71) -/

/-- The session number after one: 1 to 255, wrapping past 255 to 1 (R44). -/
def nextNumber (n : Nat) : Nat := if n < 255 then n + 1 else 1

/-- A session starts under the lane's next session number (R44, R71). -/
def Block.openSession (b : Block) (l : Fin 8) (kind : SessionKind) (span : Option (Word64 × Word32)) (owner : Owner) : Block :=
  b.updLane l (fun ln =>
    { ln with session := some { number := ln.nextSession, kind := kind, span := span, owner := owner },
              nextSession := nextNumber ln.nextSession })

/-- The lane sends OPEN: the opening exchange is in flight and the stall timer starts (R44, R52, R71). -/
def Block.openSpan (b : Block) (l : Fin 8) (kind : SessionKind) (owner : Owner) (m : Manifest) : Block :=
  let b1 := (b.openSession l kind (some (m.reel, m.span)) owner).send l (.openSpan (b.lane l).nextSession m.reel m.span)
  (b1.updLane l (fun ln => { ln with exchange := .opening })).startStall l

/-- The lane goes to ENGAGED with an item (R55). -/
def Block.engage (b : Block) (l : Fin 8) (kind : ItemKind) (owner : Owner) : Block :=
  b.updLane l (fun ln => { ln with state := .engaged, item := some { kind := kind, owner := owner } })

/-! ## Grants (R31, R32, R102) -/

/-- The lane sends FETCH for the claimed frame (R75): the frame awaits its MARK and the stall timer starts. -/
def Block.fetch (b : Block) (l : Fin 8) (frame : Nat) : Block :=
  let b1 := b.send l (.fetch (b.lane l).sessionNumber frame)
  (b1.updLane l (fun ln => { ln with
    exchange := .frame { phase := .awaitingMark, fetched := frame, delivered := none, announced := none, soFar := 0 } })).startStall l

/-- The pacing record takes the time of a campaign FETCH (R189). -/
def Block.notePacing (b : Block) (l : Fin 8) : Block :=
  b.updLane l (fun ln => { ln with pacing := some { fetchAt := b.clock, ended := ln.pacing.bind Pacing.ended } })

/-- A campaign's claim is granted (R102): the visit claim, then FETCH; or, refused, the unused release and the skip of the frame at the resume point. The
pacing gate was asked at the arbiter's turn and is not asked again here (R102, R190; DESIGN CHOICE, log entry 25). -/
def Block.campaignGranted (b : Block) (c : Claim) (id : Nat) : Block :=
  if b.store.visitGranted c.slot c.frame then
    ((b.updStore (fun st => st.markVisiting c.slot c.frame)).notePacing c.lane).fetch c.lane c.frame
  else
    let b1 := b.updPool (fun p => p.release c.lane)
    if ((b1.campaign id).bind Campaign.resumePoint).isSome then
      ((b1.updCampaign id Campaign.skip).toReady c.lane).chooseNext id
    else b1

/-- The head claim takes a FREE unit, which goes to GRANTED (R31). -/
def Block.grant (b : Block) (i : Fin 4) (c : Claim) (rest : List Claim) : Block :=
  let u : DigestUnit := { claim := c, running := false, received := 0, remainder := l64Start }
  let b1 := b.updPool (fun p => ({ p with fifo := rest }).setUnit i (some u))
  match c.owner with
  | .campaign id => b1.campaignGranted c id
  | .entry _ => b1.fetch c.lane c.frame
  | .duty => b1.fetch c.lane c.frame

/-! ## The arbiter (R57, R98, R102, R107, R109, R158) -/

/-- A repair step is given the turn (R57, R109, R158, R164): a campaign session open on the lane is ended with HALT. -/
def Block.startStep (b : Block) (l : Fin 8) (e : Entry) : Block :=
  match b.store.manifest e.key.slot with
  | none => b
  | some m =>
    let b1 := ((b.haltSession l).headTo l .waiting).engage l .repairStep (.entry e.key)
    (b1.openSpan l .repair (.entry e.key) m).updEntry e.key (fun x =>
      { x with stepLane := some l, phase := if x.phase = .staged then .rewriting else x.phase })

/-- The opening action of a WAITING head (R98). -/
def Block.openCampaign (b : Block) (l : Fin 8) (c : Campaign) : Block :=
  match b.store.manifest c.slot with
  | none => b
  | some m =>
    ((b.updCampaign c.id (fun x => { x with state := .opening })).engage l .campaignAction (.campaign c.id)).openSpan l
      .campaign (.campaign c.id) m

/-- The closing exchange of a RUNNING head whose resume point is PAST (R107). -/
def Block.closeSpan (b : Block) (l : Fin 8) (c : Campaign) : Block :=
  let b1 := (b.updCampaign c.id (fun x => { x with state := .closing })).engage l .campaignAction (.campaign c.id)
  let b2 := b1.send l (.close (b1.lane l).sessionNumber)
  (b2.updLane l (fun ln => { ln with exchange := .closing })).startStall l

/-- The frame exchange of a RUNNING head whose pacing gate is open makes its digest claim (R30, R102). -/
def Block.claimFrame (b : Block) (l : Fin 8) (c : Campaign) (frame : Nat) : Block :=
  (b.engage l .campaignAction (.campaign c.id)).makeClaim
    { lane := l, kind := .campaignFrame, owner := .campaign c.id, slot := c.slot, frame := frame,
      recLength := b.store.recordedLength c.slot frame }

/-- The head campaign's next action, if it is available (R57, R98, R102, R107). -/
def Block.campaignTurn (b : Block) (l : Fin 8) (c : Campaign) : Block :=
  match c.state with
  | .waiting => b.openCampaign l c
  | .running => match c.resumePoint with
    | none => b.closeSpan l c
    | some frame => if b.gateOpen l then b.claimFrame l c frame else b
  | .opening => b
  | .closing => b
  | .yielded => b
  | .held => b
  | .done => b
  | .ended => b

/-- The work arbiter of a lane acts when the lane is READY with no item (R57). In HELD the Duty Controller decides on the lane first (R182). -/
def Block.arbiter (b : Block) (l : Fin 8) : Block :=
  if (b.lane l).state = .ready ∧ (b.lane l).item = none then
    if b.duty.mode = .held ∧ (b.lane l).settings.keepAlive = false then b.putDownByHold l false
    else match b.pendingStep l with
      | some e => b.startStep l e
      | none => match b.sched.head l with
        | some c => if b.duty.mayRun l then b.campaignTurn l c else b
        | none => b
  else b

/-! ## The end of a step (R31, R57, R204; log entry 13) -/

/-- Waiting claims are granted while a unit is FREE; then the next lane asked acts, and so on until nothing is left. The fuel bounds the turns. -/
def Block.settleFrom : Nat → Block → Block
  | 0, b => b
  | n + 1, b =>
    match b.pool.freeUnit, b.pool.fifo with
    | some i, c :: rest => Block.settleFrom n (b.grant i c rest)
    | some _, [] => match b.asks with
      | [] => b
      | l :: ls => Block.settleFrom n (({ b with asks := ls }).arbiter l)
    | none, _ => match b.asks with
      | [] => b
      | l :: ls => Block.settleFrom n (({ b with asks := ls }).arbiter l)

/-- Frame numbers from a campaign's resume point to the end of its window. -/
def Campaign.ahead (c : Campaign) : Nat :=
  match c.resumePoint with
  | some r => c.windowLast - r + 1
  | none => 0

/-- A bound on the turns a step takes to settle: every turn of the arbiter uses an ask and may make a claim, every grant uses a claim, and a grant that
asks an arbiter again has skipped a frame. -/
def Block.turns (b : Block) : Nat := 2 * b.asks.length + b.pool.fifo.length + 2 * (b.sched.table.map Campaign.ahead).sum

/-- Settle the claims and the arbiters of a step. -/
def Block.settleWork (b : Block) : Block := Block.settleFrom b.turns b

/-- A step of the part that is no request: its effect, the grants and turns that follow, and its notices. While the reset line is asserted nothing is taken (R206). -/
def Block.eventStep (f : Block → Block) (b : Block) : Block :=
  if b.resetLine then b else (f b).settleWork.flush

/-- A request is refused: nothing changes (R5, R201). -/
def Block.refuse (b : Block) (reason : Reason) : Block × Reply := (b, .refused reason)

/-- A request as the receiver hears it (R198, R199): a body past 1,024 bytes or a tag 0 is a rejected frame. -/
def Port.hear (p : Port) (r : Request) : Port :=
  if 1024 < r.body.length then p.reject .length 0 0
  else if r.tag = 0 then p.reject .tag r.kind 0
  else p.accept r

/-- The port's own checks, then the owning block (R200). -/
def Block.apply (b : Block) (r : Request) (owner : Block → Block × Reply) : Block × Reply :=
  match portRefusal r b.duty.mode with
  | some reason => (b, .refused reason)
  | none => owner b

/-- The port takes a request (R199, R200, R204; log entry 1): one that is not at the head of the inbound queue is received first; it is taken when it stands at the
head and a reply place is free, its effects are settled, and its reply is queued before the notices of its effects. The bytes that the receiver holds of
another frame stay as they are (DESIGN CHOICE, log entry 1). -/
def Block.requestStep (r : Request) (owner : Block → Block × Reply) (b : Block) : Block :=
  if b.resetLine then b
  else
    let b1 := if b.port.inbound.head? = some r then b else { b with port := b.port.hear r }
    if b1.port.canTake r then
      let out := b1.apply r owner
      let b2 := out.1.settleWork
      { b2 with port := b2.port.answer r out.2 }
    else b1.flush

end Sys2Proof.Machine
end

