-- ==== Sys2Proof/Machine/Stalls.lean ====
section
/-! DEFINITION. How a lane is taken from its item: stall events, malformed units, yields, RESUME and put-down (R46, R53, R54, R60 to R63, R66). In each, the exchange
and the session end and the lane takes its new state first; then the owner is told, LANE_CHANGED is raised, and the blocks that watch the lane are told (log entry 20). -/
namespace Sys2Proof.Machine

/-! ## Stall events (R53, R54, R62) -/

/-- A stall event begins: it is counted, both timers stop and the exchange in flight is abandoned. -/
def Block.stallBegins (b : Block) (l : Fin 8) : Block :=
  (b.dropExchange l).updLane l (fun ln => { ln with stallEvents := countUp ln.stallEvents, settleTimer := none, stallTimer := none })

/-- A stall event in YIELDING: the drive is given up, to be settled again on RESUME (R62). -/
def Block.stallYielding (b : Block) (l : Fin 8) (it : Option Item) (x : Exchange) : Block :=
  (((b.haltSession l).becomeLent l .settle).tellOwner l it x .stall).tellLent l

/-- A stall event answered with RESTART (R53, R112). -/
def Block.stallRestart (b : Block) (l : Fin 8) (it : Option Item) (x : Exchange) : Block :=
  let b1 := (b.updLane l (fun ln => { ln with restarts := ln.restarts + 1 })).beginSettling l .restart
  (((b1.tellOwner l it x .stall).laneNotice l .restart).headTo l .waiting).leftService l

/-- The fourth stall event in a row takes the lane OFF (R53, R113). -/
def Block.stallNoAnswer (b : Block) (l : Fin 8) (it : Option Item) (x : Exchange) : Block :=
  let b1 := b.updLane l (fun ln => { ln with state := .off, item := none, session := none })
  (((b1.tellOwner l it x .stall).laneNotice l .noAnswer).headHeld l .laneDown).leftService l

/-- A stall event with automatic restart off (R54, R113). -/
def Block.stallStops (b : Block) (l : Fin 8) (it : Option Item) (x : Exchange) : Block :=
  let b1 := (b.haltSession l).updLane l (fun ln => { ln with state := .stalled, item := none })
  (((b1.tellOwner l it x .stall).laneNotice l .stall).headHeld l .stall).leftService l

/-- A stall event on a lane that awaits units (R53, R54, R62). -/
def Block.stallEvent (b : Block) (l : Fin 8) : Block :=
  let ln := b.lane l
  let b1 := b.stallBegins l
  if ln.state = .yielding then b1.stallYielding l ln.item ln.exchange
  else if ln.settings.autoRestart then
    if ln.restarts < 3 then b1.stallRestart l ln.item ln.exchange else b1.stallNoAnswer l ln.item ln.exchange
  else b1.stallStops l ln.item ln.exchange

/-- A malformed unit is a stall event in SETTLING, READY, ENGAGED, CALIBRATING and YIELDING, and is discarded in OFF, LENT and STALLED (R46). -/
def Block.malformed (b : Block) (l : Fin 8) : Block :=
  match (b.lane l).state with
  | .settling => b.stallEvent l
  | .ready => b.stallEvent l
  | .engaged => b.stallEvent l
  | .calibrating => b.stallEvent l
  | .yielding => b.stallEvent l
  | .off => b
  | .lent => b
  | .stalled => b

/-! ## Yields (R60, R61) -/

/-- Where RESUME will lead a lane that gives its drive up at once (R60). -/
def LaneState.yieldTarget : LaneState → ResumeTarget
  | .settling => .settle
  | .stalled => .settle
  | .ready => .ready
  | .engaged => .ready
  | .calibrating => .ready
  | .off => .ready
  | .yielding => .ready
  | .lent => .ready

/-- The drive is given up at once: the exchange, claim or step is ended, HALT is sent if a session is open, then RELEASE (R60, R61). -/
def Block.yieldDrive (b : Block) (l : Fin 8) : Block :=
  let ln := b.lane l
  ((((b.dropExchange l).haltSession l).becomeLent l ln.state.yieldTarget).tellOwner l ln.item ln.exchange .yield).tellLent l

/-- The exchange in flight is completed before the drive is given up (R61): a rewrite, and a frame whose bytes outstanding do not exceed the yield allowance. -/
def Block.yieldCompletes (b : Block) (l : Fin 8) : Bool :=
  match (b.lane l).exchange with
  | .rewrite _ _ => true
  | .frame f => match f.phase with
    | .draining => false
    | .awaitingMark => match b.pool.heldBy l with
      | some u => decide (u.outstanding ≤ (b.lane l).settings.yieldAllowance * 1048576)
      | none => false
    | .receiving => match b.pool.heldBy l with
      | some u => decide (u.outstanding ≤ (b.lane l).settings.yieldAllowance * 1048576)
      | none => false
  | .idle => false
  | .opening => false
  | .closing => false
  | .calibration _ _ => false

/-- A YIELD is taken (R60, R61). A lane that goes to YIELDING leaves the state its stall timer was started in, so the timer stops (R52) until a unit of the exchange, or the END
of the rewrite, starts it again (log entry 24). -/
def Block.yieldTaken (b : Block) (l : Fin 8) : Block :=
  match (b.lane l).state with
  | .off => b
  | .yielding => b
  | .lent => b
  | .settling => b.yieldDrive l
  | .ready => b.yieldDrive l
  | .calibrating => b.yieldDrive l
  | .stalled => b.yieldDrive l
  | .engaged => if b.yieldCompletes l then b.updLane l (fun ln => { ln with state := .yielding, stallTimer := none }) else b.yieldDrive l

/-! ## RESUME (R63, R111) -/

/-- RESUME leads to READY. -/
def Block.resumeReady (b : Block) (l : Fin 8) : Block :=
  let b1 := (b.updLane l (fun ln => { ln with state := .ready, resumeTarget := none })).laneNotice l .resume
  ((b1.headReturned l).enteredService l).ask l

/-- A RESUME is taken (R63): ignored in every state but LENT. -/
def Block.resumeTaken (b : Block) (l : Fin 8) : Block :=
  match (b.lane l).state with
  | .lent => match (b.lane l).resumeTarget with
    | some .settle => (b.enterSettling l .hello .resume).headReturned l
    | some .ready => b.resumeReady l
    | none => b
  | .off => b
  | .settling => b
  | .ready => b
  | .engaged => b
  | .calibrating => b
  | .yielding => b
  | .stalled => b

/-! ## Put-down (R66) -/

/-- PUT DOWN LANE in every state but OFF (R66, R113, R173). -/
def Block.putDown (b : Block) (l : Fin 8) : Block :=
  let ln := b.lane l
  let b1 := ((b.dropExchange l).haltSession l).updLane l (fun x =>
    { x with state := .off, item := none, putDownByHold := false, settleTimer := none, stallTimer := none, resumeTarget := none })
  (((b1.tellOwner l ln.item ln.exchange .putDown).laneNotice l .putDown).headHeld l .laneDown).leftService l

end Sys2Proof.Machine
end

