-- ==== Sys2Proof/Machine/Parser.lean ====
section
/-! DEFINITION. What a lane and its parser do with each reader unit once its own checks have passed (chapters 03 and 04): the exchange in flight admits it, or it is malformed. -/
namespace Sys2Proof.Machine

/-! ## Settling (R50) -/

/-- The reader's capabilities are stored (R50). -/
def Block.storeCaps (b : Block) (l : Fin 8) (c : Caps) : Block := b.updLane l (fun ln => { ln with caps := some c })

/-- A HELLO is taken (R50): in SETTLING and in LENT; discarded in OFF and STALLED; malformed elsewhere. -/
def Block.helloTaken (l : Fin 8) (c : Caps) (b : Block) : Block :=
  match (b.lane l).state with
  | .settling =>
    let b1 := (b.storeCaps l c).updLane l (fun ln => { ln with helloTaken := true })
    if (b.lane l).settleExpired then b1.settled l else b1
  | .lent => (b.storeCaps l c).updLane l (fun ln => { ln with resumeTarget := some .settle })
  | .off => b
  | .stalled => b
  | .ready => b.malformed l
  | .engaged => b.malformed l
  | .calibrating => b.malformed l
  | .yielding => b.malformed l

/-! ## Opening and closing (R73, R74) -/

/-- The owner of the lane's open session. -/
def Lane.owner (ln : Lane) : Option Owner :=
  match ln.session with
  | some s => some s.owner
  | none => none

/-- The span of the lane's open session. -/
def Lane.span (ln : Lane) : Option (Word64 × Word32) :=
  match ln.session with
  | some s => s.span
  | none => none

/-- The HEADER agrees with a slot's manifest in all four values (R99, R159). -/
def Store.headerAgrees (st : Store) (k : Fin 16) (header : Word64 × Word32 × Nat × Nat) : Bool :=
  match st.manifest k with
  | some m => m.identity == header
  | none => false

/-- A header event for the session's owner (R73, R99, R159). -/
def Block.headerEvent (l : Fin 8) (header : Word64 × Word32 × Nat × Nat) (b : Block) : Block :=
  match (b.lane l).owner with
  | some (.campaign id) => b.campaignHeader l id header
  | some (.entry k) => b.repairHeader l k (b.store.headerAgrees k.slot header)
  | some .duty => b
  | none => b

/-- A HEADER is awaited in an opening exchange (R51, R73). -/
def Block.headerTaken (l : Fin 8) (header : Word64 × Word32 × Nat × Nat) (b : Block) : Block :=
  if (b.lane l).exchange = .opening then b.headerEvent l header else b.malformed l

/-- A span-not-found event of an opening exchange (R73, R99, R161, R166). -/
def Block.openingMissing (b : Block) (l : Fin 8) : Block :=
  match (b.lane l).owner with
  | some (.campaign id) => b.campaignSpanMissing l id
  | some (.entry k) => b.repairHeader l k false
  | some .duty => b
  | none => b

/-- The answer to CLOSE for the campaign that owns the session (R74, R108); none stands for a span-not-found event. -/
def Block.closingAnswer (b : Block) (l : Fin 8) (trailer : Option (Word64 × Nat)) : Block :=
  match (b.lane l).owner with
  | some (.campaign id) =>
    let agrees := match trailer, b.campaign id with
      | some (rollup, count), some c => match b.store.manifest c.slot with
        | some m => m.trailerAgrees rollup count
        | none => false
      | _, _ => false
    b.campaignTrailer l id agrees
  | some (.entry _) => b
  | some .duty => b
  | none => b

/-- A TRAILER is awaited in a closing exchange (R51, R74). -/
def Block.trailerTaken (l : Fin 8) (t : Word64 × Nat) (b : Block) : Block :=
  if (b.lane l).exchange = .closing then b.closingAnswer l (some t) else b.malformed l

/-! ## A frame (R75 to R79) -/

/-- Change the frame exchange in flight. -/
def Block.setFrame (b : Block) (l : Fin 8) (f : FrameExchange) : Block := b.updLane l (fun ln => { ln with exchange := .frame f })

/-- The frame exchange ends with a result for the claimed frame, which is handed to the owner (R35, R36). -/
def Block.frameResult (b : Block) (l : Fin 8) (frame : Nat) (res : FrameResult) : Block :=
  match (b.lane l).owner with
  | some (.campaign id) => b.campaignFrameEnds l id frame res
  | some (.entry k) => b.repairResult l k res
  | some .duty => b
  | none => b

/-- The draining ends: the owner had its result at the MARK (R79). -/
def Block.drainEnds (b : Block) (l : Fin 8) : Block :=
  match (b.lane l).owner with
  | some (.campaign id) => (b.dropExchange l).finishItem l id
  | some (.entry _) => b.endOwner l
  | some .duty => b
  | none => b

/-- A MARK's length passes the parser's checks: it has a place among R71's announced lengths, 1 to 256 MiB (DEDUCED, log entry 8), and does not exceed
the largest frame the reader declared (R75). -/
def Lane.admitsLength (ln : Lane) (n : Nat) : Bool :=
  match ln.caps with
  | some c => decide (1 ≤ n) && decide (n ≤ maxFrameBytes) && decide (n ≤ c.largest)
  | none => false

/-- The fetched frame begins: its digest unit goes to RUNNING (R33, R75). -/
def Block.frameBegins (b : Block) (l : Fin 8) (f : FrameExchange) (length : Nat) : Block :=
  let b1 := b.setFrame l { f with phase := .receiving, delivered := some f.fetched, announced := some length }
  (b1.updPool (fun p => p.updHeld l (fun u => { u with running := true }))).restartStall l

/-- Another frame begins (R36, R59, R75): the draining starts, the unit is released, and the owner has its SUBSTITUTED result, with the bytes the unit has received. -/
def Block.frameSubstituted (b : Block) (l : Fin 8) (f : FrameExchange) (delivered length : Nat) : Block :=
  let b1 := b.setFrame l { f with phase := .draining, delivered := some delivered, announced := some length }
  let b2 := (b1.updPool (fun p => p.release l)).restartStall l
  let res := FrameResult.substituted (b.pool.receivedBy l) delivered
  match (b2.lane l).owner with
  | some (.campaign id) => b2.campaignResult id f.fetched res true
  | some (.entry k) => b2.repairResult l k res
  | some .duty => b2
  | none => b2

/-- A MARK is awaited in AWAITING_MARK (R75). -/
def Block.markTaken (l : Fin 8) (m : Nat × Nat) (b : Block) : Block :=
  match (b.lane l).exchange with
  | .frame f => match f.phase with
    | .awaitingMark =>
      if (b.lane l).admitsLength m.2 then
        if m.1 = f.fetched then b.frameBegins l f m.2 else b.frameSubstituted l f m.1 m.2
      else b.malformed l
    | .receiving => b.malformed l
    | .draining => b.malformed l
  | .idle => b.malformed l
  | .opening => b.malformed l
  | .closing => b.malformed l
  | .rewrite _ _ => b.malformed l
  | .calibration _ _ => b.malformed l

/-- The bytes a source fetch's unit digests are written into the entry's extents (R33, R155, R159). -/
def Block.stagePayload (b : Block) (l : Fin 8) (body : List Byte) : Block :=
  match b.pool.heldBy l with
  | none => b
  | some u => match u.claim.kind, u.claim.owner with
    | .sourceFetch, .entry k => match b.repair.find k with
      | some e => { b with staging := stageBytes (e.extents.getD []) u.received (u.digestible body) b.staging }
      | none => b
    | _, _ => b

/-- A PAYLOAD fits the announced length (R77, R79). -/
def FrameExchange.fits (f : FrameExchange) (n : Nat) : Bool :=
  match f.announced with
  | some a => decide (f.soFar + n ≤ a)
  | none => false

/-- A PAYLOAD of the fetched frame (R33, R77). -/
def Block.payloadReceived (b : Block) (l : Fin 8) (f : FrameExchange) (body : List Byte) : Block :=
  let b1 := (b.stagePayload l body).setFrame l { f with soFar := f.soFar + body.length }
  (b1.updPool (fun p => p.updHeld l (fun u => u.take body))).restartStall l

/-- A PAYLOAD of the calibration run (R81, R193). -/
def Block.payloadCalibration (b : Block) (l : Fin 8) (length bytes : Nat) (body : List Byte) : Block :=
  let b1 := b.updLane l (fun ln => { ln with exchange := .calibration length (bytes + body.length) })
  let run := (b.duty.calibration[l]).map (fun c =>
    { c with firstAt := some (c.firstAt.getD b.clock), bytes := c.bytes + body.length })
  (b1.updDuty (fun d => { d with calibration := d.calibration.set l.val run l.isLt })).restartStall l

/-- A PAYLOAD is awaited while a frame arrives or drains and in a calibration exchange (R76, R77, R79, R81). -/
def Block.payloadTaken (l : Fin 8) (body : List Byte) (b : Block) : Block :=
  match (b.lane l).exchange with
  | .frame f => match f.phase with
    | .awaitingMark => b.malformed l
    | .receiving => if f.fits body.length then b.payloadReceived l f body else b.malformed l
    | .draining =>
      if f.fits body.length then (b.setFrame l { f with soFar := f.soFar + body.length }).restartStall l else b.malformed l
  | .calibration length bytes =>
    if bytes + body.length ≤ length then b.payloadCalibration l length bytes body else b.malformed l
  | .idle => b.malformed l
  | .opening => b.malformed l
  | .closing => b.malformed l
  | .rewrite _ _ => b.malformed l

/-- The complete result of the unit a lane holds (R35). -/
def Pool.result (p : Pool) (l : Fin 8) : FrameResult :=
  match p.heldBy l with
  | some u => .complete u.received (l64Finish u.remainder)
  | none => .complete 0 (l64Finish l64Start)

/-- The ceiling of an elapsed time in microseconds: seven eighths of the measured rate, 1 to 2,048 MiB/s (R193). -/
def calibratedCeiling (t : Nat) : Nat := min 2048 (max 1 (224000000 / t))

/-- The elapsed time of a lane's run, a time of 0 counted as 1 (R193). -/
def Block.calibrationTime (b : Block) (l : Fin 8) : Nat :=
  match b.duty.calibration[l] with
  | some c => max 1 (b.clock - c.firstAt.getD b.clock)
  | none => 1

/-- Compute a lane's gate again if its effective ceiling has changed (R190). -/
def Block.regateIfChanged (b : Block) (l : Fin 8) (before : Option Nat) : Block :=
  if b.duty.effectiveCeiling l (b.lane l).settings.ceiling = before then b else b.regate l

/-- A calibration run completes (R193): HALT, the ceiling, the gate, CALIBRATION_DONE, READY. -/
def Block.calibrationEnds (b : Block) (l : Fin 8) : Block :=
  let t := b.calibrationTime l
  let old := (b.lane l).settings.ceiling
  let b1 := ((b.dropExchange l).haltSession l).updLane l (fun ln =>
    { ln with settings := { ln.settings with ceiling := calibratedCeiling t } })
  let b2 := b1.updDuty (fun d => { d with
    calibration := d.calibration.set l.val none l.isLt
    lastCalibration := d.lastCalibration.set l.val (some (.done t (calibratedCeiling t))) l.isLt })
  ((b2.regateIfChanged l (b.duty.effectiveCeiling l old)).toReady l).raise
    (.calibrationDone l (.done t (calibratedCeiling t)) (calibratedCeiling t) old)

/-- An END ends a frame, a draining or a complete calibration run (R76, R78, R79, R81). -/
def Block.endTaken (l : Fin 8) (_ : Unit) (b : Block) : Block :=
  match (b.lane l).exchange with
  | .frame f => match f.phase with
    | .awaitingMark => b.malformed l
    | .receiving => b.frameResult l f.fetched (b.pool.result l)
    | .draining => b.drainEnds l
  | .calibration length bytes => if bytes = length then b.calibrationEnds l else b.malformed l
  | .idle => b.malformed l
  | .opening => b.malformed l
  | .closing => b.malformed l
  | .rewrite _ _ => b.malformed l

/-- The number is the fetched or the delivered frame's (R79). -/
def FrameExchange.names (f : FrameExchange) (n : Nat) : Bool := n == f.fetched || f.delivered == some n

/-- A FAULT is awaited in a frame exchange (R76, R78, R79). -/
def Block.faultTaken (l : Fin 8) (m : Nat × Byte) (b : Block) : Block :=
  match (b.lane l).exchange with
  | .frame f => match f.phase with
    | .awaitingMark => if m.1 = f.fetched then b.frameResult l f.fetched (.fault (b.pool.receivedBy l) m.2) else b.malformed l
    | .receiving => if m.1 = f.fetched then b.frameResult l f.fetched (.fault (b.pool.receivedBy l) m.2) else b.malformed l
    | .draining => if f.names m.1 then b.drainEnds l else b.malformed l
  | .idle => b.malformed l
  | .opening => b.malformed l
  | .closing => b.malformed l
  | .rewrite _ _ => b.malformed l
  | .calibration _ _ => b.malformed l

/-- A NOT_FOUND that names a frame (R76, R77, R79). -/
def Block.frameMissing (b : Block) (l : Fin 8) (f : FrameExchange) (n : Nat) : Block :=
  match f.phase with
  | .awaitingMark => if n = f.fetched then b.frameResult l f.fetched (.notFound (b.pool.receivedBy l)) else b.malformed l
  | .receiving => b.malformed l
  | .draining => if f.names n then b.drainEnds l else b.malformed l

/-- A NOT_FOUND is awaited in opening, frame and closing exchanges (R73, R74, R76, R79). -/
def Block.notFoundTaken (l : Fin 8) (m : Missing) (b : Block) : Block :=
  match (b.lane l).exchange, m with
  | .opening, .span reel span => if (b.lane l).span = some (reel, span) then b.openingMissing l else b.malformed l
  | .closing, .span reel span => if (b.lane l).span = some (reel, span) then b.closingAnswer l none else b.malformed l
  | .frame f, .frame n => b.frameMissing l f n
  | _, _ => b.malformed l

/-! ## Rewrite answers (R80) -/

/-- REWRITE_DONE is awaited once the END of the rewrite has been sent (R51, R80). -/
def Block.rewriteDoneTaken (l : Fin 8) (n : Nat) (b : Block) : Block :=
  match (b.lane l).exchange, (b.lane l).owner with
  | .rewrite frame true, some (.entry k) => if n = frame then b.repairRewritten l k else b.malformed l
  | _, _ => b.malformed l

/-- REWRITE_FAILED is awaited throughout the rewrite exchange (R51, R80). -/
def Block.rewriteFailedTaken (l : Fin 8) (n : Nat) (b : Block) : Block :=
  match (b.lane l).exchange, (b.lane l).owner with
  | .rewrite frame _, some (.entry k) => if n = frame then b.repairRewriteFailed l k else b.malformed l
  | _, _ => b.malformed l

/-! ## Annotations (R82, R84, R86, R87) -/

/-- A slot takes an annotation of this kind from this lane (R86). -/
def CaptureSlot.takes (c : CaptureSlot) (l : Fin 8) (kind : Byte) : Bool :=
  c.kind == some kind && (c.selector == none || c.selector == some l)

/-- A matching slot after a good annotation (R86). -/
def CaptureSlot.good (clock : Nat) (l : Fin 8) (content : List Byte) (c : CaptureSlot) : CaptureSlot :=
  { c with content := some content, seen := true, faulty := false, lastLane := some l,
           timer := if c.window = 0 then c.timer else some (clock + c.window * 1000000) }

/-- A matching slot after a failed annotation (R87). -/
def CaptureSlot.failed (l : Fin 8) (content : List Byte) (c : CaptureSlot) : CaptureSlot :=
  if c.keepFaulty then { c with content := some content, lastLane := some l, faulty := true } else { c with faulty := true }

/-- One slot and an annotation, with its CAPTURE_SEEN (R86, R87). -/
def Block.captureInto (l : Fin 8) (kind : Byte) (content : List Byte) (passed : Bool) (b : Block) (k : Fin 16) : Block :=
  let c := b.capture[k]
  if c.takes l kind then
    if passed then
      let b1 := { b with capture := b.capture.set k.val (c.good b.clock l content) k.isLt }
      if c.notify then b1.raise (.captureSeen k l kind content) else b1
    else { b with capture := b.capture.set k.val (c.failed l content) k.isLt }
  else b

/-- The Annotation Capture takes an annotation, slot by slot (R86, R87). -/
def Block.captureAnnotation (b : Block) (l : Fin 8) (kind : Byte) (content : List Byte) (passed : Bool) : Block :=
  allSlots.foldl (Block.captureInto l kind content passed) b

/-- An ANNOTATION of the open session (R52, R82, R84): it is captured, and one that fails its check in a campaign's session hands the campaign a condition. -/
def Block.annotationTaken (l : Fin 8) (a : Byte × List Byte × Word16) (b : Block) : Block :=
  let passed := annotationCheck a.1 a.2.1 == a.2.2
  let b1 := (b.captureAnnotation l a.1 a.2.1 passed).restartStall l
  match passed, (b.lane l).session with
  | false, some s => match s.owner, s.span with
    | .campaign id, some (reel, span) => b1.campaignAnnotation id a.1 reel span
    | _, _ => b1
  | _, _ => b1

/-! ## The unit's own checks (R43, R46; log entry 7) -/

/-- A session unit (R46): malformed on a bad CRC-32, session number 0 or a bad body; stale, and discarded, when its number is not the open session's. -/
def Block.sessionUnit {α : Type} (type : Byte) (l : Fin 8) (session : Byte) (body : List Byte) (crc : Word32)
    (parsed : Option α) (f : α → Block → Block) (b : Block) : Block :=
  match parsed with
  | none => b.malformed l
  | some a =>
    if unitCrcGood type session body crc = false ∨ session = 0 then b.malformed l
    else if (b.lane l).sessionNumber = session.toNat then f a b
    else b

/-- A link unit (R46): malformed on a bad CRC-32, a session number other than 0 or a bad body. -/
def Block.linkUnit {α : Type} (type : Byte) (l : Fin 8) (session : Byte) (body : List Byte) (crc : Word32)
    (parsed : Option α) (f : α → Block → Block) (b : Block) : Block :=
  match parsed with
  | none => b.malformed l
  | some a => if unitCrcGood type session body crc = false ∨ session ≠ 0 then b.malformed l else f a b

/-- A body of no bytes (R211). -/
def parseEmpty (body : List Byte) : Option Unit := if body = [] then some () else none

/-- A PAYLOAD's body (R43). -/
def parsePayload (body : List Byte) : Option (List Byte) := if payloadBodyGood body then some body else none

/-- The unit types a reader may send (R45, R211). -/
def readerTypes : List Byte := [0x01, 0x10, 0x11, 0x20, 0x21, 0x22, 0x23, 0x24, 0x25, 0x26, 0x27, 0x28, 0x29]

end Sys2Proof.Machine
end

