-- ==== Sys2Proof/Machine/Units.lean ====
section
/-! DEFINITION. The meanings of the reader-unit rows (R43 to R46, R50, R60 to R63, R71 to R84): the type of R211, the body's fields, and what the lane does with them. -/
namespace Sys2Proof.Machine

/-- A step of the part that is no request, as a machine step: it leaves the command queue alone and always ends in a next state. -/
def State.event (s : State) (f : Block → Block) : Host.Outcome State Fault Refusal :=
  .next { s with blk := s.blk.eventStep f }

/-- HELLO (R50). -/
def execHello (lane : Fin 8) (session : Byte) (body : List Byte) (crc : Word32) (s : State) : Host.Outcome State Fault Refusal :=
  s.event (Block.linkUnit 0x01 lane session body crc (parseHello body) (Block.helloTaken lane))

/-- HEADER (R73). -/
def execHeader (lane : Fin 8) (session : Byte) (body : List Byte) (crc : Word32) (s : State) : Host.Outcome State Fault Refusal :=
  s.event (Block.sessionUnit 0x20 lane session body crc (parseHeader body) (Block.headerTaken lane))

/-- MARK (R75). -/
def execMark (lane : Fin 8) (session : Byte) (body : List Byte) (crc : Word32) (s : State) : Host.Outcome State Fault Refusal :=
  s.event (Block.sessionUnit 0x21 lane session body crc (parseMark body) (Block.markTaken lane))

/-- PAYLOAD (R77, R79, R81). -/
def execPayload (lane : Fin 8) (session : Byte) (body : List Byte) (crc : Word32) (s : State) : Host.Outcome State Fault Refusal :=
  s.event (Block.sessionUnit 0x10 lane session body crc (parsePayload body) (Block.payloadTaken lane))

/-- END (R78, R79, R81). -/
def execEndUnit (lane : Fin 8) (session : Byte) (body : List Byte) (crc : Word32) (s : State) : Host.Outcome State Fault Refusal :=
  s.event (Block.sessionUnit 0x11 lane session body crc (parseEmpty body) (Block.endTaken lane))

/-- TRAILER (R74). -/
def execTrailer (lane : Fin 8) (session : Byte) (body : List Byte) (crc : Word32) (s : State) : Host.Outcome State Fault Refusal :=
  s.event (Block.sessionUnit 0x22 lane session body crc (parseTrailer body) (Block.trailerTaken lane))

/-- NOT_FOUND (R73, R74, R76, R79). -/
def execNotFound (lane : Fin 8) (session : Byte) (body : List Byte) (crc : Word32) (s : State) : Host.Outcome State Fault Refusal :=
  s.event (Block.sessionUnit 0x23 lane session body crc (parseNotFound body) (Block.notFoundTaken lane))

/-- FAULT (R76, R78, R79). -/
def execFault (lane : Fin 8) (session : Byte) (body : List Byte) (crc : Word32) (s : State) : Host.Outcome State Fault Refusal :=
  s.event (Block.sessionUnit 0x24 lane session body crc (parseFault body) (Block.faultTaken lane))

/-- ANNOTATION (R82, R84, R86, R87). -/
def execAnnotation (lane : Fin 8) (session : Byte) (body : List Byte) (crc : Word32) (s : State) : Host.Outcome State Fault Refusal :=
  s.event (Block.sessionUnit 0x25 lane session body crc (parseAnnotation body) (Block.annotationTaken lane))

/-- YIELD (R60, R61). -/
def execYield (lane : Fin 8) (session : Byte) (body : List Byte) (crc : Word32) (s : State) : Host.Outcome State Fault Refusal :=
  s.event (Block.linkUnit 0x26 lane session body crc (parseEmpty body) (fun _ b => b.yieldTaken lane))

/-- RESUME (R63). -/
def execResume (lane : Fin 8) (session : Byte) (body : List Byte) (crc : Word32) (s : State) : Host.Outcome State Fault Refusal :=
  s.event (Block.linkUnit 0x27 lane session body crc (parseEmpty body) (fun _ b => b.resumeTaken lane))

/-- REWRITE_DONE (R80, R165). -/
def execRewriteDone (lane : Fin 8) (session : Byte) (body : List Byte) (crc : Word32) (s : State) : Host.Outcome State Fault Refusal :=
  s.event (Block.sessionUnit 0x28 lane session body crc (parseFrameNumber body) (Block.rewriteDoneTaken lane))

/-- REWRITE_FAILED (R80, R166). -/
def execRewriteFailed (lane : Fin 8) (session : Byte) (body : List Byte) (crc : Word32) (s : State) : Host.Outcome State Fault Refusal :=
  s.event (Block.sessionUnit 0x29 lane session body crc (parseFrameNumber body) (Block.rewriteFailedTaken lane))

/-- A unit of a type not in R45 is malformed, whatever its other fields (R46). A type of R45 has a row of its own, and changes nothing here (log entry 14). -/
def execUnknownUnitType (lane : Fin 8) (type _session : Byte) (_body : List Byte) (_crc : Word32) (s : State) : Host.Outcome State Fault Refusal :=
  s.event (fun b => if type ∈ readerTypes then b else b.malformed lane)

end Sys2Proof.Machine
end

