-- ==== Sys2Proof/Machine/DutyMode.lean ====
section
/-! DEFINITION. Changes of permission and of duty mode (R180 to R188, R190, R114, R174). -/
namespace Sys2Proof.Machine

/-! ## Losing permission (R114, R174, R181) -/

/-- The owner of the item in hand will end it at its answer (log entry 12). -/
def Block.stopItem (b : Block) (l : Fin 8) : Block :=
  b.updLane l (fun ln => { ln with item := ln.item.map (fun it => { it with stopping := true }) })

/-- A lane loses leave to run campaigns: its head campaign acts by its state (R114). -/
def Block.laneLoses (b : Block) (l : Fin 8) : Block :=
  match b.sched.head l with
  | none => b
  | some c => match c.state with
    | .running =>
      if (b.lane l).exchange.isFrame then b.stopItem l
      else (b.campaignEndsSession c).updCampaign c.id (fun x => { x with state := .waiting })
    | .opening => b.stopItem l
    | .closing => b
    | .waiting => b
    | .yielded => b
    | .held => b
    | .done => b
    | .ended => b

/-- Repairs cease to be permitted on an entry's lanes (R174). -/
def Block.entryLoses (b : Block) (k : EntryKey) : Block :=
  match b.repair.find k with
  | none => b
  | some e => match e.stepLane with
    | none => if e.phase = .fetching then b.entryToWaiting k else b
    | some l => if (b.lane l).exchange = .idle then (b.endOwner l).stepEnded k .idle .duty else b.stopItem l

/-- The entries on which repairs were permitted and are no longer, in list order. -/
def Block.losingEntries (b : Block) (before : Duty) : List EntryKey :=
  (b.repair.list.filter (fun e => before.permits e.source e.damaged && !b.duty.permits e.source e.damaged)).map Entry.key

/-- The lanes that may no longer run campaigns, in lane order. -/
def Block.losingLanes (b : Block) (before : Duty) : List (Fin 8) :=
  allLanes.filter (fun l => before.mayRun l && !b.duty.mayRun l)

/-- A lane whose arbiter is concerned by the change (R57, R181): every lane when the duty mode changes; otherwise one that gains leave to run campaigns or has a
step pending of an entry that gains permission. -/
def Block.concerned (b : Block) (before : Duty) (l : Fin 8) : Bool :=
  before.mode != b.duty.mode || (!before.mayRun l && b.duty.mayRun l) ||
    b.repair.list.any (fun e => !before.permits e.source e.damaged && b.pendingLane e == some l)

/-- The effective ceilings that have changed have their gates computed again (R190). -/
def Block.regateAll (b : Block) (before : Duty) : Block :=
  allLanes.foldl (fun acc l => acc.regateIfChanged l (before.effectiveCeiling l (acc.lane l).settings.ceiling)) b

/-- A change of permission (R181): the owners of what is lost act, the arbiters concerned are asked, the start pass is made, and gates are computed again. -/
def Block.permissionChange (b : Block) (before : Duty) : Block :=
  let b1 := (b.losingLanes before).foldl Block.laneLoses b
  let b2 := (b.losingEntries before).foldl Block.entryLoses b1
  let b3 := (allLanes.filter (fun l => b2.concerned before l)).foldl Block.ask b2
  (b3.regateAll before).startPass

/-! ## Changes of duty mode (R183 to R188) -/

/-- DUTY_CHANGED (R188). -/
def Block.dutyNotice (b : Block) (left : DutyMode) (cause : DutyCause) : Block :=
  b.raise (.dutyChanged b.duty.mode left cause b.duty.wake (secondsLeft b.clock b.duty.holdTimer))

/-- The part enters HELD by HOLD (R182, R184): the owners act, then the lane decisions are taken. `minutes` 0 leaves the timer stopped. -/
def Block.enterHeld (b : Block) (wake : WakeMode) (minutes : Nat) : Block :=
  let timer := if minutes = 0 then none else some (b.clock + minutes * 60000000)
  let b1 := b.updDuty (fun d => { d with mode := .held, wake := wake, holdTimer := timer })
  ((b1.permissionChange b.duty).settleWork).dutyNotice b.duty.mode .hold

/-- The part leaves HELD for a wake mode (R183, R185, R186). -/
def Block.leaveHeld (b : Block) (wake : WakeMode) (cause : DutyCause) : Block :=
  let b1 := b.updDuty (fun d => { d with mode := wake.mode, wake := wake, holdTimer := none })
  (allLanes.foldl Block.wakeLane (b1.permissionChange b.duty)).dutyNotice b.duty.mode cause

/-- SET DUTY to the other of FULL and SHARED (R187). -/
def Block.switchDuty (b : Block) (mode : DutyMode) : Block :=
  let b1 := b.updDuty (fun d => { d with mode := mode })
  (b1.permissionChange b.duty).dutyNotice b.duty.mode .setDuty

end Sys2Proof.Machine
end

