-- ==== Sys2Proof/Machine/Timers.lean ====
section
/-! DEFINITION. The meanings of the rows that no unit and no request causes: timers, the pacing gate, the end of a rewrite's sending and the roll-up. A timer that is
stopped cannot expire: its row then changes nothing (log entry 14). An expiry brings the clock to the timer's time (log entry 5). -/
namespace Sys2Proof.Machine

/-- The clock stands at a time or after it. -/
def Block.clockTo (b : Block) (t : Nat) : Block := { b with clock := max b.clock t }

/-- The bytes of the frame an entry holds in staging, cut into PAYLOAD bodies (R58, R155, R164). -/
def Block.rewriteBodies (b : Block) (k : EntryKey) : List (List Byte) :=
  match b.repair.find k with
  | some e =>
    let n := b.store.recordedLength k.slot k.frame
    payloadBodies (n / 65536 + 1) (unstageBytes (e.extents.getD []) b.staging 0 n)
  | none => []

/-- The lane has sent the last PAYLOAD of a rewrite and its END; the stall timer starts (R52, R58). -/
def Block.rewriteSent (l : Fin 8) (b : Block) : Block :=
  match (b.lane l).exchange, (b.lane l).owner with
  | .rewrite frame false, some (.entry k) =>
    let n := (b.lane l).sessionNumber
    let b1 := (b.rewriteBodies k).foldl (fun acc body => acc.send l (.payload n body)) b
    ((b1.send l (.endUnit n)).updLane l (fun ln => { ln with exchange := .rewrite frame true })).startStall l
  | _, _ => b

/-- The settle timer expires (R50). -/
def Block.settleExpires (l : Fin 8) (b : Block) : Block :=
  match (b.lane l).settleTimer with
  | none => b
  | some t =>
    let b1 := (b.clockTo t).updLane l (fun ln => { ln with settleTimer := none, settleExpired := true })
    if (b.lane l).helloTaken then b1.settled l else b1.startStall l

/-- The stall timer expires (R52, R53). -/
def Block.stallExpires (l : Fin 8) (b : Block) : Block :=
  match (b.lane l).stallTimer with
  | none => b
  | some t => (b.clockTo t).stallEvent l

/-- A slot's freshness timer expires (R88). -/
def Block.freshnessExpires (k : Fin 16) (b : Block) : Block :=
  match (b.capture[k]).timer with
  | none => b
  | some t =>
    { b.clockTo t with capture := b.capture.set k.val { b.capture[k] with seen := false, timer := none } k.isLt }

/-- The hold timer expires in HELD (R185). -/
def Block.holdExpires (b : Block) : Block :=
  match b.duty.holdTimer with
  | none => b
  | some t => (b.clockTo t).leaveHeld b.duty.wake .expiry

/-- A lane's pacing gate opens (R190). -/
def Block.gateOpens (l : Fin 8) (b : Block) : Block :=
  match (b.lane l).gate with
  | none => b
  | some t => (b.clockTo t).ask l

/-- A manifest whose roll-up is computed (R13). -/
def Manifest.settle (m : Manifest) : Manifest :=
  { m with computed := some m.rollup, state := if m.expected = some m.rollup then .ready else .discordant }

/-- The roll-up in the unit completes (R13). -/
def Block.rollupDone (b : Block) : Block :=
  match b.store.unit with
  | none => b
  | some k => match b.store.manifest k with
    | none => b
    | some m =>
      let st := ({ b.store.put k (some m.settle) with unit := none }).takeRollup
      ({ b with store := st }).raise (.manifestSettled k m.reel m.span m.settle.state m.rollup)

/-- REWRITE_END_SENT (R58). -/
def execRewriteEndSent (lane : Fin 8) (s : State) : Host.Outcome State Fault Refusal := s.event (Block.rewriteSent lane)

/-- SETTLE_WAIT_EXPIRED (R50). -/
def execSettleWaitExpired (lane : Fin 8) (s : State) : Host.Outcome State Fault Refusal := s.event (Block.settleExpires lane)

/-- STALL_TIMER_EXPIRED (R52, R53, R54, R62). -/
def execStallTimerExpired (lane : Fin 8) (s : State) : Host.Outcome State Fault Refusal := s.event (Block.stallExpires lane)

/-- FRESHNESS_TIMER_EXPIRED (R88). -/
def execFreshnessTimerExpired (slot : Fin 16) (s : State) : Host.Outcome State Fault Refusal := s.event (Block.freshnessExpires slot)

/-- HOLD_TIMER_EXPIRED (R185). -/
def execHoldTimerExpired (s : State) : Host.Outcome State Fault Refusal := s.event Block.holdExpires

/-- PACING_GATE_OPENS (R190). -/
def execPacingGateOpens (lane : Fin 8) (s : State) : Host.Outcome State Fault Refusal := s.event (Block.gateOpens lane)

/-- ROLLUP_COMPLETES (R13). -/
def execRollupCompletes (s : State) : Host.Outcome State Fault Refusal := s.event Block.rollupDone

end Sys2Proof.Machine
end

