-- ==== Sys2Proof/Machine/ManifestRequests.lean ====
section
/-! DEFINITION. The meanings of the requests of the Fixity Store (R5 to R10, R14, R15, R17 to R19), with the bodies of R210 and R215. -/
namespace Sys2Proof.Machine

/-- A request row as a machine step: it leaves the command queue alone and always ends in a next state. -/
def State.request (s : State) (kind tag : Byte) (body : List Byte) (owner : Block → Block × Reply) :
    Host.Outcome State Fault Refusal :=
  .next { s with blk := s.blk.requestStep { kind := kind, tag := tag, body := body } owner }

/-- A DONE reply. -/
def Block.done (b : Block) (results : List Byte) : Block × Reply := (b, .done results)

/-- The slot and the manifest a request of chapter 01 names: RANGE for a slot outside 0 to 15, ABSENT for an EMPTY one (R5). -/
def Block.onManifest (b : Block) (slot : Nat) (f : Fin 16 → Manifest → Block × Reply) : Block × Reply :=
  match slotOf slot with
  | none => b.refuse .range
  | some k => match b.store.manifest k with
    | none => b.refuse .absent
    | some m => f k m

/-! ## OPEN MANIFEST (R6) -/

/-- The manifest an OPEN MANIFEST makes (R3, R6). -/
def Manifest.opened (body : List Byte) : Manifest :=
  { state := .loading, reel := BitVec.ofNat 64 (fieldAt body 1 8), span := BitVec.ofNat 32 (fieldAt body 9 4),
    first := fieldAt body 13 4, count := fieldAt body 17 2, records := List.replicate (fieldAt body 17 2) {} }

/-- The frame count is 1 to 4,096 and the last frame number no more than 4,294,967,295 (R6). -/
def openInRange (first count : Nat) : Bool := decide (1 ≤ count) && decide (count ≤ 4096) && decide (first + count - 1 ≤ 4294967295)

/-- OPEN MANIFEST at its owner (R5, R6). -/
def Block.openManifest (body : List Byte) (b : Block) : Block × Reply :=
  match slotOf (fieldAt body 0 1) with
  | none => b.refuse .range
  | some k =>
    if (b.store.manifest k).isSome then b.refuse .state
    else if !openInRange (fieldAt body 13 4) (fieldAt body 17 2) then b.refuse .range
    else if b.store.free < fieldAt body 17 2 then b.refuse .room
    else
      let st := { b.store.put k (some (Manifest.opened body)) with free := b.store.free - fieldAt body 17 2 }
      ({ b with store := st }).done (beBytes 2 st.free)

/-- OPEN_MANIFEST (R6). -/
def execOpenManifest (tag : Byte) (body : List Byte) (s : State) : Host.Outcome State Fault Refusal :=
  s.request 0x01 tag body (Block.openManifest body)

/-! ## LOAD RECORDS (R7, R8, R9) -/

/-- The length and digest of pair `i` of a LOAD RECORDS body (R210). -/
def loadPair (body : List Byte) (i : Nat) : Nat × Word64 :=
  (fieldAt body (4 + 12 * i) 4, BitVec.ofNat 64 (fieldAt body (8 + 12 * i) 8))

/-- The pairs of a LOAD RECORDS body, in the order given. -/
def loadPairs (body : List Byte) : List (Nat × Word64) := (List.range (fieldAt body 3 1)).map (loadPair body)

/-- A record is written (R7): its visiting and queued marks stay. -/
def FrameRecord.load (p : Nat × Word64) (r : FrameRecord) : FrameRecord :=
  { r with length := some p.1, digest := p.2, state := .unvisited, last := none, detail := none }

/-- Records are written from an index on (R7). -/
def loadFrom (records : List FrameRecord) : Nat → List (Nat × Word64) → List FrameRecord
  | _, [] => records
  | i, p :: ps => loadFrom (records.modify i (FrameRecord.load p)) (i + 1) ps

/-- The manifest after the batch, as its state stands: LOADING keeps its fields, the others reopen (R7, R8, R9). -/
def Manifest.loadBatch (m : Manifest) (start : Nat) (pairs : List (Nat × Word64)) : Manifest :=
  let m1 := match m.state with
    | .loading => m
    | .closing => { m with state := .loading, expected := none }
    | .ready => { m with state := .loading, expected := none, computed := none, trailerDisagrees := false }
    | .discordant => { m with state := .loading, expected := none, computed := none, trailerDisagrees := false }
  { m1 with records := loadFrom m1.records start pairs }

/-- The fields of a batch are in range (R7). -/
def Manifest.batchInRange (m : Manifest) (start : Nat) (pairs : List (Nat × Word64)) : Bool :=
  decide (1 ≤ pairs.length) && decide (pairs.length ≤ 32) && decide (start + pairs.length ≤ m.count) &&
    pairs.all (fun p => decide (1 ≤ p.1) && decide (p.1 ≤ maxFrameBytes))

/-- LOAD RECORDS is refused PINNED (R8): READY or DISCORDANT with a pin. -/
def Manifest.loadPinned (m : Manifest) : Bool :=
  match m.state with
  | .ready => decide (0 < m.pins)
  | .discordant => decide (0 < m.pins)
  | .loading => false
  | .closing => false

/-- LOAD RECORDS at its owner (R5, R7, R8, R9). -/
def Block.loadRecords (body : List Byte) (b : Block) : Block × Reply :=
  b.onManifest (fieldAt body 0 1) (fun k m =>
    if m.loadPinned then b.refuse .pinned
    else if !m.batchInRange (fieldAt body 1 2) (loadPairs body) then b.refuse .range
    else
      let st := if m.state = .closing then b.store.cancelRollup k else b.store
      let m1 := m.loadBatch (fieldAt body 1 2) (loadPairs body)
      ({ b with store := st.put k (some m1) }).done (beBytes 2 m1.loaded))

/-- LOAD_RECORDS (R7). -/
def execLoadRecords (tag : Byte) (body : List Byte) (s : State) : Host.Outcome State Fault Refusal :=
  s.request 0x02 tag body (Block.loadRecords body)

/-! ## COMPLETE MANIFEST (R10, R12) -/

/-- COMPLETE MANIFEST at its owner (R10): the manifest joins the roll-up FIFO, and an idle unit takes its head (R12). -/
def Block.completeManifest (body : List Byte) (b : Block) : Block × Reply :=
  b.onManifest (fieldAt body 0 1) (fun k m =>
    if m.state = .loading ∧ m.loaded = m.count then
      let m1 := { m with state := .closing, expected := some (BitVec.ofNat 64 (fieldAt body 1 8)) }
      let st := { b.store.put k (some m1) with fifo := b.store.fifo ++ [k] }
      ({ b with store := st.takeRollup }).done []
    else b.refuse .state)

/-- COMPLETE_MANIFEST (R10). -/
def execCompleteManifest (tag : Byte) (body : List Byte) (s : State) : Host.Outcome State Fault Refusal :=
  s.request 0x03 tag body (Block.completeManifest body)

/-! ## ERASE MANIFEST (R17) -/

/-- ERASE MANIFEST at its owner (R17). -/
def Block.eraseManifest (body : List Byte) (b : Block) : Block × Reply :=
  b.onManifest (fieldAt body 0 1) (fun k m =>
    if 0 < m.pins then b.refuse .pinned
    else
      let st := if m.state = .closing then b.store.cancelRollup k else b.store
      let st1 := { st.put k none with free := st.free + m.count }
      ({ b with store := st1 }).done (beBytes 2 st1.free))

/-- ERASE_MANIFEST (R17). -/
def execEraseManifest (tag : Byte) (body : List Byte) (s : State) : Host.Outcome State Fault Refusal :=
  s.request 0x04 tag body (Block.eraseManifest body)

/-! ## BIND COPIES (R15) -/

/-- A lane 0 to 7, or NONE sent as 0xFF (R210). The outer option is absent for any other value. -/
def bindLane (n : Nat) : Option (Option (Fin 8)) := if n = 0xFF then some none else (laneOf n).map some

/-- BIND COPIES at its owner (R15). -/
def Block.bindCopies (body : List Byte) (b : Block) : Block × Reply :=
  b.onManifest (fieldAt body 0 1) (fun k m =>
    if 0 < m.suspectPins then b.refuse .pinned
    else match bindLane (fieldAt body 1 1), bindLane (fieldAt body 2 1) with
      | some a, some c =>
        if a ≠ none ∧ a = c then b.refuse .range
        else ({ b with store := b.store.put k (some { m with copyA := a, copyB := c }) }).done []
      | _, _ => b.refuse .range)

/-- BIND_COPIES (R15). -/
def execBindCopies (tag : Byte) (body : List Byte) (s : State) : Host.Outcome State Fault Refusal :=
  s.request 0x05 tag body (Block.bindCopies body)

/-! ## READ MANIFEST and READ RECORDS (R18, R19) -/

/-- How many of a manifest's records stand in a state. -/
def Manifest.inState (m : Manifest) (st : RecordState) : Nat := m.records.countP (fun r => r.state == st)

/-- The seven record states in R3's order. -/
def RecordState.all : List RecordState := [.unvisited, .sound, .suspect, .inRepair, .repaired, .sisterSound, .lost]

/-- The fields of a manifest as READ MANIFEST gives them (R18). -/
def Manifest.bytes (m : Manifest) (position : Nat) : List Byte :=
  beBytes 8 m.reel.toNat ++ beBytes 4 m.span.toNat ++ beBytes 4 m.first ++ beBytes 2 m.count ++ beBytes 2 m.loaded ++
    optBytes 8 (m.expected.map (fun d => beBytes 8 d.toNat)) ++ optBytes 8 (m.computed.map (fun d => beBytes 8 d.toNat)) ++
    [laneByte m.copyA, laneByte m.copyB, markByte m.trailerDisagrees, BitVec.ofNat 8 m.campaignPins, BitVec.ofNat 8 m.suspectPins] ++
    (RecordState.all.map (fun st => beBytes 2 (m.inState st))).flatten ++
    (if m.state = .closing then [BitVec.ofNat 8 position] else [])

/-- READ MANIFEST at its owner (R18). -/
def Block.readManifest (body : List Byte) (b : Block) : Block × Reply :=
  match slotOf (fieldAt body 0 1) with
  | none => b.refuse .range
  | some k => match b.store.manifest k with
    | none => b.done (beBytes 2 b.store.free ++ [0x00])
    | some m => b.done (beBytes 2 b.store.free ++ [m.state.code] ++ m.bytes (b.store.rollupPosition k))

/-- READ_MANIFEST (R18). -/
def execReadManifest (tag : Byte) (body : List Byte) (s : State) : Host.Outcome State Fault Refusal :=
  s.request 0x06 tag body (Block.readManifest body)

/-- The records READ RECORDS gives, each with its frame number. -/
def Manifest.recordItems (m : Manifest) (start count : Nat) : List (List Byte) :=
  ((m.records.drop start).take count).zipIdx.map (fun p => FrameRecord.bytes (m.first + start + p.2) p.1)

/-- READ RECORDS at its owner (R19). The records are a list of varying length, since as many are sent as fit (R215; PRESUMED, log entry 9). -/
def Block.readRecords (body : List Byte) (b : Block) : Block × Reply :=
  b.onManifest (fieldAt body 0 1) (fun _ m =>
    if 1 ≤ fieldAt body 3 1 ∧ fieldAt body 3 1 ≤ 32 ∧ fieldAt body 1 2 + fieldAt body 3 1 ≤ m.count then
      b.done (listResults [] (m.recordItems (fieldAt body 1 2) (fieldAt body 3 1)))
    else b.refuse .range)

/-- READ_RECORDS (R19). -/
def execReadRecords (tag : Byte) (body : List Byte) (s : State) : Host.Outcome State Fault Refusal :=
  s.request 0x07 tag body (Block.readRecords body)

end Sys2Proof.Machine
end

