-- ==== Sys2Proof/Machine/LaneRequests.lean ====
section
/-! DEFINITION. The meanings of the requests of the Lane Controllers and of the Annotation Capture (R49, R54, R65 to R67, R89, R90). -/
namespace Sys2Proof.Machine

/-- The lane a request names: RANGE outside 0 to 7. -/
def Block.onLane (b : Block) (lane : Nat) (f : Fin 8 → Block × Reply) : Block × Reply :=
  match laneOf lane with
  | none => b.refuse .range
  | some l => f l

/-! ## BRING UP, PUT DOWN and RESTART LANE (R49, R54, R66) -/

/-- BRING UP LANE at its owner (R49). -/
def Block.bringUpLane (body : List Byte) (b : Block) : Block × Reply :=
  b.onLane (fieldAt body 0 1) (fun l =>
    if (b.lane l).state = .off then
      ((b.updLane l (fun ln => { ln with restarts := 0, putDownByHold := false })).enterSettling l .hello .bringUp).done []
    else b.refuse .state)

/-- BRING_UP_LANE (R49). -/
def execBringUpLane (tag : Byte) (body : List Byte) (s : State) : Host.Outcome State Fault Refusal :=
  s.request 0x08 tag body (Block.bringUpLane body)

/-- PUT DOWN LANE at its owner (R66). -/
def Block.putDownLane (body : List Byte) (b : Block) : Block × Reply :=
  b.onLane (fieldAt body 0 1) (fun l =>
    if (b.lane l).exchange.isRewrite then b.refuse .busy
    else if (b.lane l).state = .off then (b.updLane l (fun ln => { ln with putDownByHold := false })).done []
    else (b.putDown l).done [])

/-- PUT_DOWN_LANE (R66). -/
def execPutDownLane (tag : Byte) (body : List Byte) (s : State) : Host.Outcome State Fault Refusal :=
  s.request 0x09 tag body (Block.putDownLane body)

/-- RESTART LANE at its owner (R54). -/
def Block.restartLane (body : List Byte) (b : Block) : Block × Reply :=
  b.onLane (fieldAt body 0 1) (fun l =>
    if (b.lane l).state = .stalled then
      ((b.updLane l (fun ln => { ln with restarts := 0 })).enterSettling l .restart .hostRestart).done []
    else b.refuse .state)

/-- RESTART_LANE (R54). -/
def execRestartLane (tag : Byte) (body : List Byte) (s : State) : Host.Outcome State Fault Refusal :=
  s.request 0x0A tag body (Block.restartLane body)

/-! ## SET LANE (R65) -/

/-- The six settings of a SET LANE body, when each is in range (R48, R65). -/
def parseSettings (body : List Byte) : Option LaneSettings :=
  match onOff (fieldAt body 4 1), onOff (fieldAt body 6 1) with
  | some auto, some keep =>
    if fieldAt body 1 2 ∈ [50, 200, 800, 3200] ∧ 1 ≤ fieldAt body 3 1 ∧ fieldAt body 3 1 ≤ 120 ∧ fieldAt body 5 1 ≤ 64 ∧
        1 ≤ fieldAt body 7 2 ∧ fieldAt body 7 2 ≤ 2048 then
      some { settleWait := fieldAt body 1 2, stallLimit := fieldAt body 3 1, autoRestart := auto,
             yieldAllowance := fieldAt body 5 1, keepAlive := keep, ceiling := fieldAt body 7 2 }
    else none
  | _, _ => none

/-- SET LANE at its owner (R65): the settings, the gate (R190), and the Duty Controller's decision on the lane (R182). -/
def Block.setLane (body : List Byte) (b : Block) : Block × Reply :=
  b.onLane (fieldAt body 0 1) (fun l =>
    match parseSettings body with
    | none => b.refuse .range
    | some st =>
      let b1 := b.updLane l (fun ln => { ln with settings := st })
      ((b1.regateIfChanged l (b.duty.effectiveCeiling l (b.lane l).settings.ceiling)).ask l).done [])

/-- SET_LANE (R65). -/
def execSetLane (tag : Byte) (body : List Byte) (s : State) : Host.Outcome State Fault Refusal :=
  s.request 0x0B tag body (Block.setLane body)

/-! ## READ LANE (R67) -/

/-- A resume target as its place in R47's list (R215). -/
def ResumeTarget.code : ResumeTarget → Byte
  | .ready => 0x00
  | .settle => 0x01

/-- A lane's six settings (R67). -/
def LaneSettings.bytes (st : LaneSettings) : List Byte :=
  beBytes 2 st.settleWait ++ [BitVec.ofNat 8 st.stallLimit, markByte st.autoRestart, BitVec.ofNat 8 st.yieldAllowance,
    markByte st.keepAlive] ++ beBytes 2 st.ceiling

/-- A reader's capabilities (R67). -/
def Caps.bytes (c : Caps) : List Byte := markByte c.rewritable :: beBytes 4 c.largest

/-- The values of a lane in R67's order (log entry 9). -/
def Block.laneBytes (b : Block) (l : Fin 8) : List Byte :=
  let ln := b.lane l
  [ln.state.code, ln.lastCause.code] ++
    (match ln.state, ln.resumeTarget with | .lent, some t => [t.code] | _, _ => []) ++
    ln.settings.bytes ++ optBytes 5 (ln.caps.map Caps.bytes) ++
    [BitVec.ofNat 8 ln.restarts] ++ beBytes 2 ln.stallEvents ++ beBytes 2 ln.yields ++
    (if ln.state = .settling then [markByte ln.helloTaken, markByte ln.settleExpired] else []) ++
    optBytes 16 (ln.session.map Session.bytes) ++
    optBytes 32 (ln.item.map (fun it => it.bytes ++ ln.exchange.bytes)) ++
    b.pool.claimBytes l ++ [markByte ln.putDownByHold]

/-- READ LANE at its owner (R67). -/
def Block.readLane (body : List Byte) (b : Block) : Block × Reply :=
  b.onLane (fieldAt body 0 1) (fun l => b.done (b.laneBytes l))

/-- READ_LANE (R67). -/
def execReadLane (tag : Byte) (body : List Byte) (s : State) : Host.Outcome State Fault Refusal :=
  s.request 0x0C tag body (Block.readLane body)

/-! ## SET CAPTURE and READ CAPTURE (R89, R90) -/

/-- A capture kind: UNSET sent as 0x00, or 0x10 to 0xFE (R89, R210). -/
def captureKind (n : Nat) : Option (Option Byte) :=
  if n = 0 then some none else if 0x10 ≤ n ∧ n ≤ 0xFE then some (some (BitVec.ofNat 8 n)) else none

/-- The slot a SET CAPTURE body programs, emptied (R89). -/
def parseCapture (body : List Byte) : Option CaptureSlot :=
  match bindLane (fieldAt body 1 1), captureKind (fieldAt body 2 1), onOff (fieldAt body 3 1), onOff (fieldAt body 5 1) with
  | some sel, some kind, some keep, some notify =>
    some { selector := sel, kind := kind, keepFaulty := keep, window := fieldAt body 4 1, notify := notify }
  | _, _, _, _ => none

/-- SET CAPTURE at its owner (R89). -/
def Block.setCapture (body : List Byte) (b : Block) : Block × Reply :=
  match slotOf (fieldAt body 0 1), parseCapture body with
  | some k, some c => ({ b with capture := b.capture.set k.val c k.isLt }).done []
  | _, _ => b.refuse .range

/-- SET_CAPTURE (R89). -/
def execSetCapture (tag : Byte) (body : List Byte) (s : State) : Host.Outcome State Fault Refusal :=
  s.request 0x0D tag body (Block.setCapture body)

/-- READ CAPTURE at its owner (R90). The slots are a list of varying length, since as many are sent as fit (R215; PRESUMED, log entry 9). -/
def Block.readCapture (body : List Byte) (b : Block) : Block × Reply :=
  if fieldAt body 0 1 ≤ 15 ∧ 1 ≤ fieldAt body 1 1 ∧ fieldAt body 1 1 ≤ 8 ∧ fieldAt body 0 1 + fieldAt body 1 1 ≤ 16 then
    b.done (listResults [] (((b.capture.toList.drop (fieldAt body 0 1)).take (fieldAt body 1 1)).map (CaptureSlot.bytes b.clock)))
  else b.refuse .range

/-- READ_CAPTURE (R90). -/
def execReadCapture (tag : Byte) (body : List Byte) (s : State) : Host.Outcome State Fault Refusal :=
  s.request 0x0E tag body (Block.readCapture body)

end Sys2Proof.Machine
end

