-- ==== Sys2Proof/Machine/CampaignRequests.lean ====
section
/-! DEFINITION. The meanings of the requests on campaigns (R94, R95, R117 to R120). -/
namespace Sys2Proof.Machine

/-! ## VERIFY (R94, R95) -/

/-- A profile choice: 0 to 3, or CURRENT sent as 0xFF (R210). -/
def profileChoice (n : Nat) : Option ProfileChoice :=
  if n = 0xFF then some .current else (profileOf n).map .numbered

/-- A disregard set names only LONG, STRAY, MISSING, ROLLUP and ANNOTATION (R94). -/
def disregardSet (n : Nat) : Option ClassSet :=
  if n < 512 ∧ BitVec.ofNat 9 n &&& ~~~ClassSet.disregardable = 0 then some (BitVec.ofNat 9 n) else none

/-- The campaign a VERIFY body asks for, when the fields R94 tests first are in range (R92). Its id is given at acceptance. -/
def parseVerify (body : List Byte) : Option Campaign :=
  match laneOf (fieldAt body 0 1), slotOf (fieldAt body 1 1), profileChoice (fieldAt body 11 1), disregardSet (fieldAt body 12 2) with
  | some l, some k, some p, some d =>
    if 1 ≤ fieldAt body 10 1 ∧ fieldAt body 10 1 ≤ 16 then
      some { id := 0, lane := l, slot := k, windowFirst := fieldAt body 2 4, windowLast := fieldAt body 6 4,
             step := fieldAt body 10 1, profile := p, disregard := d, resumePoint := some (fieldAt body 2 4) }
    else none
  | _, _, _, _ => none

/-- The window stands in order inside the manifest's span (R94). -/
def Campaign.windowInSpan (c : Campaign) (m : Manifest) : Bool :=
  decide (c.windowFirst ≤ c.windowLast) && decide (m.first ≤ c.windowFirst) && decide (c.windowLast < m.first + m.count)

/-- The windows of two campaigns on one manifest share a frame number (R94). -/
def Campaign.overlaps (c d : Campaign) : Bool :=
  d.state.active && d.slot == c.slot && decide (c.windowFirst ≤ d.windowLast) && decide (d.windowFirst ≤ c.windowLast)

/-- The id after one: 1 to 65,535 (R95). -/
def idAfter (n : Nat) : Nat := if n < 65535 then n + 1 else 1

/-- The counter's value, or the first free one after it (R95). The fuel is one more than the entries the table may hold. -/
def Scheduler.freeId (sc : Scheduler) : Nat → Nat → Nat
  | 0, n => n
  | fuel + 1, n => if (sc.find n).isSome then sc.freeId fuel (idAfter n) else n

/-- A VERIFY is accepted (R16, R95): the entry, the id, the pin, and the arbiter when it is the head. -/
def Block.acceptCampaign (b : Block) (c : Campaign) : Block × Reply :=
  let id := b.sched.freeId 25 b.sched.nextId
  let b1 := { b with sched := { table := b.sched.table ++ [{ c with id := id }], nextId := idAfter id } }
  let place := placeOf (fun d => d.id == id) (b1.sched.queue c.lane)
  let b2 := b1.updStore (fun st => st.pinCampaign c.slot)
  (if place = 1 then b2.ask c.lane else b2).done (beBytes 2 id ++ beBytes 1 place)

/-- VERIFY at its owner, its refusals in R94's order. -/
def Block.verify (body : List Byte) (b : Block) : Block × Reply :=
  match parseVerify body with
  | none => b.refuse .range
  | some c => match b.store.manifest c.slot with
    | none => b.refuse .absent
    | some m =>
      if m.state ≠ .ready then b.refuse .state
      else if !c.windowInSpan m then b.refuse .range
      else if b.sched.table.any (fun d => c.overlaps d) then b.refuse .overlap
      else if 24 ≤ b.sched.table.length then b.refuse .room
      else b.acceptCampaign c

/-- VERIFY (R94). -/
def execVerify (tag : Byte) (body : List Byte) (s : State) : Host.Outcome State Fault Refusal :=
  s.request 0x10 tag body (Block.verify body)

/-! ## RESUME, ABANDON and DISMISS CAMPAIGN (R117, R118, R119) -/

/-- The campaign a request names: ABSENT when no entry holds the id. -/
def Block.onCampaign (b : Block) (id : Nat) (f : Campaign → Block × Reply) : Block × Reply :=
  match b.campaign id with
  | none => b.refuse .absent
  | some c => f c

/-- The release of an IDENTITY halt sets the identity waiver (R117). -/
def Campaign.earnsWaiver (c : Campaign) : Bool :=
  c.heldCause == some .finding && (match c.haltCode with | some h => h.cls == .identity | none => false)

/-- A HELD campaign is released by the host (R117). -/
def Block.resumeHeld (b : Block) (c : Campaign) : Block × Reply :=
  if c.trailerChecked then (b.closeCampaign c.id .done none .resumed).done [CampaignState.done.code]
  else
    let b1 := b.updCampaign c.id (fun x => { x with waiver := x.waiver || c.earnsWaiver })
    (b1.releaseCampaign c.id .resumed).done [CampaignState.waiting.code]

/-- RESUME CAMPAIGN at its owner (R117). -/
def Block.resumeCampaign (body : List Byte) (b : Block) : Block × Reply :=
  b.onCampaign (fieldAt body 0 2) (fun c =>
    if c.state ≠ .held then b.refuse .state
    else if c.heldCause = some .logFull then b.refuse .busy
    else b.resumeHeld c)

/-- RESUME_CAMPAIGN (R117). -/
def execResumeCampaign (tag : Byte) (body : List Byte) (s : State) : Host.Outcome State Fault Refusal :=
  s.request 0x11 tag body (Block.resumeCampaign body)

/-- ABANDON CAMPAIGN at its owner (R118). -/
def Block.abandonCampaign (body : List Byte) (b : Block) : Block × Reply :=
  b.onCampaign (fieldAt body 0 2) (fun c =>
    if c.state.active then
      ((b.campaignEndsSession c).closeCampaign c.id .ended (some .abandoned) .abandoned).done []
    else b.refuse .state)

/-- ABANDON_CAMPAIGN (R118). -/
def execAbandonCampaign (tag : Byte) (body : List Byte) (s : State) : Host.Outcome State Fault Refusal :=
  s.request 0x12 tag body (Block.abandonCampaign body)

/-- The entry with an id leaves the table (R119). -/
def Scheduler.drop (sc : Scheduler) (id : Nat) : Scheduler := { sc with table := sc.table.filter (fun c => c.id != id) }

/-- DISMISS CAMPAIGN at its owner (R119). -/
def Block.dismissCampaign (body : List Byte) (b : Block) : Block × Reply :=
  b.onCampaign (fieldAt body 0 2) (fun c =>
    if c.pendingFinding then b.refuse .busy
    else if c.state.active then b.refuse .state
    else ({ b with sched := b.sched.drop c.id }).done [])

/-- DISMISS_CAMPAIGN (R119). -/
def execDismissCampaign (tag : Byte) (body : List Byte) (s : State) : Host.Outcome State Fault Refusal :=
  s.request 0x13 tag body (Block.dismissCampaign body)

/-! ## READ CAMPAIGN (R120) -/

/-- An entry as READ CAMPAIGN with id 0 lists it (R120). -/
def Campaign.listBytes (c : Campaign) : List Byte :=
  beBytes 2 c.id ++ [BitVec.ofNat 8 c.lane.val, BitVec.ofNat 8 c.slot.val, c.state.code]

/-- The exchange in flight for a campaign: its lane's, when the lane's item is the campaign's (R120). R120's "or none" is the idle
exchange, sent as READ LANE sends it: exchange code NONE (0x00), its fields absent, and no presence byte before it (PRESUMED, log
entry 9). -/
def Block.exchangeFor (b : Block) (c : Campaign) : Exchange :=
  match (b.lane c.lane).item with
  | some it => if it.owner = .campaign c.id then (b.lane c.lane).exchange else .idle
  | none => .idle

/-- The fields of R92 in its order, then what R120 adds; an exchange that is none is sent as exchange code NONE, with no presence
byte before it (PRESUMED, log entry 9). -/
def Block.campaignBytes (b : Block) (c : Campaign) : List Byte :=
  beBytes 2 c.id ++ [BitVec.ofNat 8 c.lane.val, BitVec.ofNat 8 c.slot.val] ++ beBytes 4 c.windowFirst ++ beBytes 4 c.windowLast ++
    [BitVec.ofNat 8 c.step, c.profile.byte] ++ classSetBytes c.disregard ++ [c.state.code] ++ resumeBytes c.resumePoint ++
    c.counts.bytes ++ [BitVec.ofNat 8 c.frameRestarts] ++ classSetBytes c.noted ++
    optBytes 3 (c.haltCode.map (fun h => BitVec.ofNat 8 h.cls.number :: classSetBytes h.recognised)) ++
    optBytes 1 (c.heldCause.map (fun h => [h.cause.code])) ++ optBytes 1 (c.endCause.map (fun e => [e.cause.code])) ++
    [markByte c.pendingFinding, markByte c.waiver, markByte c.trailerChecked,
     BitVec.ofNat 8 (placeOf (fun d => d.id == c.id) (b.sched.queue c.lane))] ++
    beBytes 2 c.stillToVisit ++ (b.exchangeFor c).bytes

/-- READ CAMPAIGN at its owner (R120). With id 0 the number of entries is the count byte of their list (PRESUMED, log entry 9). -/
def Block.readCampaign (body : List Byte) (b : Block) : Block × Reply :=
  if fieldAt body 0 2 = 0 then
    b.done (listResults [] (b.sched.table.map Campaign.listBytes))
  else b.onCampaign (fieldAt body 0 2) (fun c => b.done (b.campaignBytes c))

/-- READ_CAMPAIGN (R120). -/
def execReadCampaign (tag : Byte) (body : List Byte) (s : State) : Host.Outcome State Fault Refusal :=
  s.request 0x14 tag body (Block.readCampaign body)

end Sys2Proof.Machine
end

