-- ==== Sys2Proof/Machine/FindingRequests.lean ====
section
/-! DEFINITION. The meanings of the requests of the Finding Recorder (R116, R136, R137, R142, R144 to R146, R152). -/
namespace Sys2Proof.Machine

/-! ## READ FINDINGS (R144, R212) -/

/-- The findings READ FINDINGS gives: those from a number on, oldest first, up to a count (R144). -/
def Recorder.findingsFrom (r : Recorder) (start count : Nat) : List Finding :=
  (r.log.filter (fun f => decide (start ≤ f.sequence.getD 0))).take count

/-- The sequence of a finding of the log, or 0 when there is none (R212). -/
def sequenceOf (f : Option Finding) : Nat :=
  match f with
  | some f => f.sequence.getD 0
  | none => 0

/-- The summary of the log: 20 bytes (R212). -/
def Recorder.summary (r : Recorder) (returned : Nat) : List Byte :=
  beBytes 2 r.log.length ++ beBytes 4 (sequenceOf r.log.head?) ++ beBytes 4 (sequenceOf r.log.getLast?) ++
    beBytes 4 r.highestAcknowledged ++ [BitVec.ofNat 8 r.pending.length] ++ beField 4 r.nextSequence ++ [BitVec.ofNat 8 returned]

/-- READ FINDINGS at its owner (R144). -/
def Block.readFindings (body : List Byte) (b : Block) : Block × Reply :=
  if 1 ≤ fieldAt body 4 1 ∧ fieldAt body 4 1 ≤ 16 then
    let found := b.recorder.findingsFrom (fieldAt body 0 4) (fieldAt body 4 1)
    b.done (b.recorder.summary found.length ++ (found.map Finding.bytes).flatten)
  else b.refuse .range

/-- READ_FINDINGS (R144). -/
def execReadFindings (tag : Byte) (body : List Byte) (s : State) : Host.Outcome State Fault Refusal :=
  s.request 0x18 tag body (Block.readFindings body)

/-! ## ACKNOWLEDGE (R116, R142, R143, R152) -/

/-- A sequence is given to an entry: the one that the finding's own request created takes it, if it has none; any other entry for the frame leaves it
dropped (R142, R152; log entry 30). -/
def Entry.giveSequence (n : Nat) (e : Entry) : Entry :=
  if e.awaits = some n then { e with sequence := some (e.sequence.getD n), awaits := none } else e

/-- The Repair Engine is given a pending finding's sequence for the slot and frame of its event (R142, R152). -/
def Block.giveSequence (b : Block) (f : Finding) (n : Nat) : Block :=
  match f.frame with
  | some frame => b.updEntry { slot := f.slot, frame := frame } (Entry.giveSequence n)
  | none => b

/-- A campaign HELD with cause LOG_FULL is released when its pending finding is logged (R116); any other stays as it is. -/
def Block.releaseLogged (b : Block) (id : Nat) (halted : Bool) : Block :=
  match b.campaign id with
  | none => b
  | some c =>
    if c.state = .held ∧ c.heldCause = some .logFull then
      if halted then (b.updCampaign id (fun x => { x with heldCause := some .finding })).campaignNotice id .logged
      else if c.trailerChecked then b.closeCampaign id .done none .logged
      else b.releaseCampaign id .logged
    else b

/-- The pending finding at the head of the FIFO is logged (R142). -/
def Block.logPending (b : Block) (p : PendingFinding) (rest : List PendingFinding) : Block :=
  let n := b.recorder.nextSequence
  let b1 := { b with recorder := ({ b.recorder with pending := rest }).append p.finding }
  let b2 := if p.enqueued then b1.giveSequence p.finding n else b1
  (b2.updCampaign p.finding.campaign (fun c => { c with pendingFinding := false })).releaseLogged p.finding.campaign p.finding.halted

/-- Pending findings are logged for as long as there is one, room and a sequence number (R142). The fuel is the number pending. -/
def Block.drainPending : Nat → Block → Block
  | 0, b => b
  | n + 1, b =>
    match b.recorder.pending with
    | [] => b
    | p :: rest => if b.recorder.canAppend then Block.drainPending n (b.logPending p rest) else b

/-- ACKNOWLEDGE at its owner (R142): the marks, the draining, one LOG_ADVANCED when findings were logged (R143). -/
def Block.acknowledge (body : List Byte) (b : Block) : Block × Reply :=
  let n := fieldAt body 0 4
  if n = 0 ∨ b.recorder.lastSequence < n then b.refuse .range
  else
    let b1 := { b with recorder := b.recorder.mark n }
    let b2 := b1.drainPending b.recorder.pending.length
    let logged := b.recorder.pending.length - b2.recorder.pending.length
    let b3 := if logged = 0 then b2 else b2.raise (.logAdvanced b2.recorder.lastSequence)
    b3.done (beBytes 2 (b.recorder.newlyMarked n) ++ beBytes 1 logged ++ beBytes 1 b2.recorder.pending.length ++
      beBytes 4 b2.recorder.lastSequence)

/-- ACKNOWLEDGE (R142). -/
def execAcknowledge (tag : Byte) (body : List Byte) (s : State) : Host.Outcome State Fault Refusal :=
  s.request 0x19 tag body (Block.acknowledge body)

/-! ## SET PROFILE and SELECT PROFILE (R136, R137) -/

/-- The class set of the first bytes of a list that are HALT, class 0 first (R210); absent when a byte is neither NOTE nor HALT. -/
def haltSet : List Byte → Nat → Option ClassSet
  | [], _ => some 0
  | d :: ds, n =>
    match onOff d.toNat, haltSet ds (n + 1) with
    | some halt, some s => some (if halt then s ||| BitVec.twoPow 9 n else s)
    | _, _ => none

/-- The profile a SET PROFILE body gives (R136): nine dispositions, then the enqueue and rewrite options. -/
def parseProfile (body : List Byte) : Option Profile :=
  match haltSet (sliceAt body 1 9) 0, onOff (fieldAt body 10 1), onOff (fieldAt body 11 1) with
  | some halts, some enqueue, some rewrite => some { halts := halts, enqueue := enqueue, rewrite := rewrite }
  | _, _, _ => none

/-- SET PROFILE at its owner (R136). -/
def Block.setProfile (body : List Byte) (b : Block) : Block × Reply :=
  match profileOf (fieldAt body 0 1), parseProfile body with
  | some p, some pr => ({ b with recorder := { b.recorder with profiles := b.recorder.profiles.set p.val pr p.isLt } }).done []
  | _, _ => b.refuse .range

/-- SET_PROFILE (R136). -/
def execSetProfile (tag : Byte) (body : List Byte) (s : State) : Host.Outcome State Fault Refusal :=
  s.request 0x1A tag body (Block.setProfile body)

/-- SELECT PROFILE at its owner (R137). -/
def Block.selectProfile (body : List Byte) (b : Block) : Block × Reply :=
  match profileOf (fieldAt body 0 1) with
  | none => b.refuse .range
  | some p => ({ b with recorder := { b.recorder with defaultProfile := p } }).done [BitVec.ofNat 8 b.recorder.defaultProfile.val]

/-- SELECT_PROFILE (R137). -/
def execSelectProfile (tag : Byte) (body : List Byte) (s : State) : Host.Outcome State Fault Refusal :=
  s.request 0x1B tag body (Block.selectProfile body)

/-! ## READ FLAGS and CLEAR FLAGS (R145, R146) -/

/-- A profile as READ FLAGS gives it (R145). -/
def Profile.bytes (p : Profile) : List Byte :=
  FindingClass.all.map (fun c => markByte (ClassSet.has p.halts c)) ++ [markByte p.enqueue, markByte p.rewrite]

/-- READ FLAGS at its owner (R145). The nine flags are one class set of two bytes (PRESUMED, log entry 9). -/
def Block.readFlags (b : Block) : Block × Reply :=
  b.done (classSetBytes b.recorder.flags ++ [BitVec.ofNat 8 b.recorder.defaultProfile.val] ++
    (b.recorder.profiles.toList.map Profile.bytes).flatten)

/-- READ_FLAGS (R145). -/
def execReadFlags (tag : Byte) (body : List Byte) (s : State) : Host.Outcome State Fault Refusal :=
  s.request 0x1C tag body Block.readFlags

/-- CLEAR FLAGS at its owner (R146). The flags of the reply are one class set of two bytes (PRESUMED, log entry 9). -/
def Block.clearFlags (body : List Byte) (b : Block) : Block × Reply :=
  if fieldAt body 0 2 < 512 then
    ({ b with recorder := { b.recorder with flags := b.recorder.flags &&& ~~~(BitVec.ofNat 9 (fieldAt body 0 2)) } }).done
      (classSetBytes b.recorder.flags)
  else b.refuse .range

/-- CLEAR_FLAGS (R146). -/
def execClearFlags (tag : Byte) (body : List Byte) (s : State) : Host.Outcome State Fault Refusal :=
  s.request 0x1D tag body (Block.clearFlags body)

end Sys2Proof.Machine
end

