-- ==== Sys2Proof/Machine/RepairRequests.lean ====
section
/-! DEFINITION. The meanings of the requests of the Repair Engine (R153, R172, R175, R176). -/
namespace Sys2Proof.Machine

/-! ## ENQUEUE SUSPECTS (R153) -/

/-- One record of the walk (R153): a SUSPECT record with its queued mark clear is queued while the list has room. -/
def Block.enqueueHost (k : Fin 16) (damaged source : Fin 8) (allowed : Bool) (b : Block) (frame : Nat) : Block :=
  if b.repair.list.length < 128 ∧ b.store.queueGranted k frame then
    b.appendEntry { slot := k, frame := frame } none none none damaged source allowed
  else b

/-- The walk over the manifest's records in index order (R153). -/
def Block.enqueueWalk (b : Block) (k : Fin 16) (m : Manifest) (damaged source : Fin 8) (allowed : Bool) : Block :=
  ((List.range m.count).map (fun i => m.first + i)).foldl (Block.enqueueHost k damaged source allowed) b

/-- Records of a slot's manifest left SUSPECT and unqueued (R153). -/
def Store.unqueuedSuspects (st : Store) (k : Fin 16) : Nat :=
  match st.manifest k with
  | some m => m.records.countP (fun r => r.state == .suspect && !r.queued)
  | none => 0

/-- ENQUEUE SUSPECTS at its owner, its refusals in R153's order. -/
def Block.enqueueSuspects (body : List Byte) (b : Block) : Block × Reply :=
  match slotOf (fieldAt body 0 1), laneOf (fieldAt body 1 1), onOff (fieldAt body 2 1) with
  | some k, some damaged, some allowed => match b.store.manifest k with
    | none => b.refuse .absent
    | some m =>
      if m.state ≠ .ready then b.refuse .state
      else match m.otherCopy damaged with
        | none => b.refuse .state
        | some source =>
          if 128 ≤ b.repair.list.length then b.refuse .room
          else
            let b1 := b.enqueueWalk k m damaged source allowed
            b1.startPass.done (beBytes 1 (b1.repair.list.length - b.repair.list.length) ++ beBytes 2 (b1.store.unqueuedSuspects k))
  | _, _, _ => b.refuse .range

/-- ENQUEUE_SUSPECTS (R153). -/
def execEnqueueSuspects (tag : Byte) (body : List Byte) (s : State) : Host.Outcome State Fault Refusal :=
  s.request 0x20 tag body (Block.enqueueSuspects body)

/-! ## WITHDRAW SUSPECT (R172) -/

/-- An entry in FETCHING or STAGED leaves the list: its extents and context are freed, the repair-return and unqueue claims are sent (R172). -/
def Block.withdrawStarted (b : Block) (k : EntryKey) : Block :=
  ((b.freeEntry k).updStore (fun st => st.repairReturn k.slot k.frame)).dropEntry k

/-- The step in hand of an entry is ended through its lane (R56). -/
def Block.endStep (b : Block) (e : Entry) : Block :=
  match e.stepLane with
  | some l => b.endOwner l
  | none => b

/-- An entry is withdrawn by its phase (R172); the start pass is made. -/
def Block.withdrawEntry (b : Block) (e : Entry) : Block × Reply :=
  match e.phase with
  | .waiting => (b.dropEntry e.key).startPass.done [e.phase.code]
  | .fetching => ((b.endStep e).withdrawStarted e.key).startPass.done [e.phase.code]
  | .staged => (b.withdrawStarted e.key).startPass.done [e.phase.code]
  | .rewriting => b.refuse .busy
  | .readback => b.refuse .busy

/-- WITHDRAW SUSPECT at its owner (R172). -/
def Block.withdrawSuspect (body : List Byte) (b : Block) : Block × Reply :=
  match slotOf (fieldAt body 0 1) with
  | none => b.refuse .range
  | some k => match b.repair.find { slot := k, frame := fieldAt body 1 4 } with
    | none => b.refuse .absent
    | some e => b.withdrawEntry e

/-- WITHDRAW_SUSPECT (R172). -/
def execWithdrawSuspect (tag : Byte) (body : List Byte) (s : State) : Host.Outcome State Fault Refusal :=
  s.request 0x21 tag body (Block.withdrawSuspect body)

/-! ## READ SUSPECTS (R176) -/

/-- Entries in a phase. -/
def RepairEngine.inPhase (r : RepairEngine) (p : RepairPhase) : Nat := r.list.countP (fun e => e.phase == p)

/-- The free contexts (R154). -/
def RepairEngine.freeContexts (r : RepairEngine) : List (Fin 4) :=
  allFour.filter (fun i => r.list.all (fun e => e.context != some i))

/-- The five phases in R149's order. -/
def RepairPhase.all : List RepairPhase := [.waiting, .fetching, .staged, .rewriting, .readback]

/-- The summary of the list (R176). -/
def RepairEngine.summary (r : RepairEngine) : List Byte :=
  [BitVec.ofNat 8 r.list.length] ++ RepairPhase.all.map (fun p => BitVec.ofNat 8 (r.inPhase p)) ++
    [BitVec.ofNat 8 r.freeContexts.length] ++ r.freeContexts.map (fun i => BitVec.ofNat 8 i.val) ++
    [BitVec.ofNat 8 r.freeExtents.length, markByte r.rewriteEnabled]

/-- A unit with the bytes it has passed to staging, the first recorded-length bytes of the frame, in place of the bytes received (R33, R176). -/
def DigestUnit.written (u : DigestUnit) : DigestUnit := { u with received := min u.received u.claim.recLength }

/-- An exchange in flight with at most n of its frame's bytes. -/
def Exchange.upTo (n : Nat) (x : Exchange) : Exchange :=
  match x with
  | .frame f => .frame { f with soFar := min f.soFar n }
  | .idle => x
  | .opening => x
  | .closing => x
  | .rewrite _ _ => x
  | .calibration _ _ => x

/-- The pool as READ SUSPECTS gives an entry's claim: a source fetch shows the bytes written into the extents (R176). -/
def Block.poolShown (b : Block) (e : Entry) (l : Fin 8) : Pool :=
  if e.phase = .fetching then b.pool.updHeld l DigestUnit.written else b.pool

/-- The exchange as READ SUSPECTS gives an entry's: a source fetch shows the bytes written into the extents (R176; DEDUCED, log entry 9). -/
def Block.exchangeShown (b : Block) (e : Entry) (l : Fin 8) : Exchange :=
  if e.phase = .fetching then (b.lane l).exchange.upTo (b.store.recordedLength e.key.slot e.key.frame) else (b.lane l).exchange

/-- An entry as READ SUSPECTS gives it, with its position (R176; log entry 9). -/
def Block.entryBytes (b : Block) (position : Nat) (e : Entry) : List Byte :=
  let extents := e.extents.getD []
  [BitVec.ofNat 8 position, BitVec.ofNat 8 e.key.slot.val] ++ beBytes 4 e.key.frame ++ [causeByte e.cause] ++
    beBytes 4 (e.sequence.getD 0) ++ [BitVec.ofNat 8 e.damaged.val, BitVec.ofNat 8 e.source.val, markByte e.rewriteAllowed,
      e.phase.code, BitVec.ofNat 8 e.sourceAttempts, BitVec.ofNat 8 e.rewriteAttempts, BitVec.ofNat 8 extents.length] ++
    extents.map (fun x => BitVec.ofNat 8 x) ++ optBytes 1 (e.context.map (fun i => [BitVec.ofNat 8 i.val])) ++
    [markByte e.interrupted] ++
    optBytes 23 (e.stepLane.map (fun l => BitVec.ofNat 8 l.val :: (b.exchangeShown e l).bytes)) ++
    [BitVec.ofNat 8 (b.entryNeed e)] ++ (match e.stepLane with | some l => (b.poolShown e l).claimBytes l | none => [])

/-- The entries from a position on, each with its position. -/
def Block.entryItems (b : Block) (first count : Nat) : List (List Byte) :=
  ((b.repair.list.drop (first - 1)).take count).zipIdx.map (fun p => b.entryBytes (first + p.2) p.1)

/-- READ SUSPECTS at its owner (R176). -/
def Block.readSuspects (body : List Byte) (b : Block) : Block × Reply :=
  if 1 ≤ fieldAt body 0 1 ∧ fieldAt body 0 1 ≤ 128 ∧ 1 ≤ fieldAt body 1 1 ∧ fieldAt body 1 1 ≤ 16 then
    b.done (listResults b.repair.summary (b.entryItems (fieldAt body 0 1) (fieldAt body 1 1)))
  else b.refuse .range

/-- READ_SUSPECTS (R176). -/
def execReadSuspects (tag : Byte) (body : List Byte) (s : State) : Host.Outcome State Fault Refusal :=
  s.request 0x22 tag body (Block.readSuspects body)

/-! ## SET REPAIR (R175) -/

/-- The rewrite test for every entry in STAGED, in list order (R163, R175). -/
def Block.testStaged (b : Block) : Block :=
  (b.repair.list.filter (fun e => e.phase == .staged)).foldl (fun acc e => acc.rewriteTest e.key) b

/-- SET REPAIR at its owner (R175). -/
def Block.setRepair (body : List Byte) (b : Block) : Block × Reply :=
  match onOff (fieldAt body 0 1) with
  | none => b.refuse .range
  | some on =>
    let b1 := b.updRepair (fun r => { r with rewriteEnabled := on })
    (if on then b1 else b1.testStaged).done [markByte b.repair.rewriteEnabled]

/-- SET_REPAIR (R175). -/
def execSetRepair (tag : Byte) (body : List Byte) (s : State) : Host.Outcome State Fault Refusal :=
  s.request 0x23 tag body (Block.setRepair body)

end Sys2Proof.Machine
end

