-- ==== Sys2Proof/Machine/DutyRequests.lean ====
section
/-! DEFINITION. The meanings of the requests of the Duty Controller (R184, R186, R187, R191, R192, R195). -/
namespace Sys2Proof.Machine

/-- A wake mode FULL or SHARED (R210). -/
def wakeModeOf (n : Nat) : Option WakeMode := if n = 1 then some .full else if n = 2 then some .shared else none

/-! ## SET DUTY, HOLD and WAKE (R184, R186, R187) -/

/-- SET DUTY at its owner (R187). -/
def Block.setDuty (body : List Byte) (b : Block) : Block × Reply :=
  match wakeModeOf (fieldAt body 0 1) with
  | none => b.refuse .range
  | some w => if b.duty.mode = w.mode then b.done [] else (b.switchDuty w.mode).done []

/-- SET_DUTY (R187). -/
def execSetDuty (tag : Byte) (body : List Byte) (s : State) : Host.Outcome State Fault Refusal :=
  s.request 0x28 tag body (Block.setDuty body)

/-- HOLD at its owner (R184). -/
def Block.hold (body : List Byte) (b : Block) : Block × Reply :=
  match wakeModeOf (fieldAt body 0 1) with
  | none => b.refuse .range
  | some w => if fieldAt body 1 2 ≤ 1440 then (b.enterHeld w (fieldAt body 1 2)).done [] else b.refuse .range

/-- HOLD (R184). -/
def execHold (tag : Byte) (body : List Byte) (s : State) : Host.Outcome State Fault Refusal :=
  s.request 0x29 tag body (Block.hold body)

/-- The wake mode a WAKE leads to: FULL, SHARED, or STORED sent as 0x00 (R186, R210). -/
def wakeTarget (stored : WakeMode) (n : Nat) : Option WakeMode := if n = 0 then some stored else wakeModeOf n

/-- WAKE at its owner (R186). -/
def Block.wake (body : List Byte) (b : Block) : Block × Reply :=
  match wakeTarget b.duty.wake (fieldAt body 0 1) with
  | none => b.refuse .range
  | some w => (b.leaveHeld w .wake).done [w.mode.code]

/-- WAKE (R186). -/
def execWake (tag : Byte) (body : List Byte) (s : State) : Host.Outcome State Fault Refusal :=
  s.request 0x2A tag body (Block.wake body)

/-! ## SET PACING (R191) -/

/-- The eight shared-eligible values of a SET PACING body, lane 0 first; absent when one is neither on nor off. -/
def parseEligible (body : List Byte) : Option (Vector Bool 8) :=
  match onOff (fieldAt body 1 1), onOff (fieldAt body 2 1), onOff (fieldAt body 3 1), onOff (fieldAt body 4 1),
    onOff (fieldAt body 5 1), onOff (fieldAt body 6 1), onOff (fieldAt body 7 1), onOff (fieldAt body 8 1) with
  | some a, some b, some c, some d, some e, some f, some g, some h => some #v[a, b, c, d, e, f, g, h]
  | _, _, _, _, _, _, _, _ => none

/-- SET PACING at its owner (R191). -/
def Block.setPacing (body : List Byte) (b : Block) : Block × Reply :=
  match parseEligible body, onOff (fieldAt body 9 1) with
  | some eligible, some repairs =>
    if 1 ≤ fieldAt body 0 1 ∧ fieldAt body 0 1 ≤ 8 then
      let b1 := b.updDuty (fun d => { d with share := fieldAt body 0 1, eligible := eligible, repairsInShared := repairs })
      (b1.permissionChange b.duty).done []
    else b.refuse .range
  | _, _ => b.refuse .range

/-- SET_PACING (R191). -/
def execSetPacing (tag : Byte) (body : List Byte) (s : State) : Host.Outcome State Fault Refusal :=
  s.request 0x2B tag body (Block.setPacing body)

/-! ## CALIBRATE LANE (R192) -/

/-- The bytes of a calibration run (R192). -/
def calibrationBytes : Nat := 268435456

/-- A calibration run starts (R55, R81, R192). -/
def Block.startCalibration (b : Block) (l : Fin 8) : Block :=
  let n := (b.lane l).nextSession
  let b1 := (b.openSession l .calibration none .duty).send l (.calibrate n calibrationBytes)
  let b2 := b1.updLane l (fun ln => { ln with
    state := .calibrating, item := some { kind := .calibrationRun, owner := .duty }, exchange := .calibration calibrationBytes 0 })
  let run : Calibration := { session := n, firstAt := none, bytes := 0 }
  (b2.updDuty (fun d => { d with calibration := d.calibration.set l.val (some run) l.isLt })).startStall l

/-- The lane's head campaign is in a state other than WAITING (R192). -/
def Block.headBusy (b : Block) (l : Fin 8) : Bool :=
  match b.sched.head l with
  | some c => c.state != .waiting
  | none => false

/-- CALIBRATE LANE at its owner (R192). -/
def Block.calibrateLane (body : List Byte) (b : Block) : Block × Reply :=
  b.onLane (fieldAt body 0 1) (fun l =>
    if (b.lane l).state ≠ .ready then b.refuse .state
    else if b.headBusy l then b.refuse .busy
    else (b.startCalibration l).done [])

/-- CALIBRATE_LANE (R192). -/
def execCalibrateLane (tag : Byte) (body : List Byte) (s : State) : Host.Outcome State Fault Refusal :=
  s.request 0x2C tag body (Block.calibrateLane body)

/-! ## READ DUTY (R195) -/

/-- A pacing gate: absent for OPEN, or the milliseconds until it opens, rounded up (R195). A lane whose first campaign frame exchange is in flight has no
opening time yet, and its gate is reported OPEN (DESIGN CHOICE, log entry 4). -/
def Block.gateBytes (b : Block) (l : Fin 8) : List Byte :=
  match (b.lane l).gate with
  | some t => optBytes 4 (if t ≤ b.clock then none else some (beField 4 ((t - b.clock + 999) / 1000)))
  | none => optBytes 4 none

/-- A pacing record: the FETCH time, the frame bytes, the end time, each time counted from the epoch (R189, R215). The last two of a record whose
first exchange has not ended are a free value (log entry 4). -/
def Pacing.bytes (epoch : Nat) (p : Pacing) : List Byte :=
  beField 8 (p.fetchAt - epoch) ++
    (match p.ended with
     | some (bytes, endAt) => beBytes 4 bytes ++ beField 8 (endAt - epoch)
     | none => beBytes 4 (Config.unendedPacing p.fetchAt).1 ++ beBytes 8 (Config.unendedPacing p.fetchAt).2)

/-- A calibration field: session number, first-PAYLOAD time or absent, bytes taken (R195). The time is sent as microseconds counted from the epoch, in 4
bytes (PRESUMED, log entry 9). -/
def Calibration.bytesOf (epoch : Nat) (c : Calibration) : List Byte :=
  [BitVec.ofNat 8 c.session] ++ optBytes 4 (c.firstAt.map (fun t => beField 4 (t - epoch))) ++ beBytes 4 c.bytes

/-- A last calibration: result, elapsed time, ceiling set, abort cause, each 0 where it does not apply (R195, R213). -/
def CalibrationEnd.bytes : CalibrationEnd → List Byte
  | .done t ceiling => [0x00] ++ beField 4 t ++ beBytes 2 ceiling ++ [0x00]
  | .aborted cause => [0x01] ++ beBytes 4 0 ++ beBytes 2 0 ++ [cause.code]

/-- A lane's part of READ DUTY (R195; log entry 9). -/
def Block.dutyLaneBytes (b : Block) (l : Fin 8) : List Byte :=
  let ln := b.lane l
  beBytes 2 ln.settings.ceiling ++ optBytes 2 ((b.duty.effectiveCeiling l ln.settings.ceiling).map (beBytes 2)) ++
    b.gateBytes l ++ optBytes 20 (ln.pacing.map (Pacing.bytes b.epoch)) ++
    [markByte (b.duty.mayRun l), markByte ln.putDownByHold] ++
    optBytes 10 ((b.duty.calibration[l]).map (Calibration.bytesOf b.epoch)) ++
    optBytes 8 ((b.duty.lastCalibration[l]).map CalibrationEnd.bytes)

/-- READ DUTY at its owner (R195). -/
def Block.readDuty (b : Block) : Block × Reply :=
  b.done ([b.duty.mode.code, b.duty.wake.code] ++ beBytes 4 (secondsLeft b.clock b.duty.holdTimer) ++
    [BitVec.ofNat 8 b.duty.share] ++ b.duty.eligible.toList.map markByte ++ [markByte b.duty.repairsInShared] ++
    (allLanes.map b.dutyLaneBytes).flatten)

/-- READ_DUTY (R195). -/
def execReadDuty (tag : Byte) (body : List Byte) (s : State) : Host.Outcome State Fault Refusal :=
  s.request 0x2D tag body Block.readDuty

end Sys2Proof.Machine
end

