-- ==== Sys2Proof/Machine/Link.lean ====
section
/-! DEFINITION. The meanings of the rows of the control link, of the resets and of RESTART ENGINE (R27, R42, R70, R91, R123, R148, R178, R196, R198, R201, R203, R206 to R208). -/
namespace Sys2Proof.Machine

/-! ## The control link (R198, R203) -/

/-- A step of the Control Port alone. -/
def Block.portStep (f : Port → Port) (b : Block) : Block := { b with port := f b.port }

/-- CONTROL_LINK_FRAME (R198): the bytes of a frame, or any others, arrive at the receiver. -/
def execControlLinkFrame (bytes : List Byte) (s : State) : Host.Outcome State Fault Refusal :=
  s.event (Block.portStep (fun p => p.receive bytes))

/-- FRAME_GAP_EXPIRED (R198). -/
def execFrameGapExpired (s : State) : Host.Outcome State Fault Refusal := s.event (Block.portStep Port.gapExpired)

/-- FRAME_SENT (R203). -/
def execFrameSent (s : State) : Host.Outcome State Fault Refusal := s.event (Block.portStep Port.frameSent)

/-- The kinds of R202 have rows of their own. -/
def isRequestKind (kind : Byte) : Bool := (requestLength kind []).isSome

/-- NOT_A_REQUEST_KIND (R200, R201): the port refuses the request KIND. A request kind has a row of its own and changes nothing here (log entry 14). -/
def execNotARequestKind (kind tag : Byte) (body : List Byte) (s : State) : Host.Outcome State Fault Refusal :=
  if isRequestKind kind then s.event id else s.request kind tag body (fun b => b.refuse .kind)

/-! ## Power-up and the reset line (R206) -/

/-- POWER_UP (R206): every block takes its power-up values and ENGINE_UP is queued. Power-up ends an assertion of the reset line (DESIGN CHOICE, log
entry 31). -/
def execPowerUp (s : State) : Host.Outcome State Fault Refusal := .next { s with blk := Block.started .powerUp }

/-- The reset line is asserted (R206): the requests held are discarded, and nothing is taken or sent until the release, which gives every block its values (log entry 16). -/
def Block.assertReset (b : Block) : Block :=
  { b with resetLine := true, port := { b.port with inbound := [], receiver := [] } }

/-- RESET_LINE_ASSERTED (R206). -/
def execResetLineAsserted (s : State) : Host.Outcome State Fault Refusal := .next { s with blk := s.blk.assertReset }

/-- RESET_LINE_RELEASED (R206). A line that is not asserted cannot be released (log entry 14). -/
def execResetLineReleased (s : State) : Host.Outcome State Fault Refusal :=
  .next { s with blk := if s.blk.resetLine then Block.started .resetLine else s.blk }

/-! ## RESTART ENGINE (R207) -/

/-- The outbound queue is emptied but for the frame being sent, the gap marker cleared, and the requests behind discarded (R207; log entry 6). -/
def Port.restarted (p : Port) : Port :=
  { p with outbound := p.outbound.take 1, gap := false, dropped := 0, inbound := p.inbound.take 1 }

/-- A lane at RESTART ENGINE, by its state (R70); its pacing record becomes absent (R189, R196). -/
def Block.restartLaneState (b : Block) (l : Fin 8) : Block :=
  let b1 := match (b.lane l).state with
    | .engaged => ((b.dropExchange l).haltSession l).updLane l (fun ln => { ln with state := .ready, item := none })
    | .calibrating => ((b.dropExchange l).haltSession l).updLane l (fun ln => { ln with state := .ready, item := none })
    | .yielding => ((b.dropExchange l).haltSession l).becomeLent l .ready
    | .ready => b.haltSession l
    | .off => b
    | .settling => b
    | .lent => b
    | .stalled => b
  b1.updLane l (fun ln => { ln with restarts := 0, pacing := none, gate := none })

/-- A kept record (R27). -/
def FrameRecord.restarted (r : FrameRecord) : FrameRecord :=
  { (if r.state = .inRepair then r.enter .suspect else r) with visiting := false }

/-- A slot at RESTART ENGINE (R27): LOADING and CLOSING manifests are erased; the suspect pins are recounted from the Suspect List. -/
def Manifest.restarted (suspects : Nat) (m : Manifest) : Option Manifest :=
  match m.state with
  | .loading => none
  | .closing => none
  | .ready => some { m with records := m.records.map FrameRecord.restarted, campaignPins := 0, suspectPins := suspects }
  | .discordant => some { m with records := m.records.map FrameRecord.restarted, campaignPins := 0, suspectPins := suspects }

/-- The frame count a slot returns to the pool (R2, R27). -/
def Manifest.returned (m : Manifest) : Nat :=
  match m.state with
  | .loading => m.count
  | .closing => m.count
  | .ready => 0
  | .discordant => 0

/-- One slot of the store at RESTART ENGINE (R27). -/
def Store.restartSlot (list : List Entry) (st : Store) (k : Fin 16) : Store :=
  match st.manifest k with
  | none => st
  | some m =>
    { st.put k (m.restarted (list.countP (fun e => e.key.slot == k))) with free := st.free + m.returned }

/-- The Fixity Store at RESTART ENGINE (R27). -/
def Store.restarted (st : Store) (list : List Entry) : Store :=
  allSlots.foldl (Store.restartSlot list) { st with unit := none, fifo := [] }

/-- An entry's rewrite exchange is in flight (R178). -/
def Block.rewriteInFlight (b : Block) (e : Entry) : Bool :=
  match e.stepLane with
  | some l => (b.lane l).exchange.isRewrite
  | none => false

/-- An entry at RESTART ENGINE (R178). A pending finding that is discarded never gives its entry a sequence (R152). -/
def Block.entryRestarted (b : Block) (e : Entry) : Entry :=
  { e with phase := .waiting, extents := none, context := none, stepLane := none, interrupted := e.interrupted || b.rewriteInFlight e, awaits := none }

/-- The Repair Engine at RESTART ENGINE (R178). -/
def Block.repairRestarted (b : Block) : RepairEngine :=
  { b.repair with list := b.repair.list.map b.entryRestarted, freeExtents := List.range 64 }

/-- A capture slot at RESTART ENGINE (R91): its programming is kept. -/
def CaptureSlot.restarted (c : CaptureSlot) : CaptureSlot :=
  { c with content := none, lastLane := none, seen := false, faulty := false, timer := none }

/-- A calibration run in hand is aborted (R196). -/
def Block.restartCalibration (b : Block) (l : Fin 8) : Block :=
  if (b.duty.calibration[l]).isSome then b.abortCalibration l .restart else b

/-- The wake mode RESTART ENGINE stores (R196). -/
def Duty.restartWake (d : Duty) : WakeMode :=
  match d.mode with
  | .full => .full
  | .shared => .shared
  | .held => d.wake

/-- A lane READY with no item and keep-alive off is put down by hold, without LANE_CHANGED (R196). -/
def Block.restartDecision (b : Block) (l : Fin 8) : Block :=
  if (b.lane l).state = .ready ∧ (b.lane l).item = none ∧ (b.lane l).settings.keepAlive = false then b.putDownByHold l true else b

/-- ENGINE_UP with the values that stand (R208). -/
def Block.engineUp (b : Block) (cause : EngineCause) : Notice :=
  .engineUp cause b.recorder.lastSequence (b.store.slots.toList.countP Option.isSome) b.repair.list.length b.sched.nextId b.duty.wake

/-- The restart of what belongs to no lane and not to the duty mode: the port, the Repair Engine, the digest units, the store, the campaigns, the pending
findings and the capture slots (R207). -/
def Block.partsRestarted (b : Block) : Block :=
  { b with
    port := b.port.restarted
    repair := b.repairRestarted
    pool := Pool.reset
    store := b.store.restarted b.repair.list
    sched := { table := [], nextId := b.sched.nextId }
    recorder := { b.recorder with pending := [] }
    capture := b.capture.map CaptureSlot.restarted }

/-- The restart of the lanes, then of the calibration runs (R70, R196). -/
def Block.lanesRestarted (b : Block) : Block :=
  allLanes.foldl Block.restartCalibration (allLanes.foldl Block.restartLaneState b)

/-- The mode is HELD with the wake mode given, and the engine's time starts at `t` (R196, R208). -/
def Block.dutyRestarted (b : Block) (w : WakeMode) (t : Nat) : Block :=
  { b with duty := { b.duty with mode := .held, wake := w, holdTimer := none }, epoch := t, asks := [] }

/-- The blocks' restart effects (R207). -/
def Block.restarted (b : Block) : Block :=
  allLanes.foldl Block.restartDecision (b.partsRestarted.lanesRestarted.dutyRestarted b.duty.restartWake b.clock)

/-- The blocks' restart effects, and ENGINE_UP after them (R207, R208). Each block's effect is read from the state the restart found. -/
def Block.restartEngine (b : Block) : Block × Reply :=
  (b.restarted.raise (b.restarted.engineUp .restart)).done []

/-- RESTART_ENGINE (R207). -/
def execRestartEngine (tag : Byte) (body : List Byte) (s : State) : Host.Outcome State Fault Refusal :=
  s.request 0x3F tag body Block.restartEngine

end Sys2Proof.Machine
end

