-- ==== Sys2Proof/Machine/Dispatch.lean ====
section
/-! DEFINITION. The meaning of every command: one arm per constructor, each one call of its own definition. -/
namespace Sys2Proof.Machine

/-- A command's effect on everything but the queue of waiting commands. -/
def exec (i : Instr) (s : State) : Host.Outcome State Fault Refusal :=
  match i with
  | .powerUp => Sys2Proof.Machine.execPowerUp s
  | .resetLineAsserted => Sys2Proof.Machine.execResetLineAsserted s
  | .resetLineReleased => Sys2Proof.Machine.execResetLineReleased s
  | .controlLinkFrame bytes => Sys2Proof.Machine.execControlLinkFrame bytes s
  | .frameGapExpired => Sys2Proof.Machine.execFrameGapExpired s
  | .frameSent => Sys2Proof.Machine.execFrameSent s
  | .notARequestKind kind tag body => Sys2Proof.Machine.execNotARequestKind kind tag body s
  | .openManifest tag body => Sys2Proof.Machine.execOpenManifest tag body s
  | .loadRecords tag body => Sys2Proof.Machine.execLoadRecords tag body s
  | .completeManifest tag body => Sys2Proof.Machine.execCompleteManifest tag body s
  | .eraseManifest tag body => Sys2Proof.Machine.execEraseManifest tag body s
  | .bindCopies tag body => Sys2Proof.Machine.execBindCopies tag body s
  | .readManifest tag body => Sys2Proof.Machine.execReadManifest tag body s
  | .readRecords tag body => Sys2Proof.Machine.execReadRecords tag body s
  | .bringUpLane tag body => Sys2Proof.Machine.execBringUpLane tag body s
  | .putDownLane tag body => Sys2Proof.Machine.execPutDownLane tag body s
  | .restartLane tag body => Sys2Proof.Machine.execRestartLane tag body s
  | .setLane tag body => Sys2Proof.Machine.execSetLane tag body s
  | .readLane tag body => Sys2Proof.Machine.execReadLane tag body s
  | .setCapture tag body => Sys2Proof.Machine.execSetCapture tag body s
  | .readCapture tag body => Sys2Proof.Machine.execReadCapture tag body s
  | .verify tag body => Sys2Proof.Machine.execVerify tag body s
  | .resumeCampaign tag body => Sys2Proof.Machine.execResumeCampaign tag body s
  | .abandonCampaign tag body => Sys2Proof.Machine.execAbandonCampaign tag body s
  | .dismissCampaign tag body => Sys2Proof.Machine.execDismissCampaign tag body s
  | .readCampaign tag body => Sys2Proof.Machine.execReadCampaign tag body s
  | .readFindings tag body => Sys2Proof.Machine.execReadFindings tag body s
  | .acknowledge tag body => Sys2Proof.Machine.execAcknowledge tag body s
  | .setProfile tag body => Sys2Proof.Machine.execSetProfile tag body s
  | .selectProfile tag body => Sys2Proof.Machine.execSelectProfile tag body s
  | .readFlags tag body => Sys2Proof.Machine.execReadFlags tag body s
  | .clearFlags tag body => Sys2Proof.Machine.execClearFlags tag body s
  | .enqueueSuspects tag body => Sys2Proof.Machine.execEnqueueSuspects tag body s
  | .withdrawSuspect tag body => Sys2Proof.Machine.execWithdrawSuspect tag body s
  | .readSuspects tag body => Sys2Proof.Machine.execReadSuspects tag body s
  | .setRepair tag body => Sys2Proof.Machine.execSetRepair tag body s
  | .setDuty tag body => Sys2Proof.Machine.execSetDuty tag body s
  | .hold tag body => Sys2Proof.Machine.execHold tag body s
  | .wake tag body => Sys2Proof.Machine.execWake tag body s
  | .setPacing tag body => Sys2Proof.Machine.execSetPacing tag body s
  | .calibrateLane tag body => Sys2Proof.Machine.execCalibrateLane tag body s
  | .readDuty tag body => Sys2Proof.Machine.execReadDuty tag body s
  | .restartEngine tag body => Sys2Proof.Machine.execRestartEngine tag body s
  | .hello lane session body crc => Sys2Proof.Machine.execHello lane session body crc s
  | .header lane session body crc => Sys2Proof.Machine.execHeader lane session body crc s
  | .mark lane session body crc => Sys2Proof.Machine.execMark lane session body crc s
  | .payload lane session body crc => Sys2Proof.Machine.execPayload lane session body crc s
  | .endUnit lane session body crc => Sys2Proof.Machine.execEndUnit lane session body crc s
  | .trailer lane session body crc => Sys2Proof.Machine.execTrailer lane session body crc s
  | .notFound lane session body crc => Sys2Proof.Machine.execNotFound lane session body crc s
  | .fault lane session body crc => Sys2Proof.Machine.execFault lane session body crc s
  | .annotation lane session body crc => Sys2Proof.Machine.execAnnotation lane session body crc s
  | .yield lane session body crc => Sys2Proof.Machine.execYield lane session body crc s
  | .resume lane session body crc => Sys2Proof.Machine.execResume lane session body crc s
  | .rewriteDone lane session body crc => Sys2Proof.Machine.execRewriteDone lane session body crc s
  | .rewriteFailed lane session body crc => Sys2Proof.Machine.execRewriteFailed lane session body crc s
  | .unknownUnitType lane type session body crc => Sys2Proof.Machine.execUnknownUnitType lane type session body crc s
  | .rewriteEndSent lane => Sys2Proof.Machine.execRewriteEndSent lane s
  | .settleWaitExpired lane => Sys2Proof.Machine.execSettleWaitExpired lane s
  | .stallTimerExpired lane => Sys2Proof.Machine.execStallTimerExpired lane s
  | .freshnessTimerExpired slot => Sys2Proof.Machine.execFreshnessTimerExpired slot s
  | .holdTimerExpired => Sys2Proof.Machine.execHoldTimerExpired s
  | .pacingGateOpens lane => Sys2Proof.Machine.execPacingGateOpens lane s
  | .rollupCompletes => Sys2Proof.Machine.execRollupCompletes s

end Sys2Proof.Machine
end

