-- ==== Sys2Proof/Machine/Step.lean ====
section
/-! DEFINITION. One step: the command at the front of the queue, or, on an empty queue, one tick of the reference clock. -/
namespace Sys2Proof.Machine

/-- The queue without its front. -/
def State.withPending (s : State) (cs : List Instr) : State := { s with pending := cs }

/-- The reference clock moves on (log entry 5). -/
def State.tick (s : State) : State := { s with blk := { s.blk with clock := s.blk.clock + Config.tick } }

/-- One step of the machine. -/
def step (s : State) : Host.Outcome State Fault Refusal :=
  match s.pending with
  | [] => .next s.tick
  | c :: rest => exec c (s.withPending rest)

/-- The state with the command that a word spells put at the front of its queue; unchanged where the word spells none. -/
def State.withFetchWord (s : State) (nbits w : Nat) : State :=
  match decodeTableWord nbits w with
  | some c => s.withPending (c :: s.pending)
  | none => s

end Sys2Proof.Machine
end

