-- ==== Sys2Proof/Laws/State.lean ====
section
/-! SUPPORT. One lemma per field per update of the part: what an update leaves, by rfl, for simp. -/
namespace Sys2Proof.Machine

/-! ## The machine -/

@[simp] theorem State.withPending_blk (s : State) (cs : List Instr) : (s.withPending cs).blk = s.blk := rfl
@[simp] theorem State.withPending_pending (s : State) (cs : List Instr) : (s.withPending cs).pending = cs := rfl
@[simp] theorem State.tick_pending (s : State) : s.tick.pending = s.pending := rfl
@[simp] theorem State.tick_clock (s : State) : s.tick.blk.clock = s.blk.clock + 1 := rfl

/-! ## Fields an update does not touch -/

@[simp] theorem Block.updLane_port (b : Block) (l : Fin 8) (f : Lane → Lane) : (b.updLane l f).port = b.port := rfl
@[simp] theorem Block.updLane_pool (b : Block) (l : Fin 8) (f : Lane → Lane) : (b.updLane l f).pool = b.pool := rfl
@[simp] theorem Block.updLane_store (b : Block) (l : Fin 8) (f : Lane → Lane) : (b.updLane l f).store = b.store := rfl
@[simp] theorem Block.updLane_sched (b : Block) (l : Fin 8) (f : Lane → Lane) : (b.updLane l f).sched = b.sched := rfl
@[simp] theorem Block.updLane_recorder (b : Block) (l : Fin 8) (f : Lane → Lane) : (b.updLane l f).recorder = b.recorder := rfl
@[simp] theorem Block.updLane_repair (b : Block) (l : Fin 8) (f : Lane → Lane) : (b.updLane l f).repair = b.repair := rfl
@[simp] theorem Block.updLane_staging (b : Block) (l : Fin 8) (f : Lane → Lane) : (b.updLane l f).staging = b.staging := rfl
@[simp] theorem Block.updLane_capture (b : Block) (l : Fin 8) (f : Lane → Lane) : (b.updLane l f).capture = b.capture := rfl
@[simp] theorem Block.updLane_duty (b : Block) (l : Fin 8) (f : Lane → Lane) : (b.updLane l f).duty = b.duty := rfl
@[simp] theorem Block.updLane_clock (b : Block) (l : Fin 8) (f : Lane → Lane) : (b.updLane l f).clock = b.clock := rfl
@[simp] theorem Block.updLane_epoch (b : Block) (l : Fin 8) (f : Lane → Lane) : (b.updLane l f).epoch = b.epoch := rfl
@[simp] theorem Block.updLane_asks (b : Block) (l : Fin 8) (f : Lane → Lane) : (b.updLane l f).asks = b.asks := rfl
@[simp] theorem Block.updLane_resetLine (b : Block) (l : Fin 8) (f : Lane → Lane) : (b.updLane l f).resetLine = b.resetLine := rfl

@[simp] theorem Block.send_port (b : Block) (l : Fin 8) (u : SentUnit) : (b.send l u).port = b.port := rfl
@[simp] theorem Block.send_pool (b : Block) (l : Fin 8) (u : SentUnit) : (b.send l u).pool = b.pool := rfl
@[simp] theorem Block.send_store (b : Block) (l : Fin 8) (u : SentUnit) : (b.send l u).store = b.store := rfl
@[simp] theorem Block.send_sched (b : Block) (l : Fin 8) (u : SentUnit) : (b.send l u).sched = b.sched := rfl
@[simp] theorem Block.send_recorder (b : Block) (l : Fin 8) (u : SentUnit) : (b.send l u).recorder = b.recorder := rfl
@[simp] theorem Block.send_repair (b : Block) (l : Fin 8) (u : SentUnit) : (b.send l u).repair = b.repair := rfl
@[simp] theorem Block.send_staging (b : Block) (l : Fin 8) (u : SentUnit) : (b.send l u).staging = b.staging := rfl
@[simp] theorem Block.send_capture (b : Block) (l : Fin 8) (u : SentUnit) : (b.send l u).capture = b.capture := rfl
@[simp] theorem Block.send_duty (b : Block) (l : Fin 8) (u : SentUnit) : (b.send l u).duty = b.duty := rfl
@[simp] theorem Block.send_clock (b : Block) (l : Fin 8) (u : SentUnit) : (b.send l u).clock = b.clock := rfl
@[simp] theorem Block.send_epoch (b : Block) (l : Fin 8) (u : SentUnit) : (b.send l u).epoch = b.epoch := rfl
@[simp] theorem Block.send_asks (b : Block) (l : Fin 8) (u : SentUnit) : (b.send l u).asks = b.asks := rfl
@[simp] theorem Block.send_resetLine (b : Block) (l : Fin 8) (u : SentUnit) : (b.send l u).resetLine = b.resetLine := rfl

@[simp] theorem Block.startStall_port (b : Block) (l : Fin 8) : (b.startStall l).port = b.port := rfl
@[simp] theorem Block.startStall_pool (b : Block) (l : Fin 8) : (b.startStall l).pool = b.pool := rfl
@[simp] theorem Block.startStall_store (b : Block) (l : Fin 8) : (b.startStall l).store = b.store := rfl
@[simp] theorem Block.startStall_sched (b : Block) (l : Fin 8) : (b.startStall l).sched = b.sched := rfl
@[simp] theorem Block.startStall_recorder (b : Block) (l : Fin 8) : (b.startStall l).recorder = b.recorder := rfl
@[simp] theorem Block.startStall_repair (b : Block) (l : Fin 8) : (b.startStall l).repair = b.repair := rfl
@[simp] theorem Block.startStall_staging (b : Block) (l : Fin 8) : (b.startStall l).staging = b.staging := rfl
@[simp] theorem Block.startStall_capture (b : Block) (l : Fin 8) : (b.startStall l).capture = b.capture := rfl
@[simp] theorem Block.startStall_duty (b : Block) (l : Fin 8) : (b.startStall l).duty = b.duty := rfl
@[simp] theorem Block.startStall_clock (b : Block) (l : Fin 8) : (b.startStall l).clock = b.clock := rfl
@[simp] theorem Block.startStall_epoch (b : Block) (l : Fin 8) : (b.startStall l).epoch = b.epoch := rfl
@[simp] theorem Block.startStall_asks (b : Block) (l : Fin 8) : (b.startStall l).asks = b.asks := rfl
@[simp] theorem Block.startStall_resetLine (b : Block) (l : Fin 8) : (b.startStall l).resetLine = b.resetLine := rfl

@[simp] theorem Block.raise_lanes (b : Block) (n : Notice) : (b.raise n).lanes = b.lanes := rfl
@[simp] theorem Block.raise_pool (b : Block) (n : Notice) : (b.raise n).pool = b.pool := rfl
@[simp] theorem Block.raise_store (b : Block) (n : Notice) : (b.raise n).store = b.store := rfl
@[simp] theorem Block.raise_sched (b : Block) (n : Notice) : (b.raise n).sched = b.sched := rfl
@[simp] theorem Block.raise_recorder (b : Block) (n : Notice) : (b.raise n).recorder = b.recorder := rfl
@[simp] theorem Block.raise_repair (b : Block) (n : Notice) : (b.raise n).repair = b.repair := rfl
@[simp] theorem Block.raise_staging (b : Block) (n : Notice) : (b.raise n).staging = b.staging := rfl
@[simp] theorem Block.raise_capture (b : Block) (n : Notice) : (b.raise n).capture = b.capture := rfl
@[simp] theorem Block.raise_duty (b : Block) (n : Notice) : (b.raise n).duty = b.duty := rfl
@[simp] theorem Block.raise_clock (b : Block) (n : Notice) : (b.raise n).clock = b.clock := rfl
@[simp] theorem Block.raise_epoch (b : Block) (n : Notice) : (b.raise n).epoch = b.epoch := rfl
@[simp] theorem Block.raise_asks (b : Block) (n : Notice) : (b.raise n).asks = b.asks := rfl
@[simp] theorem Block.raise_resetLine (b : Block) (n : Notice) : (b.raise n).resetLine = b.resetLine := rfl

@[simp] theorem Block.updCampaign_port (b : Block) (id : Nat) (f : Campaign → Campaign) : (b.updCampaign id f).port = b.port := rfl
@[simp] theorem Block.updCampaign_lanes (b : Block) (id : Nat) (f : Campaign → Campaign) : (b.updCampaign id f).lanes = b.lanes := rfl
@[simp] theorem Block.updCampaign_pool (b : Block) (id : Nat) (f : Campaign → Campaign) : (b.updCampaign id f).pool = b.pool := rfl
@[simp] theorem Block.updCampaign_store (b : Block) (id : Nat) (f : Campaign → Campaign) : (b.updCampaign id f).store = b.store := rfl
@[simp] theorem Block.updCampaign_recorder (b : Block) (id : Nat) (f : Campaign → Campaign) : (b.updCampaign id f).recorder = b.recorder := rfl
@[simp] theorem Block.updCampaign_repair (b : Block) (id : Nat) (f : Campaign → Campaign) : (b.updCampaign id f).repair = b.repair := rfl
@[simp] theorem Block.updCampaign_staging (b : Block) (id : Nat) (f : Campaign → Campaign) : (b.updCampaign id f).staging = b.staging := rfl
@[simp] theorem Block.updCampaign_capture (b : Block) (id : Nat) (f : Campaign → Campaign) : (b.updCampaign id f).capture = b.capture := rfl
@[simp] theorem Block.updCampaign_duty (b : Block) (id : Nat) (f : Campaign → Campaign) : (b.updCampaign id f).duty = b.duty := rfl
@[simp] theorem Block.updCampaign_clock (b : Block) (id : Nat) (f : Campaign → Campaign) : (b.updCampaign id f).clock = b.clock := rfl
@[simp] theorem Block.updCampaign_epoch (b : Block) (id : Nat) (f : Campaign → Campaign) : (b.updCampaign id f).epoch = b.epoch := rfl
@[simp] theorem Block.updCampaign_asks (b : Block) (id : Nat) (f : Campaign → Campaign) : (b.updCampaign id f).asks = b.asks := rfl
@[simp] theorem Block.updCampaign_resetLine (b : Block) (id : Nat) (f : Campaign → Campaign) : (b.updCampaign id f).resetLine = b.resetLine := rfl

@[simp] theorem Block.updStore_port (b : Block) (f : Store → Store) : (b.updStore f).port = b.port := rfl
@[simp] theorem Block.updStore_lanes (b : Block) (f : Store → Store) : (b.updStore f).lanes = b.lanes := rfl
@[simp] theorem Block.updStore_pool (b : Block) (f : Store → Store) : (b.updStore f).pool = b.pool := rfl
@[simp] theorem Block.updStore_sched (b : Block) (f : Store → Store) : (b.updStore f).sched = b.sched := rfl
@[simp] theorem Block.updStore_recorder (b : Block) (f : Store → Store) : (b.updStore f).recorder = b.recorder := rfl
@[simp] theorem Block.updStore_repair (b : Block) (f : Store → Store) : (b.updStore f).repair = b.repair := rfl
@[simp] theorem Block.updStore_staging (b : Block) (f : Store → Store) : (b.updStore f).staging = b.staging := rfl
@[simp] theorem Block.updStore_capture (b : Block) (f : Store → Store) : (b.updStore f).capture = b.capture := rfl
@[simp] theorem Block.updStore_duty (b : Block) (f : Store → Store) : (b.updStore f).duty = b.duty := rfl
@[simp] theorem Block.updStore_clock (b : Block) (f : Store → Store) : (b.updStore f).clock = b.clock := rfl
@[simp] theorem Block.updStore_epoch (b : Block) (f : Store → Store) : (b.updStore f).epoch = b.epoch := rfl
@[simp] theorem Block.updStore_asks (b : Block) (f : Store → Store) : (b.updStore f).asks = b.asks := rfl
@[simp] theorem Block.updStore_resetLine (b : Block) (f : Store → Store) : (b.updStore f).resetLine = b.resetLine := rfl

@[simp] theorem Block.updPool_port (b : Block) (f : Pool → Pool) : (b.updPool f).port = b.port := rfl
@[simp] theorem Block.updPool_lanes (b : Block) (f : Pool → Pool) : (b.updPool f).lanes = b.lanes := rfl
@[simp] theorem Block.updPool_store (b : Block) (f : Pool → Pool) : (b.updPool f).store = b.store := rfl
@[simp] theorem Block.updPool_sched (b : Block) (f : Pool → Pool) : (b.updPool f).sched = b.sched := rfl
@[simp] theorem Block.updPool_recorder (b : Block) (f : Pool → Pool) : (b.updPool f).recorder = b.recorder := rfl
@[simp] theorem Block.updPool_repair (b : Block) (f : Pool → Pool) : (b.updPool f).repair = b.repair := rfl
@[simp] theorem Block.updPool_staging (b : Block) (f : Pool → Pool) : (b.updPool f).staging = b.staging := rfl
@[simp] theorem Block.updPool_capture (b : Block) (f : Pool → Pool) : (b.updPool f).capture = b.capture := rfl
@[simp] theorem Block.updPool_duty (b : Block) (f : Pool → Pool) : (b.updPool f).duty = b.duty := rfl
@[simp] theorem Block.updPool_clock (b : Block) (f : Pool → Pool) : (b.updPool f).clock = b.clock := rfl
@[simp] theorem Block.updPool_epoch (b : Block) (f : Pool → Pool) : (b.updPool f).epoch = b.epoch := rfl
@[simp] theorem Block.updPool_asks (b : Block) (f : Pool → Pool) : (b.updPool f).asks = b.asks := rfl
@[simp] theorem Block.updPool_resetLine (b : Block) (f : Pool → Pool) : (b.updPool f).resetLine = b.resetLine := rfl

@[simp] theorem Block.updRepair_port (b : Block) (f : RepairEngine → RepairEngine) : (b.updRepair f).port = b.port := rfl
@[simp] theorem Block.updRepair_lanes (b : Block) (f : RepairEngine → RepairEngine) : (b.updRepair f).lanes = b.lanes := rfl
@[simp] theorem Block.updRepair_pool (b : Block) (f : RepairEngine → RepairEngine) : (b.updRepair f).pool = b.pool := rfl
@[simp] theorem Block.updRepair_store (b : Block) (f : RepairEngine → RepairEngine) : (b.updRepair f).store = b.store := rfl
@[simp] theorem Block.updRepair_sched (b : Block) (f : RepairEngine → RepairEngine) : (b.updRepair f).sched = b.sched := rfl
@[simp] theorem Block.updRepair_recorder (b : Block) (f : RepairEngine → RepairEngine) : (b.updRepair f).recorder = b.recorder := rfl
@[simp] theorem Block.updRepair_staging (b : Block) (f : RepairEngine → RepairEngine) : (b.updRepair f).staging = b.staging := rfl
@[simp] theorem Block.updRepair_capture (b : Block) (f : RepairEngine → RepairEngine) : (b.updRepair f).capture = b.capture := rfl
@[simp] theorem Block.updRepair_duty (b : Block) (f : RepairEngine → RepairEngine) : (b.updRepair f).duty = b.duty := rfl
@[simp] theorem Block.updRepair_clock (b : Block) (f : RepairEngine → RepairEngine) : (b.updRepair f).clock = b.clock := rfl
@[simp] theorem Block.updRepair_epoch (b : Block) (f : RepairEngine → RepairEngine) : (b.updRepair f).epoch = b.epoch := rfl
@[simp] theorem Block.updRepair_asks (b : Block) (f : RepairEngine → RepairEngine) : (b.updRepair f).asks = b.asks := rfl
@[simp] theorem Block.updRepair_resetLine (b : Block) (f : RepairEngine → RepairEngine) : (b.updRepair f).resetLine = b.resetLine := rfl

@[simp] theorem Block.updDuty_port (b : Block) (f : Duty → Duty) : (b.updDuty f).port = b.port := rfl
@[simp] theorem Block.updDuty_lanes (b : Block) (f : Duty → Duty) : (b.updDuty f).lanes = b.lanes := rfl
@[simp] theorem Block.updDuty_pool (b : Block) (f : Duty → Duty) : (b.updDuty f).pool = b.pool := rfl
@[simp] theorem Block.updDuty_store (b : Block) (f : Duty → Duty) : (b.updDuty f).store = b.store := rfl
@[simp] theorem Block.updDuty_sched (b : Block) (f : Duty → Duty) : (b.updDuty f).sched = b.sched := rfl
@[simp] theorem Block.updDuty_recorder (b : Block) (f : Duty → Duty) : (b.updDuty f).recorder = b.recorder := rfl
@[simp] theorem Block.updDuty_repair (b : Block) (f : Duty → Duty) : (b.updDuty f).repair = b.repair := rfl
@[simp] theorem Block.updDuty_staging (b : Block) (f : Duty → Duty) : (b.updDuty f).staging = b.staging := rfl
@[simp] theorem Block.updDuty_capture (b : Block) (f : Duty → Duty) : (b.updDuty f).capture = b.capture := rfl
@[simp] theorem Block.updDuty_clock (b : Block) (f : Duty → Duty) : (b.updDuty f).clock = b.clock := rfl
@[simp] theorem Block.updDuty_epoch (b : Block) (f : Duty → Duty) : (b.updDuty f).epoch = b.epoch := rfl
@[simp] theorem Block.updDuty_asks (b : Block) (f : Duty → Duty) : (b.updDuty f).asks = b.asks := rfl
@[simp] theorem Block.updDuty_resetLine (b : Block) (f : Duty → Duty) : (b.updDuty f).resetLine = b.resetLine := rfl

@[simp] theorem Block.updRecorder_port (b : Block) (f : Recorder → Recorder) : (b.updRecorder f).port = b.port := rfl
@[simp] theorem Block.updRecorder_lanes (b : Block) (f : Recorder → Recorder) : (b.updRecorder f).lanes = b.lanes := rfl
@[simp] theorem Block.updRecorder_pool (b : Block) (f : Recorder → Recorder) : (b.updRecorder f).pool = b.pool := rfl
@[simp] theorem Block.updRecorder_store (b : Block) (f : Recorder → Recorder) : (b.updRecorder f).store = b.store := rfl
@[simp] theorem Block.updRecorder_sched (b : Block) (f : Recorder → Recorder) : (b.updRecorder f).sched = b.sched := rfl
@[simp] theorem Block.updRecorder_repair (b : Block) (f : Recorder → Recorder) : (b.updRecorder f).repair = b.repair := rfl
@[simp] theorem Block.updRecorder_staging (b : Block) (f : Recorder → Recorder) : (b.updRecorder f).staging = b.staging := rfl
@[simp] theorem Block.updRecorder_capture (b : Block) (f : Recorder → Recorder) : (b.updRecorder f).capture = b.capture := rfl
@[simp] theorem Block.updRecorder_duty (b : Block) (f : Recorder → Recorder) : (b.updRecorder f).duty = b.duty := rfl
@[simp] theorem Block.updRecorder_clock (b : Block) (f : Recorder → Recorder) : (b.updRecorder f).clock = b.clock := rfl
@[simp] theorem Block.updRecorder_epoch (b : Block) (f : Recorder → Recorder) : (b.updRecorder f).epoch = b.epoch := rfl
@[simp] theorem Block.updRecorder_asks (b : Block) (f : Recorder → Recorder) : (b.updRecorder f).asks = b.asks := rfl
@[simp] theorem Block.updRecorder_resetLine (b : Block) (f : Recorder → Recorder) : (b.updRecorder f).resetLine = b.resetLine := rfl

@[simp] theorem Block.updEntry_port (b : Block) (k : EntryKey) (f : Entry → Entry) : (b.updEntry k f).port = b.port := rfl
@[simp] theorem Block.updEntry_lanes (b : Block) (k : EntryKey) (f : Entry → Entry) : (b.updEntry k f).lanes = b.lanes := rfl
@[simp] theorem Block.updEntry_pool (b : Block) (k : EntryKey) (f : Entry → Entry) : (b.updEntry k f).pool = b.pool := rfl
@[simp] theorem Block.updEntry_store (b : Block) (k : EntryKey) (f : Entry → Entry) : (b.updEntry k f).store = b.store := rfl
@[simp] theorem Block.updEntry_sched (b : Block) (k : EntryKey) (f : Entry → Entry) : (b.updEntry k f).sched = b.sched := rfl
@[simp] theorem Block.updEntry_recorder (b : Block) (k : EntryKey) (f : Entry → Entry) : (b.updEntry k f).recorder = b.recorder := rfl
@[simp] theorem Block.updEntry_staging (b : Block) (k : EntryKey) (f : Entry → Entry) : (b.updEntry k f).staging = b.staging := rfl
@[simp] theorem Block.updEntry_capture (b : Block) (k : EntryKey) (f : Entry → Entry) : (b.updEntry k f).capture = b.capture := rfl
@[simp] theorem Block.updEntry_duty (b : Block) (k : EntryKey) (f : Entry → Entry) : (b.updEntry k f).duty = b.duty := rfl
@[simp] theorem Block.updEntry_clock (b : Block) (k : EntryKey) (f : Entry → Entry) : (b.updEntry k f).clock = b.clock := rfl
@[simp] theorem Block.updEntry_epoch (b : Block) (k : EntryKey) (f : Entry → Entry) : (b.updEntry k f).epoch = b.epoch := rfl
@[simp] theorem Block.updEntry_asks (b : Block) (k : EntryKey) (f : Entry → Entry) : (b.updEntry k f).asks = b.asks := rfl
@[simp] theorem Block.updEntry_resetLine (b : Block) (k : EntryKey) (f : Entry → Entry) : (b.updEntry k f).resetLine = b.resetLine := rfl

@[simp] theorem Block.clockTo_port (b : Block) (t : Nat) : (b.clockTo t).port = b.port := rfl
@[simp] theorem Block.clockTo_lanes (b : Block) (t : Nat) : (b.clockTo t).lanes = b.lanes := rfl
@[simp] theorem Block.clockTo_pool (b : Block) (t : Nat) : (b.clockTo t).pool = b.pool := rfl
@[simp] theorem Block.clockTo_store (b : Block) (t : Nat) : (b.clockTo t).store = b.store := rfl
@[simp] theorem Block.clockTo_sched (b : Block) (t : Nat) : (b.clockTo t).sched = b.sched := rfl
@[simp] theorem Block.clockTo_recorder (b : Block) (t : Nat) : (b.clockTo t).recorder = b.recorder := rfl
@[simp] theorem Block.clockTo_repair (b : Block) (t : Nat) : (b.clockTo t).repair = b.repair := rfl
@[simp] theorem Block.clockTo_staging (b : Block) (t : Nat) : (b.clockTo t).staging = b.staging := rfl
@[simp] theorem Block.clockTo_capture (b : Block) (t : Nat) : (b.clockTo t).capture = b.capture := rfl
@[simp] theorem Block.clockTo_duty (b : Block) (t : Nat) : (b.clockTo t).duty = b.duty := rfl
@[simp] theorem Block.clockTo_epoch (b : Block) (t : Nat) : (b.clockTo t).epoch = b.epoch := rfl
@[simp] theorem Block.clockTo_asks (b : Block) (t : Nat) : (b.clockTo t).asks = b.asks := rfl
@[simp] theorem Block.clockTo_resetLine (b : Block) (t : Nat) : (b.clockTo t).resetLine = b.resetLine := rfl

@[simp] theorem Block.makeClaim_port (b : Block) (c : Claim) : (b.makeClaim c).port = b.port := rfl
@[simp] theorem Block.makeClaim_lanes (b : Block) (c : Claim) : (b.makeClaim c).lanes = b.lanes := rfl
@[simp] theorem Block.makeClaim_store (b : Block) (c : Claim) : (b.makeClaim c).store = b.store := rfl
@[simp] theorem Block.makeClaim_sched (b : Block) (c : Claim) : (b.makeClaim c).sched = b.sched := rfl
@[simp] theorem Block.makeClaim_recorder (b : Block) (c : Claim) : (b.makeClaim c).recorder = b.recorder := rfl
@[simp] theorem Block.makeClaim_repair (b : Block) (c : Claim) : (b.makeClaim c).repair = b.repair := rfl
@[simp] theorem Block.makeClaim_staging (b : Block) (c : Claim) : (b.makeClaim c).staging = b.staging := rfl
@[simp] theorem Block.makeClaim_capture (b : Block) (c : Claim) : (b.makeClaim c).capture = b.capture := rfl
@[simp] theorem Block.makeClaim_duty (b : Block) (c : Claim) : (b.makeClaim c).duty = b.duty := rfl
@[simp] theorem Block.makeClaim_clock (b : Block) (c : Claim) : (b.makeClaim c).clock = b.clock := rfl
@[simp] theorem Block.makeClaim_epoch (b : Block) (c : Claim) : (b.makeClaim c).epoch = b.epoch := rfl
@[simp] theorem Block.makeClaim_asks (b : Block) (c : Claim) : (b.makeClaim c).asks = b.asks := rfl
@[simp] theorem Block.makeClaim_resetLine (b : Block) (c : Claim) : (b.makeClaim c).resetLine = b.resetLine := rfl

@[simp] theorem Block.engage_port (b : Block) (l : Fin 8) (kind : ItemKind) (owner : Owner) : (b.engage l kind owner).port = b.port := rfl
@[simp] theorem Block.engage_pool (b : Block) (l : Fin 8) (kind : ItemKind) (owner : Owner) : (b.engage l kind owner).pool = b.pool := rfl
@[simp] theorem Block.engage_store (b : Block) (l : Fin 8) (kind : ItemKind) (owner : Owner) : (b.engage l kind owner).store = b.store := rfl
@[simp] theorem Block.engage_sched (b : Block) (l : Fin 8) (kind : ItemKind) (owner : Owner) : (b.engage l kind owner).sched = b.sched := rfl
@[simp] theorem Block.engage_recorder (b : Block) (l : Fin 8) (kind : ItemKind) (owner : Owner) : (b.engage l kind owner).recorder = b.recorder := rfl
@[simp] theorem Block.engage_repair (b : Block) (l : Fin 8) (kind : ItemKind) (owner : Owner) : (b.engage l kind owner).repair = b.repair := rfl
@[simp] theorem Block.engage_staging (b : Block) (l : Fin 8) (kind : ItemKind) (owner : Owner) : (b.engage l kind owner).staging = b.staging := rfl
@[simp] theorem Block.engage_capture (b : Block) (l : Fin 8) (kind : ItemKind) (owner : Owner) : (b.engage l kind owner).capture = b.capture := rfl
@[simp] theorem Block.engage_duty (b : Block) (l : Fin 8) (kind : ItemKind) (owner : Owner) : (b.engage l kind owner).duty = b.duty := rfl
@[simp] theorem Block.engage_clock (b : Block) (l : Fin 8) (kind : ItemKind) (owner : Owner) : (b.engage l kind owner).clock = b.clock := rfl
@[simp] theorem Block.engage_epoch (b : Block) (l : Fin 8) (kind : ItemKind) (owner : Owner) : (b.engage l kind owner).epoch = b.epoch := rfl
@[simp] theorem Block.engage_asks (b : Block) (l : Fin 8) (kind : ItemKind) (owner : Owner) : (b.engage l kind owner).asks = b.asks := rfl
@[simp] theorem Block.engage_resetLine (b : Block) (l : Fin 8) (kind : ItemKind) (owner : Owner) : (b.engage l kind owner).resetLine = b.resetLine := rfl

@[simp] theorem Block.openSession_port (b : Block) (l : Fin 8) (kind : SessionKind) (span : Option (Word64 × Word32)) (owner : Owner) : (b.openSession l kind span owner).port = b.port := rfl
@[simp] theorem Block.openSession_pool (b : Block) (l : Fin 8) (kind : SessionKind) (span : Option (Word64 × Word32)) (owner : Owner) : (b.openSession l kind span owner).pool = b.pool := rfl
@[simp] theorem Block.openSession_store (b : Block) (l : Fin 8) (kind : SessionKind) (span : Option (Word64 × Word32)) (owner : Owner) : (b.openSession l kind span owner).store = b.store := rfl
@[simp] theorem Block.openSession_sched (b : Block) (l : Fin 8) (kind : SessionKind) (span : Option (Word64 × Word32)) (owner : Owner) : (b.openSession l kind span owner).sched = b.sched := rfl
@[simp] theorem Block.openSession_recorder (b : Block) (l : Fin 8) (kind : SessionKind) (span : Option (Word64 × Word32)) (owner : Owner) : (b.openSession l kind span owner).recorder = b.recorder := rfl
@[simp] theorem Block.openSession_repair (b : Block) (l : Fin 8) (kind : SessionKind) (span : Option (Word64 × Word32)) (owner : Owner) : (b.openSession l kind span owner).repair = b.repair := rfl
@[simp] theorem Block.openSession_staging (b : Block) (l : Fin 8) (kind : SessionKind) (span : Option (Word64 × Word32)) (owner : Owner) : (b.openSession l kind span owner).staging = b.staging := rfl
@[simp] theorem Block.openSession_capture (b : Block) (l : Fin 8) (kind : SessionKind) (span : Option (Word64 × Word32)) (owner : Owner) : (b.openSession l kind span owner).capture = b.capture := rfl
@[simp] theorem Block.openSession_duty (b : Block) (l : Fin 8) (kind : SessionKind) (span : Option (Word64 × Word32)) (owner : Owner) : (b.openSession l kind span owner).duty = b.duty := rfl
@[simp] theorem Block.openSession_clock (b : Block) (l : Fin 8) (kind : SessionKind) (span : Option (Word64 × Word32)) (owner : Owner) : (b.openSession l kind span owner).clock = b.clock := rfl
@[simp] theorem Block.openSession_epoch (b : Block) (l : Fin 8) (kind : SessionKind) (span : Option (Word64 × Word32)) (owner : Owner) : (b.openSession l kind span owner).epoch = b.epoch := rfl
@[simp] theorem Block.openSession_asks (b : Block) (l : Fin 8) (kind : SessionKind) (span : Option (Word64 × Word32)) (owner : Owner) : (b.openSession l kind span owner).asks = b.asks := rfl
@[simp] theorem Block.openSession_resetLine (b : Block) (l : Fin 8) (kind : SessionKind) (span : Option (Word64 × Word32)) (owner : Owner) : (b.openSession l kind span owner).resetLine = b.resetLine := rfl

@[simp] theorem Block.flush_lanes (b : Block) : b.flush.lanes = b.lanes := rfl
@[simp] theorem Block.flush_pool (b : Block) : b.flush.pool = b.pool := rfl
@[simp] theorem Block.flush_store (b : Block) : b.flush.store = b.store := rfl
@[simp] theorem Block.flush_sched (b : Block) : b.flush.sched = b.sched := rfl
@[simp] theorem Block.flush_recorder (b : Block) : b.flush.recorder = b.recorder := rfl
@[simp] theorem Block.flush_repair (b : Block) : b.flush.repair = b.repair := rfl
@[simp] theorem Block.flush_staging (b : Block) : b.flush.staging = b.staging := rfl
@[simp] theorem Block.flush_capture (b : Block) : b.flush.capture = b.capture := rfl
@[simp] theorem Block.flush_duty (b : Block) : b.flush.duty = b.duty := rfl
@[simp] theorem Block.flush_clock (b : Block) : b.flush.clock = b.clock := rfl
@[simp] theorem Block.flush_epoch (b : Block) : b.flush.epoch = b.epoch := rfl
@[simp] theorem Block.flush_asks (b : Block) : b.flush.asks = b.asks := rfl
@[simp] theorem Block.flush_resetLine (b : Block) : b.flush.resetLine = b.resetLine := rfl

/-! ## Asking an arbiter -/

@[simp] theorem Block.ask_port (b : Block) (l : Fin 8) : (b.ask l).port = b.port := by unfold Block.ask; split <;> rfl
@[simp] theorem Block.ask_lanes (b : Block) (l : Fin 8) : (b.ask l).lanes = b.lanes := by unfold Block.ask; split <;> rfl
@[simp] theorem Block.ask_pool (b : Block) (l : Fin 8) : (b.ask l).pool = b.pool := by unfold Block.ask; split <;> rfl
@[simp] theorem Block.ask_store (b : Block) (l : Fin 8) : (b.ask l).store = b.store := by unfold Block.ask; split <;> rfl
@[simp] theorem Block.ask_sched (b : Block) (l : Fin 8) : (b.ask l).sched = b.sched := by unfold Block.ask; split <;> rfl
@[simp] theorem Block.ask_recorder (b : Block) (l : Fin 8) : (b.ask l).recorder = b.recorder := by unfold Block.ask; split <;> rfl
@[simp] theorem Block.ask_repair (b : Block) (l : Fin 8) : (b.ask l).repair = b.repair := by unfold Block.ask; split <;> rfl
@[simp] theorem Block.ask_staging (b : Block) (l : Fin 8) : (b.ask l).staging = b.staging := by unfold Block.ask; split <;> rfl
@[simp] theorem Block.ask_capture (b : Block) (l : Fin 8) : (b.ask l).capture = b.capture := by unfold Block.ask; split <;> rfl
@[simp] theorem Block.ask_duty (b : Block) (l : Fin 8) : (b.ask l).duty = b.duty := by unfold Block.ask; split <;> rfl
@[simp] theorem Block.ask_clock (b : Block) (l : Fin 8) : (b.ask l).clock = b.clock := by unfold Block.ask; split <;> rfl
@[simp] theorem Block.ask_epoch (b : Block) (l : Fin 8) : (b.ask l).epoch = b.epoch := by unfold Block.ask; split <;> rfl
@[simp] theorem Block.ask_resetLine (b : Block) (l : Fin 8) : (b.ask l).resetLine = b.resetLine := by unfold Block.ask; split <;> rfl

theorem Block.ask_asks (b : Block) (l : Fin 8) : (b.ask l).asks = if l ∈ b.asks then b.asks else b.asks ++ [l] := by
  unfold Block.ask; split <;> rfl

/-! ## The field an update sets -/

@[simp] theorem Block.raise_port (b : Block) (n : Notice) : (b.raise n).port = { b.port with raised := b.port.raised ++ [n] } := rfl
@[simp] theorem Block.updStore_store (b : Block) (f : Store → Store) : (b.updStore f).store = f b.store := rfl
@[simp] theorem Block.updCampaign_sched (b : Block) (id : Nat) (f : Campaign → Campaign) : (b.updCampaign id f).sched = b.sched.upd id f := rfl
@[simp] theorem Block.updEntry_repair (b : Block) (k : EntryKey) (f : Entry → Entry) : (b.updEntry k f).repair = b.repair.upd k f := rfl
@[simp] theorem Block.updPool_pool (b : Block) (f : Pool → Pool) : (b.updPool f).pool = f b.pool := rfl
@[simp] theorem Block.updRepair_repair (b : Block) (f : RepairEngine → RepairEngine) : (b.updRepair f).repair = f b.repair := rfl
@[simp] theorem Block.updDuty_duty (b : Block) (f : Duty → Duty) : (b.updDuty f).duty = f b.duty := rfl
@[simp] theorem Block.updRecorder_recorder (b : Block) (f : Recorder → Recorder) : (b.updRecorder f).recorder = f b.recorder := rfl
@[simp] theorem Block.clockTo_clock (b : Block) (t : Nat) : (b.clockTo t).clock = max b.clock t := rfl
@[simp] theorem Block.makeClaim_fifo (b : Block) (c : Claim) : (b.makeClaim c).pool.fifo = b.pool.fifo ++ [c] := rfl
@[simp] theorem Block.makeClaim_units (b : Block) (c : Claim) : (b.makeClaim c).pool.units = b.pool.units := rfl
@[simp] theorem Block.flush_port (b : Block) : b.flush.port = b.port.flush := rfl

/-! ## Lanes -/

@[simp] theorem Block.lane_updLane_self (b : Block) (l : Fin 8) (f : Lane → Lane) : (b.updLane l f).lane l = f (b.lane l) := by
  simp [Block.lane, Block.updLane]

theorem Block.lane_updLane_ne (b : Block) {l m : Fin 8} (f : Lane → Lane) (h : m ≠ l) : (b.updLane l f).lane m = b.lane m := by
  have h' : (l : Nat) ≠ m := fun e => h (Fin.ext e.symm)
  simp [Block.lane, Block.updLane, h']

theorem Block.lane_updLane (b : Block) (l m : Fin 8) (f : Lane → Lane) :
    (b.updLane l f).lane m = if m = l then f (b.lane l) else b.lane m := by
  split
  · next h => subst h; simp
  · next h => exact Block.lane_updLane_ne b f h

/-- A block whose lanes are another's has the other's lanes one by one. -/
theorem Block.lane_congr {b c : Block} (h : b.lanes = c.lanes) (l : Fin 8) : b.lane l = c.lane l := by
  unfold Block.lane; rw [h]

@[simp] theorem Block.raise_lane (b : Block) (n : Notice) (l : Fin 8) : (b.raise n).lane l = b.lane l := rfl
@[simp] theorem Block.updCampaign_lane (b : Block) (id : Nat) (f : Campaign → Campaign) (l : Fin 8) : (b.updCampaign id f).lane l = b.lane l := rfl
@[simp] theorem Block.updStore_lane (b : Block) (f : Store → Store) (l : Fin 8) : (b.updStore f).lane l = b.lane l := rfl
@[simp] theorem Block.updPool_lane (b : Block) (f : Pool → Pool) (l : Fin 8) : (b.updPool f).lane l = b.lane l := rfl
@[simp] theorem Block.updRepair_lane (b : Block) (f : RepairEngine → RepairEngine) (l : Fin 8) : (b.updRepair f).lane l = b.lane l := rfl
@[simp] theorem Block.updDuty_lane (b : Block) (f : Duty → Duty) (l : Fin 8) : (b.updDuty f).lane l = b.lane l := rfl
@[simp] theorem Block.updRecorder_lane (b : Block) (f : Recorder → Recorder) (l : Fin 8) : (b.updRecorder f).lane l = b.lane l := rfl
@[simp] theorem Block.updEntry_lane (b : Block) (k : EntryKey) (f : Entry → Entry) (l : Fin 8) : (b.updEntry k f).lane l = b.lane l := rfl
@[simp] theorem Block.clockTo_lane (b : Block) (t : Nat) (l : Fin 8) : (b.clockTo t).lane l = b.lane l := rfl
@[simp] theorem Block.makeClaim_lane (b : Block) (c : Claim) (l : Fin 8) : (b.makeClaim c).lane l = b.lane l := rfl
@[simp] theorem Block.flush_lane (b : Block) (l : Fin 8) : b.flush.lane l = b.lane l := rfl
@[simp] theorem Block.ask_lane (b : Block) (l m : Fin 8) : (b.ask l).lane m = b.lane m := Block.lane_congr (Block.ask_lanes b l) m

/-! ## Manifest slots -/

@[simp] theorem Store.put_free (st : Store) (k : Fin 16) (m : Option Manifest) : (st.put k m).free = st.free := rfl
@[simp] theorem Store.put_unit (st : Store) (k : Fin 16) (m : Option Manifest) : (st.put k m).unit = st.unit := rfl
@[simp] theorem Store.put_fifo (st : Store) (k : Fin 16) (m : Option Manifest) : (st.put k m).fifo = st.fifo := rfl

@[simp] theorem Store.manifest_put_self (st : Store) (k : Fin 16) (m : Option Manifest) : (st.put k m).manifest k = m := by
  simp [Store.manifest, Store.put]

theorem Store.manifest_put (st : Store) (k j : Fin 16) (m : Option Manifest) :
    (st.put k m).manifest j = if j = k then m else st.manifest j := by
  split
  · next h => subst h; simp
  · next h =>
    have h' : (k : Nat) ≠ j := fun e => h (Fin.ext e.symm)
    simp [Store.manifest, Store.put, h']

theorem Store.manifest_updManifest (st : Store) (k j : Fin 16) (f : Manifest → Manifest) :
    (st.updManifest k f).manifest j = if j = k then (st.manifest k).map f else st.manifest j :=
  Store.manifest_put st k j _

@[simp] theorem Manifest.updRecord_count (m : Manifest) (n : Nat) (f : FrameRecord → FrameRecord) : (m.updRecord n f).count = m.count := by
  unfold Manifest.updRecord; split <;> rfl

@[simp] theorem Manifest.updRecord_state (m : Manifest) (n : Nat) (f : FrameRecord → FrameRecord) : (m.updRecord n f).state = m.state := by
  unfold Manifest.updRecord; split <;> rfl

/-! ## Digest units -/

@[simp] theorem Pool.setUnit_fifo (p : Pool) (i : Fin 4) (u : Option DigestUnit) : (p.setUnit i u).fifo = p.fifo := rfl

@[simp] theorem Pool.release_fifo (p : Pool) (l : Fin 8) : (p.release l).fifo = p.fifo := by
  unfold Pool.release; split <;> rfl

@[simp] theorem Pool.withdraw_units (p : Pool) (l : Fin 8) : (p.withdraw l).units = p.units := rfl

end Sys2Proof.Machine
end

