-- ==== Sys2Proof/Laws/Tables.lean ====
section
/-! SUPPORT. Looking up what an update of a table has written: campaigns, Suspect List entries, frame records, digest units. -/
namespace Sys2Proof.Machine

/-! ## Campaigns (R92) -/

/-- A change that keeps ids changes the campaign found under the id. -/
theorem Scheduler.find_upd (sc : Scheduler) (id : Nat) (f : Campaign → Campaign) (hf : ∀ c, (f c).id = c.id) : (sc.upd id f).find id = (sc.find id).map f := by
  unfold Scheduler.find Scheduler.upd
  dsimp only
  induction sc.table with
  | nil => rfl
  | cons c t ih =>
    rw [List.map_cons, List.find?_cons, List.find?_cons, ih]
    by_cases h : c.id = id
    · rw [if_pos h, hf, h]; simp
    · rw [if_neg h]
      have e : (c.id == id) = false := by simpa using h
      rw [e]

theorem Scheduler.find_id {sc : Scheduler} {id : Nat} {c : Campaign} (h : sc.find id = some c) : c.id = id := by
  have := List.find?_some h
  simpa using this

/-! ## Entries (R149) -/

/-- A change that keeps names changes the entry found under the name. -/
theorem RepairEngine.find_upd (r : RepairEngine) (k : EntryKey) (f : Entry → Entry) (hf : ∀ e, (f e).key = e.key) : (r.upd k f).find k = (r.find k).map f := by
  unfold RepairEngine.find RepairEngine.upd
  dsimp only
  induction r.list with
  | nil => rfl
  | cons c t ih =>
    rw [List.map_cons, List.find?_cons, List.find?_cons, ih]
    by_cases h : c.key = k
    · rw [if_pos h, hf, h]; simp
    · rw [if_neg h]
      have e : (c.key == k) = false := by simpa using h
      rw [e]

theorem RepairEngine.find_key {r : RepairEngine} {k : EntryKey} {e : Entry} (h : r.find k = some e) : e.key = k := by
  have := List.find?_some h
  simpa using this

/-- Removing a name leaves no entry under it. -/
theorem RepairEngine.find_remove (r : RepairEngine) (k : EntryKey) : (r.remove k).find k = none := by
  unfold RepairEngine.find RepairEngine.remove
  rw [List.find?_eq_none]
  intro e he
  have := (List.mem_filter.1 he).2
  simpa using this

/-! ## Manifests and frame records (R1, R3) -/

theorem Manifest.index_updRecord (m : Manifest) (n : Nat) (f : FrameRecord → FrameRecord) (j : Nat) : (m.updRecord n f).index j = m.index j := by
  unfold Manifest.updRecord
  split <;> rfl

/-- The record written is the record found, changed. -/
theorem Manifest.record_updRecord (m : Manifest) (n : Nat) (f : FrameRecord → FrameRecord) : (m.updRecord n f).record n = (m.record n).map f := by
  unfold Manifest.record
  rw [Manifest.index_updRecord]
  unfold Manifest.updRecord
  cases h : m.index n with
  | none => rfl
  | some i => simp

theorem Store.record_updRecord (st : Store) (k : Fin 16) (n : Nat) (f : FrameRecord → FrameRecord) :
    (st.updRecord k n f).record k n = (st.record k n).map f := by
  unfold Store.record Store.updRecord
  rw [Store.manifest_updManifest, if_pos rfl]
  cases st.manifest k with
  | none => rfl
  | some m => exact Manifest.record_updRecord m n f

end Sys2Proof.Machine
end

