-- ==== Sys2Proof/Safety.lean ====
section
/-! DEFINITION. What stays true of the part from step to step: nothing left over between steps, the places of the port, the bounds of the lanes, the
log and the lists, the count of the record pool, and the canonical form of staging memory. -/
namespace Sys2Proof.Machine

/-! ## Between steps (R31, R57, R204) -/

/-- Nothing is left to do: no arbiter is to be asked, and no digest claim waits beside a FREE unit. -/
def Block.quiet (b : Block) : Prop := b.asks = [] ∧ (b.pool.fifo = [] ∨ b.pool.freeUnit = none)

/-- No notice raised in a step is left unqueued. -/
def Block.told (b : Block) : Prop := b.port.raised = []

/-! ## The Control Port's places (R199, R203) -/

/-- At most four requests, four replies and twelve notices are held. -/
def Port.fits (p : Port) : Prop := p.inbound.length ≤ 4 ∧ p.repliesUsed ≤ 4 ∧ p.noticesUsed ≤ 12

/-! ## Lanes (R44, R47, R53) -/

/-- Session numbers are 1 to 255 and the restart counter is 0 to 3. -/
structure Lane.Sound (ln : Lane) : Prop where
  next     : 1 ≤ ln.nextSession ∧ ln.nextSession ≤ 255
  restarts : ln.restarts ≤ 3
  session  : ∀ s, ln.session = some s → 1 ≤ s.number ∧ s.number ≤ 255

/-! ## The Finding Log (R138, R140) -/

/-- A finding's sequence number, 0 while it has none. -/
def Finding.seq (f : Finding) : Nat := f.sequence.getD 0

/-- The log holds at most 256 findings, their sequence numbers rise and stand below the next one. -/
structure Recorder.Sound (r : Recorder) : Prop where
  size   : r.log.length ≤ 256
  rising : r.log.Pairwise (fun f g => f.seq < g.seq)
  below  : ∀ f ∈ r.log, f.seq < r.nextSequence

/-! ## The record pool (R2) -/

/-- Records reserved by a slot. -/
def Store.reserved (st : Store) (k : Fin 16) : Nat :=
  match st.manifest k with
  | some m => m.count
  | none => 0

/-- The free count and the frame counts of the manifests held make 16,384. -/
def Store.balanced (st : Store) : Prop := st.free + (allSlots.map st.reserved).sum = 16384

/-! ## The part -/

/-- What every step keeps. -/
structure Block.Safe (b : Block) : Prop where
  quiet     : b.quiet
  told      : b.told
  port      : b.port.fits
  lanes     : ∀ l, (b.lane l).Sound
  recorder  : b.recorder.Sound
  campaigns : b.sched.table.length ≤ 24
  suspects  : b.repair.list.length ≤ 128
  pool      : b.store.balanced
  staging   : Memory.wf b.staging = true

/-! ## Words that the statements use -/

/-- The request a command stands for: its kind, tag and body (R202). -/
def requestOf : Instr → Option Request
  | .notARequestKind kind tag body => some { kind := kind, tag := tag, body := body }
  | .openManifest tag body => some { kind := 0x01, tag := tag, body := body }
  | .loadRecords tag body => some { kind := 0x02, tag := tag, body := body }
  | .completeManifest tag body => some { kind := 0x03, tag := tag, body := body }
  | .eraseManifest tag body => some { kind := 0x04, tag := tag, body := body }
  | .bindCopies tag body => some { kind := 0x05, tag := tag, body := body }
  | .readManifest tag body => some { kind := 0x06, tag := tag, body := body }
  | .readRecords tag body => some { kind := 0x07, tag := tag, body := body }
  | .bringUpLane tag body => some { kind := 0x08, tag := tag, body := body }
  | .putDownLane tag body => some { kind := 0x09, tag := tag, body := body }
  | .restartLane tag body => some { kind := 0x0A, tag := tag, body := body }
  | .setLane tag body => some { kind := 0x0B, tag := tag, body := body }
  | .readLane tag body => some { kind := 0x0C, tag := tag, body := body }
  | .setCapture tag body => some { kind := 0x0D, tag := tag, body := body }
  | .readCapture tag body => some { kind := 0x0E, tag := tag, body := body }
  | .verify tag body => some { kind := 0x10, tag := tag, body := body }
  | .resumeCampaign tag body => some { kind := 0x11, tag := tag, body := body }
  | .abandonCampaign tag body => some { kind := 0x12, tag := tag, body := body }
  | .dismissCampaign tag body => some { kind := 0x13, tag := tag, body := body }
  | .readCampaign tag body => some { kind := 0x14, tag := tag, body := body }
  | .readFindings tag body => some { kind := 0x18, tag := tag, body := body }
  | .acknowledge tag body => some { kind := 0x19, tag := tag, body := body }
  | .setProfile tag body => some { kind := 0x1A, tag := tag, body := body }
  | .selectProfile tag body => some { kind := 0x1B, tag := tag, body := body }
  | .readFlags tag body => some { kind := 0x1C, tag := tag, body := body }
  | .clearFlags tag body => some { kind := 0x1D, tag := tag, body := body }
  | .enqueueSuspects tag body => some { kind := 0x20, tag := tag, body := body }
  | .withdrawSuspect tag body => some { kind := 0x21, tag := tag, body := body }
  | .readSuspects tag body => some { kind := 0x22, tag := tag, body := body }
  | .setRepair tag body => some { kind := 0x23, tag := tag, body := body }
  | .setDuty tag body => some { kind := 0x28, tag := tag, body := body }
  | .hold tag body => some { kind := 0x29, tag := tag, body := body }
  | .wake tag body => some { kind := 0x2A, tag := tag, body := body }
  | .setPacing tag body => some { kind := 0x2B, tag := tag, body := body }
  | .calibrateLane tag body => some { kind := 0x2C, tag := tag, body := body }
  | .readDuty tag body => some { kind := 0x2D, tag := tag, body := body }
  | .restartEngine tag body => some { kind := 0x3F, tag := tag, body := body }
  | _ => none

/-- The request stands at the head of the inbound queue, a reply place is free, the reset line is released, and the step before left nothing over: the
port takes the request in this step (R200). -/
structure State.Ready (s : State) (r : Request) : Prop where
  live  : s.blk.resetLine = false
  head  : s.blk.port.inbound.head? = some r
  place : s.blk.port.repliesUsed < 4
  quiet : s.blk.quiet
  told  : s.blk.told

/-- The port takes the request, and its own checks KIND, FORM and DUTY pass (R200): the body has the length R202 gives and the duty mode is one R202 lists. -/
structure State.Takes (s : State) (kind tag : Byte) (body : List Byte) : Prop extends s.Ready { kind := kind, tag := tag, body := body } where
  form : requestLength kind body = some body.length
  mode : requestModes kind s.blk.duty.mode = true

/-- A request has been answered and nothing was raised: the block as the request leaves it, the request gone from the head of the inbound queue, the reply
at the tail of the outbound queue (R200). -/
def State.replied (s : State) (b : Block) (kind tag : Byte) (rep : Reply) : State :=
  { s with blk := { b with port := { s.blk.port with
      inbound := s.blk.port.inbound.tail, outbound := s.blk.port.outbound ++ [.reply (replyKind kind) tag rep] } } }

/-- A request has been answered: `b` is the block as the request itself leaves it, the grants and the turns of the arbiters follow (R31, R57), and the reply is
queued, then the notices raised (R200, R204). -/
def State.answered (s : State) (b : Block) (kind tag : Byte) (rep : Reply) : State :=
  { s with blk := { b.settleWork with port := b.settleWork.port.answer { kind := kind, tag := tag, body := [] } rep } }

/-- A step that is no request has been taken: `b` is the block as the command itself leaves it, the grants and turns follow (R31, R57), and the notices raised
are queued (R204). -/
def State.after (s : State) (b : Block) : State := { s with blk := b.settleWork.flush }

/-- A notice raised in the step has been queued, and nothing else. -/
def State.noticed (s : State) (n : Notice) : State := { s with blk := { s.blk with port := s.blk.port.queueNotice n } }

/-- Nothing is taken while the reset line is asserted (R206), and the step before left nothing over: a step that is no request runs alone. -/
structure State.Idle (s : State) : Prop where
  live  : s.blk.resetLine = false
  quiet : s.blk.quiet
  told  : s.blk.told

/-- A session unit of the lane's open session that passes R46's checks of its CRC-32 and its session number. -/
structure State.Hears (s : State) (l : Fin 8) (type session : Byte) (body : List Byte) (crc : Word32) : Prop where
  live    : s.blk.resetLine = false
  crc     : unitCrcGood type session body crc = true
  nonzero : session ≠ 0
  session : (s.blk.lane l).sessionNumber = session.toNat

/-- The frame whose visit is open in the exchange in flight for a campaign: its FETCH was sent and its result has not come (R20, R106). -/
def Lane.visitOf (ln : Lane) (c : Campaign) : Option Nat :=
  if ln.item.map Item.owner = some (.campaign c.id) then ln.exchange.openVisit else none

/-- A campaign after the third stall on a frame, before its state changes (R93, R103, R104, R106): code 3 is counted and the resume point moves on. -/
def Campaign.unreadable (c : Campaign) (noted : ClassSet) : Campaign :=
  { c with
    counts := { c.counts with uncomparable := c.counts.uncomparable + 1 }
    resumePoint := c.resumePoint.bind (fun p => if 0 < c.step ∧ p + c.step ≤ c.windowLast then some (p + c.step) else none)
    frameRestarts := 0
    noted := c.noted ||| noted }

/-- What the departure of a lane leaves of its head campaign `c`, of the record of the frame it was visiting, and of the other campaigns (R20, R106, R110, R112, R113): `b` is the part before
and `after` behind it, `stalled` says that a stall event took the lane, and `goes` is the change of the campaign's state by the lane's next state. -/
structure Block.Departs (b after : Block) (l : Fin 8) (c : Campaign) (stalled : Bool) (goes : Campaign → Campaign) : Prop where
  /-- The campaigns behind the head and those of other lanes stay (R113). -/
  others : ∀ id, id ≠ c.id → after.campaign id = b.campaign id
  /-- A campaign that has become HELD has sent CAMPAIGN_CHANGED (R115, R121). -/
  told : ∀ d, after.campaign c.id = some d → d.state = .held → c.state ≠ .held →
    ∃ h, d.heldCause = some h ∧ .campaignChanged c.id c.lane c.slot .held h.cause d.resumePoint d.counts ∈ after.port.raised
  /-- No visit is open: its state follows the lane's, and nothing else of it changes (R110, R112, R113). -/
  unvisited : (b.lane l).visitOf c = none → after.campaign c.id = some (goes c)
  /-- The visit is abandoned; the first and the second stall on the frame are counted (R106, R110, R113). -/
  abandoned : ∀ frame, (b.lane l).visitOf c = some frame → stalled = false ∨ c.frameRestarts < 2 →
    after.campaign c.id = some (goes { c with frameRestarts := if stalled then c.frameRestarts + 1 else c.frameRestarts })
  /-- The third stall on the frame makes an UNREADABLE event, whose answer may hold the campaign (R106, R115, R116). -/
  unreadable : ∀ frame, (b.lane l).visitOf c = some frame → stalled = true → 2 ≤ c.frameRestarts →
    let d := b.recorder.judge c.profile c.disregard FindingClass.unreadable.set
    (d.outcome = .goOn → d.recognised = 0 ∨ b.recorder.logsNow = true → after.campaign c.id = some (goes (c.unreadable d.noted))) ∧
    (d.outcome = .halt ∨ (d.recognised ≠ 0 ∧ b.recorder.logsNow = false) → after.campaign c.id = some { c.unreadable d.noted with
      state := .held, heldCause := some (if b.recorder.logsNow then .finding else .logFull), haltCode := d.haltCode <|> c.haltCode,
      pendingFinding := c.pendingFinding || !b.recorder.logsNow }) ∧
    (d.recognised ≠ 0 → after.recorder.flags = b.recorder.flags ||| d.noted) ∧
    (d.recognised ≠ 0 → b.recorder.logsNow = true → ∃ f, after.recorder.log.getLast? = some f ∧ f.sequence = some b.recorder.nextSequence ∧ f.cls = .unreadable ∧
      f.campaign = c.id ∧ f.lane = c.lane ∧ f.slot = c.slot ∧ f.frame = some frame ∧ f.verdict = some .uncomparable)
  /-- The visit-abandoned claim, or the verdict claim of the third stall, has cleared the visiting mark (R20, R21). -/
  cleared : ∀ frame r, (b.lane l).visitOf c = some frame → b.store.record c.slot frame = some r → ∃ r', after.store.record c.slot frame = some r' ∧
    r'.visiting = false ∧ r'.last = if stalled = true ∧ 2 ≤ c.frameRestarts then some .uncomparable else r.last

/-- A reply that lists items after a fixed part (R215; log entry 9): one byte with the number of the items sent, then those items, the first of the list in
order, and as many whole ones as fit in a body of 1,024 bytes behind its status byte. -/
def ListReply (fixed : List Byte) (items : List (List Byte)) (results : List Byte) : Prop :=
  ∃ n, n ≤ items.length ∧ results = fixed ++ [BitVec.ofNat 8 n] ++ (items.take n).flatten ∧ results.length ≤ 1023 ∧
    (n < items.length → 1023 < (fixed ++ [BitVec.ofNat 8 n] ++ (items.take (n + 1)).flatten).length)

end Sys2Proof.Machine
end

