-- ==== Sys2Proof/Laws/Memory.lean ====
section
/-! SUPPORT. Staging memory: a write keeps the canonical form, and a byte read after it is the byte written or the byte before. -/
namespace Sys2Proof.Machine

theorem Memory.wfAbove_cons (lo : Option Nat) (k : Nat) (v : Byte) (t : List Host.Cell) :
    Memory.wfAbove lo ((k, v) :: t) = true ↔ (∀ l, lo = some l → l < k) ∧ v ≠ Memory.unlisted ∧ Memory.wfAbove (some k) t = true := by
  cases lo <;> simp [Memory.wfAbove, and_assoc]

theorem Memory.wfAbove_mono {lo lo' : Option Nat} {m : List Host.Cell} (h : Memory.wfAbove lo m = true)
    (hl : ∀ l', lo' = some l' → ∃ l, lo = some l ∧ l' ≤ l) : Memory.wfAbove lo' m = true := by
  cases m with
  | nil => cases lo' <;> rfl
  | cons c t =>
    obtain ⟨k, v⟩ := c
    rw [Memory.wfAbove_cons] at h ⊢
    refine ⟨fun l' e => ?_, h.2.1, h.2.2⟩
    obtain ⟨l, e1, e2⟩ := hl l' e
    exact Nat.lt_of_le_of_lt e2 (h.1 l e1)

theorem Memory.write_wfAbove (m : List Host.Cell) : ∀ (lo : Option Nat) (a : Nat) (b : Byte), Memory.wfAbove lo m = true →
    (∀ l, lo = some l → l < a) → Memory.wfAbove lo (Memory.write m a b) = true := by
  induction m with
  | nil =>
    intro lo a b _ hl
    unfold Memory.write
    split
    · cases lo <;> rfl
    · next hb => exact (Memory.wfAbove_cons lo a b []).2 ⟨hl, hb, rfl⟩
  | cons c t ih =>
    obtain ⟨k, v⟩ := c
    intro lo a b hw hl
    have hc := (Memory.wfAbove_cons lo k v t).1 hw
    unfold Memory.write
    split
    · next hak =>
      split
      · exact hw
      · next hb =>
        refine (Memory.wfAbove_cons lo a b _).2 ⟨hl, hb, (Memory.wfAbove_cons _ k v t).2 ⟨?_, hc.2⟩⟩
        intro l e; cases e; exact hak
    · next hak =>
      split
      · next hk =>
        subst hk
        split
        · refine Memory.wfAbove_mono hc.2.2 ?_
          intro l e
          exact ⟨a, rfl, Nat.le_of_lt (hl l e)⟩
        · next hb => exact (Memory.wfAbove_cons lo a b t).2 ⟨hl, hb, hc.2.2⟩
      · next hk =>
        refine (Memory.wfAbove_cons lo k v _).2 ⟨hc.1, hc.2.1, ih (some k) a b hc.2.2 ?_⟩
        intro l e; cases e; omega

/-- A write keeps the canonical form. -/
theorem Memory.write_wf {m : List Host.Cell} (h : Memory.wf m = true) (a : Nat) (b : Byte) : Memory.wf (Memory.write m a b) = true :=
  Memory.write_wfAbove m none a b h (fun _ e => by cases e)

theorem Memory.read_below {m : List Host.Cell} : ∀ {k a : Nat}, Memory.wfAbove (some k) m = true → a ≤ k → Memory.read m a = Memory.unlisted := by
  induction m with
  | nil => intros; rfl
  | cons c t ih =>
    obtain ⟨j, v⟩ := c
    intro k a h ha
    have hc := (Memory.wfAbove_cons _ j v t).1 h
    have hj := hc.1 k rfl
    have : j ≠ a := by omega
    simp only [Memory.read, this, if_false]
    exact ih hc.2.2 (by omega)

theorem Memory.read_write_above (m : List Host.Cell) : ∀ (lo : Option Nat) (a : Nat) (b : Byte) (x : Nat), Memory.wfAbove lo m = true →
    Memory.read (Memory.write m a b) x = if x = a then b else Memory.read m x := by
  induction m with
  | nil =>
    intro lo a b x _
    unfold Memory.write
    split
    · next hb => by_cases hx : x = a <;> simp [Memory.read, hb, hx]
    · by_cases hx : x = a
      · simp [Memory.read, hx]
      · have : a ≠ x := fun e => hx e.symm
        simp [Memory.read, hx, this]
  | cons c t ih =>
    obtain ⟨k, v⟩ := c
    intro lo a b x hw
    have hc := (Memory.wfAbove_cons lo k v t).1 hw
    unfold Memory.write
    split
    · next hak =>
      have hlow : Memory.read ((k, v) :: t) a = Memory.unlisted :=
        Memory.read_below (k := a) ((Memory.wfAbove_cons _ k v t).2 ⟨fun l e => by cases e; exact hak, hc.2⟩) (Nat.le_refl a)
      split
      · next hb =>
        by_cases hx : x = a
        · subst hx; simp [hb, hlow]
        · simp [hx]
      · by_cases hx : x = a
        · simp [Memory.read, hx]
        · have : a ≠ x := fun e => hx e.symm
          simp only [Memory.read, hx, this, if_false]
    · next hak =>
      split
      · next hk =>
        subst hk
        have hlow : Memory.read t a = Memory.unlisted := Memory.read_below hc.2.2 (Nat.le_refl a)
        split
        · next hb =>
          by_cases hx : x = a
          · subst hx; simp [hb, hlow]
          · have : a ≠ x := fun e => hx e.symm
            simp [Memory.read, hx, this]
        · by_cases hx : x = a
          · simp [Memory.read, hx]
          · have : a ≠ x := fun e => hx e.symm
            simp [Memory.read, hx, this]
      · next hk =>
        by_cases hx : x = k
        · subst hx
          have : x ≠ a := fun e => hk e.symm
          simp [Memory.read, this]
        · have : k ≠ x := fun e => hx e.symm
          simp only [Memory.read, this, if_false]
          exact ih (some k) a b x hc.2.2

/-- What a byte reads as after a write. -/
theorem Memory.read_write {m : List Host.Cell} (h : Memory.wf m = true) (a : Nat) (b : Byte) (x : Nat) :
    Memory.read (Memory.write m a b) x = if x = a then b else Memory.read m x :=
  Memory.read_write_above m none a b x h

/-- Staging a run of bytes keeps the canonical form. -/
theorem stageBytes_wf (extents : List Nat) (bs : List Byte) : ∀ (i : Nat) (m : List Host.Cell), Memory.wf m = true →
    Memory.wf (stageBytes extents i bs m) = true := by
  induction bs with
  | nil => intro i m h; exact h
  | cons b bs ih =>
    intro i m h
    unfold stageBytes
    apply ih
    split
    · exact Memory.write_wf h _ _
    · exact h

/-- Staging a run of bytes leaves every byte outside the addresses it stages to as it was. -/
theorem stageBytes_read_other (extents : List Nat) (bs : List Byte) : ∀ (i : Nat) (m : List Host.Cell) (x : Nat), Memory.wf m = true →
    (∀ j, i ≤ j → j < i + bs.length → stagingAddress extents j ≠ some x) →
    Memory.read (stageBytes extents i bs m) x = Memory.read m x := by
  induction bs with
  | nil => intros; rfl
  | cons b bs ih =>
    intro i m x h hx
    have h0 : stagingAddress extents i ≠ some x := hx i (Nat.le_refl i) (by simp)
    unfold stageBytes
    rw [ih]
    · split
      · next a e =>
        rw [Memory.read_write h]
        have : x ≠ a := fun e' => h0 (by rw [e, e'])
        simp [this]
      · rfl
    · split
      · exact Memory.write_wf h _ _
      · exact h
    · intro j h1 h2
      exact hx j (by omega) (by simp only [List.length_cons]; omega)

end Sys2Proof.Machine
end

