-- ==== Sys2Proof/Laws/Inner.lean ====
section
/-! SUPPORT. What the blocks' own moves can do, said once: `Inner b c` holds when `c` comes from `b` by moves of the lanes, the pool, the scheduler, the recorder and the
repair engine. The port only has notices raised; the staging memory, the capture slots, the clock, the profiles, the duty mode, the pool's free count, the ids of the campaign
table and what identifies each manifest stay; the bounds of the lanes, of the log and of the Suspect List are kept. -/
namespace Sys2Proof.Machine

/-! ## Bounds that the blocks keep -/

/-- The settings that only SET LANE changes: all but the ceiling (R48, R65, R193). -/
def LaneSettings.fixed (st : LaneSettings) : LaneSettings := { st with ceiling := 0 }

/-- A change of a lane that keeps its bounds and its fixed settings. -/
structure Lane.Kept (ln ln' : Lane) : Prop where
  sound    : ln.Sound → ln'.Sound
  settings : ln'.settings.fixed = ln.settings.fixed

theorem Lane.kept_same {ln ln' : Lane} (h1 : ln'.nextSession = ln.nextSession) (h2 : ln'.restarts = ln.restarts)
    (h3 : ln'.session = ln.session) (h4 : ln'.settings = ln.settings) : Lane.Kept ln ln' :=
  ⟨fun h => ⟨h1 ▸ h.next, h2 ▸ h.restarts, h3 ▸ h.session⟩, by rw [h4]⟩

theorem Lane.kept_end {ln ln' : Lane} (h1 : ln'.nextSession = ln.nextSession) (h2 : ln'.restarts = ln.restarts)
    (h3 : ln'.session = none) (h4 : ln'.settings = ln.settings) : Lane.Kept ln ln' :=
  ⟨fun h => ⟨h1 ▸ h.next, h2 ▸ h.restarts, fun s e => by rw [h3] at e; cases e⟩, by rw [h4]⟩

theorem Lane.kept_clear {ln ln' : Lane} (h1 : ln'.nextSession = ln.nextSession) (h2 : ln'.restarts = 0)
    (h3 : ln'.session = ln.session) (h4 : ln'.settings = ln.settings) : Lane.Kept ln ln' :=
  ⟨fun h => ⟨h1 ▸ h.next, by rw [h2]; exact Nat.zero_le 3, h3 ▸ h.session⟩, by rw [h4]⟩

/-- Two changes of one lane are one. -/
theorem Block.updLane_updLane (b : Block) (l : Fin 8) (f g : Lane → Lane) : (b.updLane l f).updLane l g = b.updLane l (fun ln => g (f ln)) := by
  unfold Block.updLane
  simp

/-- What identifies the manifest of a slot, and where its copies lie (R1, R15). -/
def Manifest.fixed (m : Manifest) : Word64 × Word32 × Nat × Nat × Option (Fin 8) × Option (Fin 8) :=
  (m.reel, m.span, m.first, m.count, m.copyA, m.copyB)

/-- A change of the store that keeps the pool's free count and what identifies each slot's manifest. -/
structure Store.Kept (st st' : Store) : Prop where
  free  : st'.free = st.free
  slots : ∀ k, (st'.manifest k).map Manifest.fixed = (st.manifest k).map Manifest.fixed

/-- The Duty Controller's fields that no run of a lane changes (R179). -/
def Duty.fixed (d : Duty) : DutyMode × WakeMode × Option Nat × Nat × Vector Bool 8 × Bool :=
  (d.mode, d.wake, d.holdTimer, d.share, d.eligible, d.repairsInShared)

/-- What the blocks' own moves can do. -/
structure Inner (a b : Block) : Prop where
  staging   : b.staging = a.staging
  capture   : b.capture = a.capture
  clock     : b.clock = a.clock
  epoch     : b.epoch = a.epoch
  resetLine : b.resetLine = a.resetLine
  port      : ∃ ns, b.port = { a.port with raised := a.port.raised ++ ns }
  duty      : b.duty.fixed = a.duty.fixed
  profiles  : b.recorder.profiles = a.recorder.profiles ∧ b.recorder.defaultProfile = a.recorder.defaultProfile
  recorder  : a.recorder.Sound → b.recorder.Sound
  ids       : b.sched.table.map Campaign.id = a.sched.table.map Campaign.id ∧ b.sched.nextId = a.sched.nextId
  suspects  : a.repair.list.length ≤ 128 → b.repair.list.length ≤ 128
  policy    : b.repair.rewriteEnabled = a.repair.rewriteEnabled
  store     : Store.Kept a.store b.store
  lanes     : ∀ l, Lane.Kept (a.lane l) (b.lane l)

theorem Lane.Kept.refl (ln : Lane) : Lane.Kept ln ln := ⟨id, rfl⟩

theorem Lane.Kept.trans {x y z : Lane} (h : Lane.Kept x y) (k : Lane.Kept y z) : Lane.Kept x z :=
  ⟨fun s => k.sound (h.sound s), k.settings.trans h.settings⟩

theorem Store.Kept.refl (st : Store) : Store.Kept st st := ⟨rfl, fun _ => rfl⟩

theorem Store.Kept.trans {x y z : Store} (h : Store.Kept x y) (k : Store.Kept y z) : Store.Kept x z :=
  ⟨k.free.trans h.free, fun j => (k.slots j).trans (h.slots j)⟩

theorem Inner.refl (b : Block) : Inner b b where
  staging := rfl
  capture := rfl
  clock := rfl
  epoch := rfl
  resetLine := rfl
  port := ⟨[], by simp⟩
  duty := rfl
  profiles := ⟨rfl, rfl⟩
  recorder := id
  ids := ⟨rfl, rfl⟩
  suspects := id
  policy := rfl
  store := Store.Kept.refl _
  lanes := fun _ => Lane.Kept.refl _

/-! ## One field at a time -/

section
variable {a b : Block}

theorem Inner.lanesTo (h : Inner a b) {ls : Vector Lane 8} (hl : ∀ l, Lane.Kept (b.lane l) ({ b with lanes := ls }.lane l)) :
    Inner a { b with lanes := ls } :=
  { h with lanes := fun l => (h.lanes l).trans (hl l) }

theorem Inner.updLane (h : Inner a b) (l : Fin 8) {f : Lane → Lane} (hf : Lane.Kept (b.lane l) (f (b.lane l))) : Inner a (b.updLane l f) :=
  h.lanesTo fun m => by
    show Lane.Kept (b.lane m) ((b.updLane l f).lane m)
    rw [Block.lane_updLane]
    split
    · next e => subst e; exact hf
    · exact Lane.Kept.refl _

theorem Inner.pool (h : Inner a b) (p : Pool) : Inner a { b with pool := p } := { h with }

theorem Inner.updPool (h : Inner a b) (f : Pool → Pool) : Inner a (b.updPool f) := h.pool _

theorem Inner.asks (h : Inner a b) (ls : List (Fin 8)) : Inner a { b with asks := ls } := { h with }

theorem Inner.ask (h : Inner a b) (l : Fin 8) : Inner a (b.ask l) := by
  unfold Block.ask; split
  · exact h
  · exact h.asks _

theorem Inner.storeTo (h : Inner a b) {st : Store} (hs : Store.Kept b.store st) : Inner a { b with store := st } :=
  { h with store := h.store.trans hs }

theorem Inner.updStore (h : Inner a b) {f : Store → Store} (hs : Store.Kept b.store (f b.store)) : Inner a (b.updStore f) := h.storeTo hs

theorem Inner.repairTo (h : Inner a b) {r : RepairEngine} (hl : r.list.length ≤ b.repair.list.length)
    (hp : r.rewriteEnabled = b.repair.rewriteEnabled) : Inner a { b with repair := r } :=
  { h with suspects := fun s => Nat.le_trans hl (h.suspects s), policy := hp.trans h.policy }

theorem Inner.updRepair (h : Inner a b) {f : RepairEngine → RepairEngine} (hl : (f b.repair).list.length ≤ b.repair.list.length)
    (hp : (f b.repair).rewriteEnabled = b.repair.rewriteEnabled) : Inner a (b.updRepair f) := h.repairTo hl hp

theorem Inner.updEntry (h : Inner a b) (k : EntryKey) (f : Entry → Entry) : Inner a (b.updEntry k f) :=
  h.repairTo (by simp [RepairEngine.upd]) rfl

theorem Inner.dutyTo (h : Inner a b) {d : Duty} (hd : d.fixed = b.duty.fixed) : Inner a { b with duty := d } :=
  { h with duty := hd.trans h.duty }

theorem Inner.updDuty (h : Inner a b) {f : Duty → Duty} (hd : (f b.duty).fixed = b.duty.fixed) : Inner a (b.updDuty f) := h.dutyTo hd

theorem Inner.raise (h : Inner a b) (n : Notice) : Inner a (b.raise n) := by
  have hp : ∃ ns, (b.raise n).port = { a.port with raised := a.port.raised ++ ns } := by
    obtain ⟨ns, e⟩ := h.port
    exact ⟨ns ++ [n], by simp [e]⟩
  exact { h with port := hp }

theorem Inner.schedTo (h : Inner a b) {sc : Scheduler} (hi : sc.table.map Campaign.id = b.sched.table.map Campaign.id)
    (hn : sc.nextId = b.sched.nextId) : Inner a { b with sched := sc } :=
  { h with ids := ⟨hi.trans h.ids.1, hn.trans h.ids.2⟩ }

theorem Inner.updCampaign (h : Inner a b) (id : Nat) {f : Campaign → Campaign} (hf : ∀ c, (f c).id = c.id) : Inner a (b.updCampaign id f) :=
  h.schedTo (by
    simp only [Scheduler.upd, List.map_map]
    apply List.map_congr_left
    intro c _
    simp only [Function.comp]
    split
    · exact hf c
    · rfl) rfl

theorem Inner.recorderTo (h : Inner a b) {r : Recorder} (hp : r.profiles = b.recorder.profiles) (hd : r.defaultProfile = b.recorder.defaultProfile)
    (hs : b.recorder.Sound → r.Sound) : Inner a { b with recorder := r } :=
  { h with profiles := ⟨hp.trans h.profiles.1, hd.trans h.profiles.2⟩, recorder := fun s => hs (h.recorder s) }

theorem Inner.updRecorder (h : Inner a b) {f : Recorder → Recorder} (hp : (f b.recorder).profiles = b.recorder.profiles)
    (hd : (f b.recorder).defaultProfile = b.recorder.defaultProfile) (hs : b.recorder.Sound → (f b.recorder).Sound) : Inner a (b.updRecorder f) :=
  h.recorderTo hp hd hs

end

theorem Inner.foldl {α : Type} {a : Block} {f : Block → α → Block} (hf : ∀ b x, Inner a b → Inner a (f b x)) :
    ∀ (xs : List α) {b : Block}, Inner a b → Inner a (xs.foldl f b)
  | [], _, h => h
  | x :: xs, b, h => Inner.foldl hf xs (hf b x h)

theorem Inner.trans {a b c : Block} (h : Inner a b) (k : Inner b c) : Inner a c where
  staging := k.staging.trans h.staging
  capture := k.capture.trans h.capture
  clock := k.clock.trans h.clock
  epoch := k.epoch.trans h.epoch
  resetLine := k.resetLine.trans h.resetLine
  port := by
    obtain ⟨ns, e⟩ := h.port
    obtain ⟨ms, e'⟩ := k.port
    exact ⟨ns ++ ms, by rw [e', e]; simp⟩
  duty := k.duty.trans h.duty
  profiles := ⟨k.profiles.1.trans h.profiles.1, k.profiles.2.trans h.profiles.2⟩
  recorder := fun s => k.recorder (h.recorder s)
  ids := ⟨k.ids.1.trans h.ids.1, k.ids.2.trans h.ids.2⟩
  suspects := fun s => k.suspects (h.suspects s)
  policy := k.policy.trans h.policy
  store := h.store.trans k.store
  lanes := fun l => (h.lanes l).trans (k.lanes l)

/-! ## The store's claims -/

theorem Store.Kept.updManifest (st : Store) (k : Fin 16) {f : Manifest → Manifest} (hf : ∀ m, (f m).fixed = m.fixed) :
    Store.Kept st (st.updManifest k f) :=
  ⟨rfl, fun j => by
    rw [Store.manifest_updManifest]
    split
    · next e => subst e; cases st.manifest j <;> simp [hf]
    · rfl⟩

theorem Manifest.updRecord_fixed (m : Manifest) (n : Nat) (f : FrameRecord → FrameRecord) : (m.updRecord n f).fixed = m.fixed := by
  unfold Manifest.updRecord; split <;> rfl

theorem Store.Kept.updRecord (st : Store) (k : Fin 16) (n : Nat) (f : FrameRecord → FrameRecord) : Store.Kept st (st.updRecord k n f) :=
  Store.Kept.updManifest st k fun m => Manifest.updRecord_fixed m n f

theorem Store.Kept.queueClaim (st : Store) (k : Fin 16) (n : Nat) : Store.Kept st (st.queueClaim k n) :=
  (Store.Kept.updRecord st k n _).trans (Store.Kept.updManifest _ k fun _ => rfl)

theorem Store.Kept.unqueueClaim (st : Store) (k : Fin 16) (n : Nat) : Store.Kept st (st.unqueueClaim k n) :=
  (Store.Kept.updRecord st k n _).trans (Store.Kept.updManifest _ k fun _ => rfl)

theorem Store.Kept.repairOutcome (st : Store) (k : Fin 16) (n : Nat) (o : RecordState) (d : Option Detail) : Store.Kept st (st.repairOutcome k n o d) :=
  (Store.Kept.updRecord st k n _).trans (Store.Kept.updManifest _ k fun _ => rfl)

theorem Store.Kept.flagClaim (st : Store) (k : Fin 16) : Store.Kept st (st.flagClaim k) :=
  Store.Kept.updManifest _ k fun m => by split <;> rfl

end Sys2Proof.Machine
end

