-- ==== Sys2Proof/Laws/Moves.lean ====
section
/-! SUPPORT. Every move of the lanes, the scheduler, the recorder, the repair engine and the arbiter is an `Inner` move: one lemma for each. -/
namespace Sys2Proof.Machine
variable {a b : Block}

/-! ## Shared operations -/

theorem Inner.send (h : Inner a b) (l : Fin 8) (u : SentUnit) : Inner a (b.send l u) := .updLane h l (Lane.kept_same rfl rfl rfl rfl)

theorem Inner.startStall (h : Inner a b) (l : Fin 8) : Inner a (b.startStall l) := .updLane h l (Lane.kept_same rfl rfl rfl rfl)

theorem Inner.restartStall (h : Inner a b) (l : Fin 8) : Inner a (b.restartStall l) := by
  unfold Block.restartStall; split
  · exact .startStall h l
  · exact h

theorem Inner.regate (h : Inner a b) (l : Fin 8) : Inner a (b.regate l) := by
  unfold Block.regate
  split
  · split
    · dsimp only
      split
      · exact .ask (.updLane h l (Lane.kept_same rfl rfl rfl rfl)) l
      · exact .updLane h l (Lane.kept_same rfl rfl rfl rfl)
    · exact h
  · exact h

theorem Inner.endPacing (h : Inner a b) (l : Fin 8) : Inner a (b.endPacing l) := by
  unfold Block.endPacing
  split
  · exact .regate (.updLane h l (Lane.kept_same rfl rfl rfl rfl)) l
  · exact h

/-! ## The Repair Engine -/

theorem Inner.startEntry (h : Inner a b) (e : Entry) (ctx : Fin 4) : Inner a (b.startEntry e ctx) :=
  .ask (.updRepair (.updEntry (.updStore h (Store.Kept.updRecord _ _ _ _)) e.key _) (Nat.le_refl _) rfl) e.source

theorem Inner.passFrom : ∀ (ks : List EntryKey) {b : Block}, Inner a b → Inner a (Block.passFrom ks b)
  | [], _, h => h
  | k :: ks, b, h => by
    unfold Block.passFrom
    split
    · exact Inner.passFrom ks h
    · split
      · split
        · exact h
        · split
          · split
            · exact Inner.passFrom ks (h.startEntry _ _)
            · exact Inner.passFrom ks h
          · exact h
      · exact Inner.passFrom ks h

theorem Inner.startPass (h : Inner a b) : Inner a b.startPass := Inner.passFrom _ h

theorem Inner.freeEntry (h : Inner a b) (k : EntryKey) : Inner a (b.freeEntry k) := by
  unfold Block.freeEntry; split
  · exact h
  · exact .updEntry (.updRepair h (Nat.le_refl _) rfl) k _

theorem Inner.entryToWaiting (h : Inner a b) (k : EntryKey) : Inner a (b.entryToWaiting k) :=
  .startPass (.updEntry (.updStore (.freeEntry h k) (Store.Kept.updRecord _ _ _ _)) k _)

theorem RepairEngine.remove_le (r : RepairEngine) (k : EntryKey) : (r.remove k).list.length ≤ r.list.length :=
  List.length_filter_le _ _

theorem Inner.settleEntry (h : Inner a b) (k : EntryKey) (o : RecordState) (d : Option Detail) : Inner a (b.settleEntry k o d) := by
  unfold Block.settleEntry
  split
  · exact h
  · dsimp only
    exact .startPass (.raise (.updRepair (.freeEntry (.updStore h (Store.Kept.repairOutcome _ _ _ _ _)) k) (RepairEngine.remove_le _ _) rfl) _)

theorem Inner.rewriteTest (h : Inner a b) (k : EntryKey) : Inner a (b.rewriteTest k) := by
  unfold Block.rewriteTest
  split
  · exact h
  · split
    · split
      · exact .settleEntry h k _ _
      · split
        · split
          · exact .settleEntry h k _ _
          · exact .ask h _
        · exact h
    · exact h

theorem Inner.sourceFailed (h : Inner a b) (k : EntryKey) : Inner a (b.sourceFailed k) := by
  unfold Block.sourceFailed
  dsimp only
  split
  · exact .updEntry h k _
  · split
    · exact .entryToWaiting (.updEntry h k _) k
    · exact .settleEntry (.updEntry h k _) k _ _

theorem Inner.rewriteFailed (h : Inner a b) (k : EntryKey) : Inner a (b.rewriteFailed k) := by
  unfold Block.rewriteFailed
  dsimp only
  split
  · exact .updEntry h k _
  · split
    · exact .rewriteTest (.updEntry h k _) k
    · exact .settleEntry (.updEntry h k _) k _ _

theorem Inner.sourceSound (h : Inner a b) (k : EntryKey) : Inner a (b.sourceSound k) := .rewriteTest (.updEntry h k _) k

theorem Inner.dropEntry (h : Inner a b) (k : EntryKey) : Inner a (b.dropEntry k) :=
  .updRepair (.updStore h (Store.Kept.unqueueClaim _ _ _)) (RepairEngine.remove_le _ _) rfl

theorem Inner.stepEnded (h : Inner a b) (k : EntryKey) (x : Exchange) (why : Departure) : Inner a (b.stepEnded k x why) := by
  unfold Block.stepEnded
  split
  · exact h
  · split
    · split
      · exact .sourceFailed h k
      · exact .sourceFailed h k
      · exact .entryToWaiting h k
      · exact .entryToWaiting h k
    · split
      · exact .rewriteFailed (.updEntry h k _) k
      · exact .rewriteTest (.updEntry h k _) k
    · exact .updEntry h k _
    · exact h
    · exact h

theorem Inner.leftService (h : Inner a b) (l : Fin 8) : Inner a (b.leftService l) :=
  Inner.foldl (fun _ e k => k.entryToWaiting e.key) _ h

theorem Inner.enteredService (h : Inner a b) (l : Fin 8) : Inner a (b.enteredService l) :=
  (Inner.foldl (fun _ e k => k.rewriteTest e.key) _ h).startPass

theorem Inner.appendEntry (h : Inner a b) (k : EntryKey) (cause : Option FindingClass) (seq awaits : Option Nat) (damaged source : Fin 8) (allowed : Bool)
    (hr : b.repair.list.length < 128) : Inner a (b.appendEntry k cause seq awaits damaged source allowed) := by
  have h1 := h.updStore (f := fun st => st.queueClaim k.slot k.frame) (Store.Kept.queueClaim b.store k.slot k.frame)
  have hs : (b.appendEntry k cause seq awaits damaged source allowed).repair.list.length ≤ 128 := by
    simp [Block.appendEntry]; omega
  exact { h1 with suspects := fun _ => hs }

theorem Inner.enqueue (h : Inner a b) (k : EntryKey) (cause : Option FindingClass) (seq awaits : Option Nat) (damaged : Fin 8) (allowed : Bool) :
    Inner a (b.enqueue k cause seq awaits damaged allowed) := by
  unfold Block.enqueue
  split
  · exact h
  · split
    · exact h
    · split
      · next hc => exact .startPass (.appendEntry h k cause seq awaits damaged _ allowed hc.1)
      · exact h

theorem Inner.visitCleared (h : Inner a b) (k : Fin 16) (frame : Nat) : Inner a (b.visitCleared k frame) := by
  unfold Block.visitCleared
  split
  · split
    · exact .startPass h
    · exact h
  · exact h

theorem Inner.abandonVisit (h : Inner a b) (k : Fin 16) (frame : Nat) : Inner a (b.abandonVisit k frame) :=
  .visitCleared (.updStore h (Store.Kept.updRecord _ _ _ _)) k frame

theorem Store.Kept.verdictClaim (st : Store) (k : Fin 16) (frame : Nat) (v : Verdict) (ff : Bool) : Store.Kept st (st.verdictClaim k frame v ff) :=
  Store.Kept.updRecord _ _ _ _

theorem Inner.giveVerdict (h : Inner a b) (k : Fin 16) (frame : Nat) (v : Verdict) (ff : Bool) : Inner a (b.giveVerdict k frame v ff) := by
  have h1 := h.updStore (f := fun st => st.verdictClaim k frame v ff) (Store.Kept.verdictClaim _ _ _ _ _)
  unfold Block.giveVerdict
  dsimp only
  split
  · split
    · split
      · exact h1.startPass
      · exact (h1.dropEntry _).startPass
    · exact h1
  · exact h1

/-! ## The Finding Recorder -/

theorem Recorder.Sound.append {r : Recorder} (h : r.Sound) (f : Finding) (hc : r.canAppend = true) : (r.append f).Sound := by
  have hroom : r.log.length < 256 ∨ ∃ g ∈ r.log, g.acknowledged = true := by
    simp only [Recorder.canAppend, Recorder.hasRoom, Bool.and_eq_true, Bool.or_eq_true, decide_eq_true_eq, List.any_eq_true] at hc
    exact hc.1
  have hsub : (if r.log.length < 256 then r.log else r.log.eraseP Finding.acknowledged).Sublist r.log := by
    split
    · exact List.Sublist.refl _
    · exact List.eraseP_sublist
  refine ⟨?_, ?_, ?_⟩
  · simp only [Recorder.append, List.length_append, List.length_singleton]
    split
    · omega
    · next hl =>
      rcases hroom with hr | ⟨g, hg, ha⟩
      · exact absurd hr hl
      · rw [List.length_eraseP_of_mem hg ha]
        have := h.size
        omega
  · simp only [Recorder.append]
    rw [List.pairwise_append]
    refine ⟨h.rising.sublist hsub, List.pairwise_singleton _ _, ?_⟩
    intro x hx y hy
    rw [List.mem_singleton] at hy
    subst hy
    exact h.below x (hsub.subset hx)
  · intro x hx
    simp only [Recorder.append, List.mem_append, List.mem_singleton] at hx
    rcases hx with hx | hx
    · exact Nat.lt_succ_of_lt (h.below x (hsub.subset hx))
    · subst hx; exact Nat.lt_succ_self _

theorem Inner.keepFinding (h : Inner a b) (f : Finding) (wants : Bool) : Inner a (b.keepFinding f wants) := by
  unfold Block.keepFinding
  split
  · next hc =>
    refine Inner.raise (Inner.updRecorder h rfl rfl fun s => ?_) _
    simp only [Recorder.logsNow, Bool.and_eq_true] at hc
    exact s.append f hc.2
  · exact h.updRecorder rfl rfl fun s => ⟨s.size, s.rising, s.below⟩

theorem Inner.takeEvent (h : Inner a b) (c : Campaign) (ev : Event) : Inner a (b.takeEvent c ev).2 := by
  unfold Block.takeEvent
  dsimp only
  split
  · exact h
  · have h1 : ∀ n f w, Inner a ((b.updRecorder (fun r => r.flag n)).keepFinding f w) := fun n f w =>
      Inner.keepFinding (Inner.updRecorder h rfl rfl fun s => ⟨s.size, s.rising, s.below⟩) f w
    dsimp only
    split
    · exact .updStore (h1 _ _ _) (Store.Kept.flagClaim _ _)
    · exact h1 _ _ _

/-! ## The Campaign Scheduler -/

theorem Campaign.advance_id (c : Campaign) : c.advance.id = c.id := rfl
theorem Campaign.skip_id (c : Campaign) : c.skip.id = c.id := rfl

theorem Campaign.skipRun_id (st : Store) : ∀ (n : Nat) (c : Campaign), (Campaign.skipRun st n c).id = c.id
  | 0, _ => rfl
  | n + 1, c => by
    unfold Campaign.skipRun
    split
    · rfl
    · split
      · rfl
      · exact (Campaign.skipRun_id st n c.skip).trans rfl

theorem Inner.chooseNext (h : Inner a b) (id : Nat) : Inner a (b.chooseNext id) :=
  .updCampaign h id fun c => by
    split
    · exact Campaign.skipRun_id _ _ _
    · rfl

theorem Inner.campaignNotice (h : Inner a b) (id : Nat) (cause : CampaignCause) : Inner a (b.campaignNotice id cause) := by
  unfold Block.campaignNotice; split
  · exact .raise h _
  · exact h

theorem Inner.holdCampaign (h : Inner a b) (id : Nat) (cause : HeldCause) : Inner a (b.holdCampaign id cause) := by
  unfold Block.holdCampaign
  exact .campaignNotice (.updCampaign h id fun _ => by rfl) id _

theorem Store.Kept.unpinCampaign (st : Store) (k : Fin 16) : Store.Kept st (st.unpinCampaign k) := Store.Kept.updManifest _ k fun _ => rfl

theorem Inner.closeCampaign (h : Inner a b) (id : Nat) (st : CampaignState) (e : Option EndCause) (cause : CampaignCause) :
    Inner a (b.closeCampaign id st e cause) := by
  unfold Block.closeCampaign; split
  · dsimp only
    exact .ask (.campaignNotice (.updStore (.updCampaign h id fun _ => by rfl) (Store.Kept.unpinCampaign _ _)) id _) _
  · exact h

theorem Inner.releaseCampaign (h : Inner a b) (id : Nat) (cause : CampaignCause) : Inner a (b.releaseCampaign id cause) := by
  unfold Block.releaseCampaign; split
  · exact .ask (.campaignNotice (.updCampaign h id fun _ => by rfl) id _) _
  · exact h

theorem Inner.headTo (h : Inner a b) (l : Fin 8) (st : CampaignState) : Inner a (b.headTo l st) := by
  unfold Block.headTo; split
  · split
    · exact .updCampaign h _ fun _ => by rfl
    · exact h
  · exact h

theorem Inner.headHeld (h : Inner a b) (l : Fin 8) (cause : HeldCause) : Inner a (b.headHeld l cause) := by
  unfold Block.headHeld; split
  · split
    · exact h
    · exact .holdCampaign h _ _
  · exact h

theorem Inner.headReturned (h : Inner a b) (l : Fin 8) : Inner a (b.headReturned l) := by
  unfold Block.headReturned; split
  · split
    · exact .updCampaign h _ fun _ => by rfl
    · exact h
  · exact h

/-! ## Lanes -/

theorem Inner.dropExchange (h : Inner a b) (l : Fin 8) : Inner a (b.dropExchange l) :=
  .updLane (.updPool (.endPacing h l) _) l (Lane.kept_same rfl rfl rfl rfl)

theorem Inner.haltSession (h : Inner a b) (l : Fin 8) : Inner a (b.haltSession l) := by
  unfold Block.haltSession; split
  · exact .updLane (.send h l _) l (Lane.kept_end rfl rfl rfl rfl)
  · exact h

theorem Inner.laneNotice (h : Inner a b) (l : Fin 8) (cause : LaneCause) : Inner a (b.laneNotice l cause) :=
  .raise (.updLane h l (Lane.kept_same rfl rfl rfl rfl)) _

theorem Inner.toReady (h : Inner a b) (l : Fin 8) : Inner a (b.toReady l) := .ask (.updLane h l (Lane.kept_same rfl rfl rfl rfl)) l

theorem Inner.becomeLent (h : Inner a b) (l : Fin 8) (t : ResumeTarget) : Inner a (b.becomeLent l t) :=
  .updLane (.send h l _) l (Lane.kept_end rfl rfl rfl rfl)

theorem Inner.tellLent (h : Inner a b) (l : Fin 8) : Inner a (b.tellLent l) := .leftService (.headTo (.laneNotice h l _) l _) l

theorem Inner.toLent (h : Inner a b) (l : Fin 8) (t : ResumeTarget) : Inner a (b.toLent l t) := .tellLent (.becomeLent h l t) l

theorem Inner.endOwner (h : Inner a b) (l : Fin 8) : Inner a (b.endOwner l) := by
  have h1 := (h.dropExchange l).haltSession l
  unfold Block.endOwner
  dsimp only
  split
  · exact .toLent h1 l _
  · exact .toReady h1 l
  · exact .toReady h1 l
  all_goals exact h1

theorem Inner.campaignEndsSession (h : Inner a b) (c : Campaign) : Inner a (b.campaignEndsSession c) := by
  unfold Block.campaignEndsSession
  split
  · split
    · split
      · exact .abandonVisit (.endOwner h _) _ _
      · exact .endOwner h _
    · exact h
  · exact h

theorem Inner.beginSettling (h : Inner a b) (l : Fin 8) (u : SentUnit) : Inner a (b.beginSettling l u) :=
  .updLane (.send h l u) l (Lane.kept_end rfl rfl rfl rfl)

theorem Inner.enterSettling (h : Inner a b) (l : Fin 8) (u : SentUnit) (cause : LaneCause) : Inner a (b.enterSettling l u cause) :=
  .laneNotice (.beginSettling h l u) l cause

theorem Inner.settled (h : Inner a b) (l : Fin 8) : Inner a (b.settled l) :=
  .ask (.enteredService (.laneNotice (.updLane h l (Lane.kept_clear rfl rfl rfl rfl)) l _) l) l

theorem Inner.putDownByHold (h : Inner a b) (l : Fin 8) (silent : Bool) : Inner a (b.putDownByHold l silent) := by
  have h1 := (h.haltSession l).updLane l (f := fun ln =>
    { ln with state := .off, putDownByHold := true, lastCause := .hold, settleTimer := none, stallTimer := none }) (Lane.kept_same rfl rfl rfl rfl)
  unfold Block.putDownByHold
  cases silent
  · exact .leftService (.laneNotice h1 l _) l
  · exact .leftService h1 l

theorem Inner.wakeLane (h : Inner a b) (l : Fin 8) : Inner a (b.wakeLane l) := by
  unfold Block.wakeLane; split
  · exact .enterSettling (.updLane h l (Lane.kept_clear rfl rfl rfl rfl)) l _ _
  · exact h

theorem Inner.abortCalibration (h : Inner a b) (l : Fin 8) (cause : AbortCause) : Inner a (b.abortCalibration l cause) :=
  .raise (.updDuty h rfl) _

/-! ## Owners -/

theorem Inner.applyAnswer (h : Inner a b) (id : Nat) (ans : Answer) (viaLane : Bool) : Inner a (b.applyAnswer id ans viaLane) := by
  have h1 := h.updCampaign id (f := Campaign.takeAnswer ans) fun _ => rfl
  have h2 : ∀ c, Inner a (if viaLane then (b.updCampaign id (Campaign.takeAnswer ans)).campaignEndsSession c
      else b.updCampaign id (Campaign.takeAnswer ans)) := by
    intro c; split
    · exact h1.campaignEndsSession c
    · exact h1
  unfold Block.applyAnswer
  dsimp only
  split
  · exact h1
  · split
    · exact (h2 _).closeCampaign id _ _ _
    · exact (h2 _).holdCampaign id _
    · split
      · exact (h2 _).holdCampaign id _
      · exact h1

theorem Inner.resultEvent (h : Inner a b) (c : Campaign) (frame : Nat) (v : Verdict) (s : ClassSet) (d : Option Nat) :
    Inner a (b.resultEvent c frame v s d).2 := by
  unfold Block.resultEvent; split
  · exact h
  · exact h.takeEvent _ _

theorem Inner.claimVerdict (h : Inner a b) (c : Campaign) (frame : Nat) (v : Verdict) (ans : Answer) : Inner a (b.claimVerdict c frame v ans) := by
  unfold Block.claimVerdict
  dsimp only
  split
  · exact (h.giveVerdict _ _ _ _).enqueue _ _ _ _ _ _
  · exact h.giveVerdict _ _ _ _

theorem Inner.campaignResult (h : Inner a b) (id frame : Nat) (res : FrameResult) (viaLane : Bool) : Inner a (b.campaignResult id frame res viaLane) := by
  unfold Block.campaignResult
  split
  · exact h
  · exact .applyAnswer (.updCampaign (.claimVerdict (.resultEvent (.updCampaign h id fun _ => by rfl) _ _ _ _ _) _ _ _ _) id Campaign.advance_id) id _ _

theorem Inner.finishItem (h : Inner a b) (l : Fin 8) (id : Nat) : Inner a (b.finishItem l id) := by
  unfold Block.finishItem
  split
  · exact h
  · split
    · exact .toLent (.haltSession h l) l _
    · split
      · exact .toReady (.headTo (.haltSession h l) l _) l
      · exact .chooseNext (.toReady h l) id

theorem Inner.campaignFrameEnds (h : Inner a b) (l : Fin 8) (id frame : Nat) (res : FrameResult) : Inner a (b.campaignFrameEnds l id frame res) :=
  .finishItem (.campaignResult (.dropExchange h l) id frame res true) l id

theorem Inner.identityEvent (h : Inner a b) (id : Nat) : Inner a (b.identityEvent id) := by
  unfold Block.identityEvent
  split
  · exact h
  · exact .applyAnswer (.takeEvent h _ _) id _ _

theorem Inner.campaignHeader (h : Inner a b) (l : Fin 8) (id : Nat) (hd : Word64 × Word32 × Nat × Nat) : Inner a (b.campaignHeader l id hd) := by
  have h1 := h.dropExchange l
  unfold Block.campaignHeader
  dsimp only
  split
  · exact h1
  · split
    · exact .finishItem (.updCampaign h1 id fun _ => by rfl) l id
    · exact .identityEvent h1 id

theorem Inner.campaignSpanMissing (h : Inner a b) (l : Fin 8) (id : Nat) : Inner a (b.campaignSpanMissing l id) := .identityEvent (.dropExchange h l) id

theorem Inner.campaignTrailer (h : Inner a b) (l : Fin 8) (id : Nat) (agrees : Bool) : Inner a (b.campaignTrailer l id agrees) := by
  have h1 := ((h.dropExchange l).updLane l (f := fun ln => { ln with session := none }) (Lane.kept_end rfl rfl rfl rfl)).updCampaign id
    (f := fun c => { c with trailerChecked := true }) fun _ => rfl
  unfold Block.campaignTrailer
  dsimp only
  split
  · exact .toReady h1 l
  · split
    · exact .toReady (.closeCampaign h1 id _ _ _) l
    · apply Inner.toReady
      split
      · exact .closeCampaign (.applyAnswer (.takeEvent h1 _ _) id _ _) id _ _ _
      · exact .applyAnswer (.takeEvent h1 _ _) id _ _

theorem Inner.campaignAnnotation (h : Inner a b) (id : Nat) (kind : Byte) (reel : Word64) (span : Word32) : Inner a (b.campaignAnnotation id kind reel span) := by
  unfold Block.campaignAnnotation
  split
  · exact h
  · exact .applyAnswer (.takeEvent h _ _) id _ _

theorem Inner.makeClaim (h : Inner a b) (c : Claim) : Inner a (b.makeClaim c) := .updPool h _

theorem Inner.claimForEntry (h : Inner a b) (l : Fin 8) (k : EntryKey) (kind : ClaimKind) : Inner a (b.claimForEntry l k kind) := .makeClaim h _

theorem Inner.repairHeader (h : Inner a b) (l : Fin 8) (k : EntryKey) (agrees : Bool) : Inner a (b.repairHeader l k agrees) := by
  have h1 := h.dropExchange l
  unfold Block.repairHeader
  dsimp only
  split
  · exact .endOwner h l
  · split
    · split
      · exact .stepEnded (.endOwner h1 l) k _ _
      · split
        · exact .claimForEntry h1 l k _
        · exact .claimForEntry h1 l k _
        · exact .updLane (.send h1 l _) l (Lane.kept_same rfl rfl rfl rfl)
        · exact .endOwner h1 l
        · exact .endOwner h1 l
    · split
      · exact .sourceFailed (.endOwner h l) k
      · exact .rewriteFailed (.endOwner h l) k
      · exact .rewriteFailed (.endOwner h l) k
      · exact .endOwner h l
      · exact .endOwner h l

/-- What a step's answer does is what its two moves do, in either order. -/
theorem Inner.stepAnswered (h : Inner a b) (l : Fin 8) {act : Block → Block} (acts : ∀ {x : Block}, Inner a x → Inner a (act x)) :
    Inner a (b.stepAnswered l act) := by
  unfold Block.stepAnswered
  split
  · exact .endOwner (acts h) l
  · exact acts (.endOwner h l)

theorem Inner.repairResult (h : Inner a b) (l : Fin 8) (k : EntryKey) (res : FrameResult) : Inner a (b.repairResult l k res) := by
  have h1 := h.endOwner l
  unfold Block.repairResult
  dsimp only
  split
  · exact h1
  · split
    · split
      · exact h.stepAnswered l fun x => x.sourceSound k
      · exact h.stepAnswered l fun x => x.settleEntry k _ _
      · exact h.stepAnswered l fun x => x.settleEntry k _ _
      · exact h.stepAnswered l fun x => x.sourceFailed k
    · split
      · exact (h.settleEntry k _ _).endOwner l
      · exact h.stepAnswered l fun x => x.rewriteFailed k
      · exact h.stepAnswered l fun x => x.rewriteFailed k
      · exact h.stepAnswered l fun x => x.rewriteFailed k
    all_goals exact h1

theorem Inner.repairRewritten (h : Inner a b) (l : Fin 8) (k : EntryKey) : Inner a (b.repairRewritten l k) := by
  have h1 := (h.dropExchange l).updEntry k (fun e => { e with interrupted := false, phase := .readback })
  unfold Block.repairRewritten
  dsimp only
  split
  · exact .updEntry (.endOwner h1 l) k _
  · exact .claimForEntry h1 l k _

theorem Inner.repairRewriteFailed (h : Inner a b) (l : Fin 8) (k : EntryKey) : Inner a (b.repairRewriteFailed l k) := h.stepAnswered l fun x => x.rewriteFailed k

theorem Inner.campaignFrameStalled (h : Inner a b) (id frame : Nat) : Inner a (b.campaignFrameStalled id frame) := by
  unfold Block.campaignFrameStalled
  split
  · exact h
  · split
    · exact .abandonVisit (.updCampaign h id fun _ => by rfl) _ _
    · exact .campaignResult h id frame _ _

theorem Inner.campaignTold (h : Inner a b) (id : Nat) (x : Exchange) (why : Departure) : Inner a (b.campaignTold id x why) := by
  unfold Block.campaignTold
  split
  · exact h
  · split
    · exact .campaignFrameStalled h id _
    all_goals
      split
      · exact .abandonVisit h _ _
      · exact h

theorem Inner.tellOwner (h : Inner a b) (l : Fin 8) (it : Option Item) (x : Exchange) (why : Departure) : Inner a (b.tellOwner l it x why) := by
  unfold Block.tellOwner
  split
  · exact h
  · split
    · exact .campaignTold h _ x why
    · exact .stepEnded h _ x why
    · exact .abortCalibration h l _

/-! ## The arbiter -/

theorem nextNumber_sound {n : Nat} (_ : 1 ≤ n ∧ n ≤ 255) : 1 ≤ nextNumber n ∧ nextNumber n ≤ 255 := by
  unfold nextNumber; split <;> omega

theorem Inner.openSession (h : Inner a b) (l : Fin 8) (kind : SessionKind) (span : Option (Word64 × Word32)) (owner : Owner) :
    Inner a (b.openSession l kind span owner) :=
  .updLane h l ⟨fun s => ⟨nextNumber_sound s.next, s.restarts, fun _ e => by cases e; exact s.next⟩, rfl⟩

theorem Inner.openSpan (h : Inner a b) (l : Fin 8) (kind : SessionKind) (owner : Owner) (m : Manifest) : Inner a (b.openSpan l kind owner m) :=
  .startStall (.updLane (.send (.openSession h l kind _ owner) l _) l (Lane.kept_same rfl rfl rfl rfl)) l

theorem Inner.engage (h : Inner a b) (l : Fin 8) (kind : ItemKind) (owner : Owner) : Inner a (b.engage l kind owner) :=
  .updLane h l (Lane.kept_same rfl rfl rfl rfl)

theorem Inner.fetch (h : Inner a b) (l : Fin 8) (frame : Nat) : Inner a (b.fetch l frame) :=
  .startStall (.updLane (.send h l _) l (Lane.kept_same rfl rfl rfl rfl)) l

theorem Inner.notePacing (h : Inner a b) (l : Fin 8) : Inner a (b.notePacing l) := .updLane h l (Lane.kept_same rfl rfl rfl rfl)

theorem Inner.campaignGranted (h : Inner a b) (c : Claim) (id : Nat) : Inner a (b.campaignGranted c id) := by
  unfold Block.campaignGranted
  split
  · exact .fetch (.notePacing (.updStore h (Store.Kept.updRecord _ _ _ _)) _) _ _
  · dsimp only
    split
    · exact .chooseNext (.toReady (.updCampaign (.updPool h _) id Campaign.skip_id) _) id
    · exact .updPool h _

theorem Inner.grant (h : Inner a b) (i : Fin 4) (c : Claim) (rest : List Claim) : Inner a (b.grant i c rest) := by
  unfold Block.grant
  dsimp only
  split
  · exact .campaignGranted (.updPool h _) c _
  · exact .fetch (.updPool h _) _ _
  · exact .fetch (.updPool h _) _ _

theorem Inner.startStep (h : Inner a b) (l : Fin 8) (e : Entry) : Inner a (b.startStep l e) := by
  unfold Block.startStep
  split
  · exact h
  · exact .updEntry (.openSpan (.engage (.headTo (.haltSession h l) l _) l _ _) l _ _ _) _ _

theorem Inner.openCampaign (h : Inner a b) (l : Fin 8) (c : Campaign) : Inner a (b.openCampaign l c) := by
  unfold Block.openCampaign
  split
  · exact h
  · exact .openSpan (.engage (.updCampaign h _ fun _ => by rfl) l _ _) l _ _ _

theorem Inner.closeSpan (h : Inner a b) (l : Fin 8) (c : Campaign) : Inner a (b.closeSpan l c) :=
  .startStall (.updLane (.send (.engage (.updCampaign h c.id (f := fun x => { x with state := .closing }) fun _ => rfl) l _ _) l _) l (Lane.kept_same rfl rfl rfl rfl)) l

theorem Inner.claimFrame (h : Inner a b) (l : Fin 8) (c : Campaign) (frame : Nat) : Inner a (b.claimFrame l c frame) := .makeClaim (.engage h l _ _) _

theorem Inner.campaignTurn (h : Inner a b) (l : Fin 8) (c : Campaign) : Inner a (b.campaignTurn l c) := by
  unfold Block.campaignTurn
  split
  · exact .openCampaign h l c
  · split
    · exact .closeSpan h l c
    · split
      · exact .claimFrame h l c _
      · exact h
  all_goals exact h

theorem Inner.arbiter (h : Inner a b) (l : Fin 8) : Inner a (b.arbiter l) := by
  unfold Block.arbiter
  split
  · split
    · exact .putDownByHold h l _
    · split
      · exact .startStep h l _
      · split
        · split
          · exact .campaignTurn h l _
          · exact h
        · exact h
  · exact h

theorem Inner.settleFrom : ∀ (n : Nat) {b : Block}, Inner a b → Inner a (Block.settleFrom n b)
  | 0, _, h => h
  | n + 1, b, h => by
    unfold Block.settleFrom
    split
    · exact Inner.settleFrom n (h.grant _ _ _)
    · split
      · exact h
      · exact Inner.settleFrom n ((h.asks _).arbiter _)
    · split
      · exact h
      · exact Inner.settleFrom n ((h.asks _).arbiter _)

theorem Inner.settleWork (h : Inner a b) : Inner a b.settleWork := Inner.settleFrom _ h

/-! ## Stalls, yields, RESUME, put-down -/

theorem Inner.stallBegins (h : Inner a b) (l : Fin 8) : Inner a (b.stallBegins l) := .updLane (.dropExchange h l) l (Lane.kept_same rfl rfl rfl rfl)

theorem Inner.stallYielding (h : Inner a b) (l : Fin 8) (it : Option Item) (x : Exchange) : Inner a (b.stallYielding l it x) :=
  .tellLent (.tellOwner (.becomeLent (.haltSession h l) l _) l it x _) l

theorem Inner.stallRestart (h : Inner a b) (l : Fin 8) (it : Option Item) (x : Exchange) (hr : (b.lane l).restarts < 3) :
    Inner a (b.stallRestart l it x) :=
  .leftService (.headTo (.laneNotice (.tellOwner (.beginSettling (.updLane h l (f := fun ln => { ln with restarts := ln.restarts + 1 }) ⟨fun s => ⟨s.next, hr, s.session⟩, rfl⟩) l _) l it x _) l _) l _) l

theorem Inner.stallNoAnswer (h : Inner a b) (l : Fin 8) (it : Option Item) (x : Exchange) : Inner a (b.stallNoAnswer l it x) :=
  .leftService (.headHeld (.laneNotice (.tellOwner (.updLane h l (f := fun ln => { ln with state := .off, item := none, session := none }) (Lane.kept_end rfl rfl rfl rfl)) l it x _) l _) l _) l

theorem Inner.stallStops (h : Inner a b) (l : Fin 8) (it : Option Item) (x : Exchange) : Inner a (b.stallStops l it x) :=
  .leftService (.headHeld (.laneNotice (.tellOwner (.updLane (.haltSession h l) l (f := fun ln => { ln with state := .stalled, item := none }) (Lane.kept_same rfl rfl rfl rfl)) l it x _) l _) l _) l

/-- Giving an exchange up leaves the restart counter as it was. -/
theorem Block.regate_restarts (b : Block) (l m : Fin 8) : ((b.regate l).lane m).restarts = (b.lane m).restarts := by
  unfold Block.regate
  split
  · split
    · dsimp only
      split
      · rw [Block.ask_lane, Block.lane_updLane]; split
        · next e => subst e; rfl
        · rfl
      · rw [Block.lane_updLane]; split
        · next e => subst e; rfl
        · rfl
    · rfl
  · rfl

theorem Block.dropExchange_restarts (b : Block) (l : Fin 8) : ((b.dropExchange l).lane l).restarts = (b.lane l).restarts := by
  unfold Block.dropExchange
  rw [Block.lane_updLane_self]
  show ((b.endPacing l).lane l).restarts = _
  unfold Block.endPacing
  split
  · rw [Block.regate_restarts, Block.lane_updLane_self]
  · rfl

theorem Inner.stallEvent (h : Inner a b) (l : Fin 8) : Inner a (b.stallEvent l) := by
  have h1 := h.stallBegins l
  unfold Block.stallEvent
  dsimp only
  split
  · exact .stallYielding h1 l _ _
  · split
    · split
      · next hr =>
        refine h1.stallRestart l _ _ ?_
        unfold Block.stallBegins
        rw [Block.lane_updLane_self]
        show ((b.dropExchange l).lane l).restarts < 3
        rw [Block.dropExchange_restarts]
        exact hr
      · exact .stallNoAnswer h1 l _ _
    · exact .stallStops h1 l _ _

theorem Inner.malformed (h : Inner a b) (l : Fin 8) : Inner a (b.malformed l) := by
  unfold Block.malformed; split
  all_goals first | exact .stallEvent h l | exact h

theorem Inner.yieldDrive (h : Inner a b) (l : Fin 8) : Inner a (b.yieldDrive l) :=
  .tellLent (.tellOwner (.becomeLent (.haltSession (.dropExchange h l) l) l _) l _ _ _) l

theorem Inner.yieldTaken (h : Inner a b) (l : Fin 8) : Inner a (b.yieldTaken l) := by
  unfold Block.yieldTaken; split
  case h_8 =>
    split
    · exact .updLane h l (Lane.kept_same rfl rfl rfl rfl)
    · exact .yieldDrive h l
  all_goals first | exact .yieldDrive h l | exact h

theorem Inner.resumeReady (h : Inner a b) (l : Fin 8) : Inner a (b.resumeReady l) :=
  .ask (.enteredService (.headReturned (.laneNotice (.updLane h l (f := fun ln => { ln with state := .ready, resumeTarget := none }) (Lane.kept_same rfl rfl rfl rfl)) l _) l) l) l

theorem Inner.resumeTaken (h : Inner a b) (l : Fin 8) : Inner a (b.resumeTaken l) := by
  unfold Block.resumeTaken; split
  · split
    · exact .headReturned (.enterSettling h l _ _) l
    · exact .resumeReady h l
    · exact h
  all_goals exact h

theorem Inner.putDown (h : Inner a b) (l : Fin 8) : Inner a (b.putDown l) :=
  .leftService (.headHeld (.laneNotice (.tellOwner (.updLane (.haltSession (.dropExchange h l) l) l (f := fun x => { x with state := .off, item := none, putDownByHold := false, settleTimer := none, stallTimer := none, resumeTarget := none }) (Lane.kept_same rfl rfl rfl rfl)) l _ _ _) l _) l _) l

end Sys2Proof.Machine
end

