-- ==== Sys2Proof/Laws/Commands.lean ====
section
/-! SUPPORT. What the reader units, the timers and the changes of duty mode can do: an `Inner` move, beside the one outer field that the lemma names. -/
namespace Sys2Proof.Machine
variable {a b : Block}

/-! ## Reader units -/

theorem Inner.storeCaps (h : Inner a b) (l : Fin 8) (c : Caps) : Inner a (b.storeCaps l c) := h.updLane l (Lane.kept_same rfl rfl rfl rfl)

theorem Inner.helloTaken (h : Inner a b) (l : Fin 8) (c : Caps) : Inner a (b.helloTaken l c) := by
  unfold Block.helloTaken
  dsimp only
  split
  · split
    · exact .settled (.updLane (.storeCaps h l c) l (Lane.kept_same rfl rfl rfl rfl)) l
    · exact .updLane (.storeCaps h l c) l (Lane.kept_same rfl rfl rfl rfl)
  · exact .updLane (.storeCaps h l c) l (Lane.kept_same rfl rfl rfl rfl)
  all_goals first | exact h.malformed l | exact h

theorem Inner.headerEvent (h : Inner a b) (l : Fin 8) (hd : Word64 × Word32 × Nat × Nat) : Inner a (b.headerEvent l hd) := by
  unfold Block.headerEvent; split
  · exact h.campaignHeader l _ hd
  · exact h.repairHeader l _ _
  all_goals exact h

theorem Inner.headerTaken (h : Inner a b) (l : Fin 8) (hd : Word64 × Word32 × Nat × Nat) : Inner a (b.headerTaken l hd) := by
  unfold Block.headerTaken; split
  · exact h.headerEvent l hd
  · exact h.malformed l

theorem Inner.openingMissing (h : Inner a b) (l : Fin 8) : Inner a (b.openingMissing l) := by
  unfold Block.openingMissing; split
  · exact h.campaignSpanMissing l _
  · exact h.repairHeader l _ _
  all_goals exact h

theorem Inner.closingAnswer (h : Inner a b) (l : Fin 8) (t : Option (Word64 × Nat)) : Inner a (b.closingAnswer l t) := by
  unfold Block.closingAnswer; split
  · exact h.campaignTrailer l _ _
  all_goals exact h

theorem Inner.trailerTaken (h : Inner a b) (l : Fin 8) (t : Word64 × Nat) : Inner a (b.trailerTaken l t) := by
  unfold Block.trailerTaken; split
  · exact h.closingAnswer l _
  · exact h.malformed l

theorem Inner.setFrame (h : Inner a b) (l : Fin 8) (f : FrameExchange) : Inner a (b.setFrame l f) := h.updLane l (Lane.kept_same rfl rfl rfl rfl)

theorem Inner.frameResult (h : Inner a b) (l : Fin 8) (frame : Nat) (res : FrameResult) : Inner a (b.frameResult l frame res) := by
  unfold Block.frameResult; split
  · exact h.campaignFrameEnds l _ _ _
  · exact h.repairResult l _ _
  all_goals exact h

theorem Inner.drainEnds (h : Inner a b) (l : Fin 8) : Inner a (b.drainEnds l) := by
  unfold Block.drainEnds; split
  · exact (h.dropExchange l).finishItem l _
  · exact h.endOwner l
  all_goals exact h

theorem Inner.frameBegins (h : Inner a b) (l : Fin 8) (f : FrameExchange) (n : Nat) : Inner a (b.frameBegins l f n) := by
  unfold Block.frameBegins
  exact .restartStall (.updPool (.setFrame h l _) _) l

theorem Inner.frameSubstituted (h : Inner a b) (l : Fin 8) (f : FrameExchange) (d n : Nat) : Inner a (b.frameSubstituted l f d n) := by
  have h2 := ((h.setFrame l { f with phase := .draining, delivered := some d, announced := some n }).updPool (fun p => p.release l)).restartStall l
  unfold Block.frameSubstituted
  dsimp only
  split
  · exact h2.campaignResult _ _ _ _
  · exact h2.repairResult l _ _
  all_goals exact h2

theorem Inner.markTaken (h : Inner a b) (l : Fin 8) (m : Nat × Nat) : Inner a (b.markTaken l m) := by
  unfold Block.markTaken
  split
  · split
    · split
      · split
        · exact h.frameBegins l _ _
        · exact h.frameSubstituted l _ _ _
      · exact h.malformed l
    all_goals exact h.malformed l
  all_goals exact h.malformed l

theorem Inner.regateIfChanged (h : Inner a b) (l : Fin 8) (c : Option Nat) : Inner a (b.regateIfChanged l c) := by
  unfold Block.regateIfChanged; split
  · exact h
  · exact h.regate l

theorem Inner.calibrationEnds (h : Inner a b) (l : Fin 8) : Inner a (b.calibrationEnds l) := by
  unfold Block.calibrationEnds
  dsimp only
  refine .raise (.toReady (.regateIfChanged (.updDuty (.updLane (.haltSession (.dropExchange h l) l) l ?_) ?_) l _) l) _
  · exact ⟨fun s => ⟨s.next, s.restarts, s.session⟩, rfl⟩
  · rfl

theorem Inner.endTaken (h : Inner a b) (l : Fin 8) : Inner a (b.endTaken l ()) := by
  unfold Block.endTaken
  split
  · split
    · exact h.malformed l
    · exact h.frameResult l _ _
    · exact h.drainEnds l
  · split
    · exact h.calibrationEnds l
    · exact h.malformed l
  all_goals exact h.malformed l

theorem Inner.faultTaken (h : Inner a b) (l : Fin 8) (m : Nat × Byte) : Inner a (b.faultTaken l m) := by
  unfold Block.faultTaken
  split
  · split
    · split
      · exact h.frameResult l _ _
      · exact h.malformed l
    · split
      · exact h.frameResult l _ _
      · exact h.malformed l
    · split
      · exact h.drainEnds l
      · exact h.malformed l
  all_goals exact h.malformed l

theorem Inner.frameMissing (h : Inner a b) (l : Fin 8) (f : FrameExchange) (n : Nat) : Inner a (b.frameMissing l f n) := by
  unfold Block.frameMissing
  split
  · split
    · exact h.frameResult l _ _
    · exact h.malformed l
  · exact h.malformed l
  · split
    · exact h.drainEnds l
    · exact h.malformed l

theorem Inner.notFoundTaken (h : Inner a b) (l : Fin 8) (m : Missing) : Inner a (b.notFoundTaken l m) := by
  unfold Block.notFoundTaken
  split
  · split
    · exact h.openingMissing l
    · exact h.malformed l
  · split
    · exact h.closingAnswer l _
    · exact h.malformed l
  · exact h.frameMissing l _ _
  · exact h.malformed l

theorem Inner.rewriteDoneTaken (h : Inner a b) (l : Fin 8) (n : Nat) : Inner a (b.rewriteDoneTaken l n) := by
  unfold Block.rewriteDoneTaken
  split
  · split
    · exact h.repairRewritten l _
    · exact h.malformed l
  · exact h.malformed l

theorem Inner.rewriteFailedTaken (h : Inner a b) (l : Fin 8) (n : Nat) : Inner a (b.rewriteFailedTaken l n) := by
  unfold Block.rewriteFailedTaken
  split
  · split
    · exact h.repairRewriteFailed l _
    · exact h.malformed l
  · exact h.malformed l

/-- A PAYLOAD may write staging, and keeps its canonical form. -/
theorem Block.payloadTaken_inner (l : Fin 8) (body : List Byte) (b : Block) :
    ∃ m, (Memory.wf b.staging = true → Memory.wf m = true) ∧ Inner { b with staging := m } (b.payloadTaken l body) := by
  have self : ∀ c, Inner b c → ∃ m, (Memory.wf b.staging = true → Memory.wf m = true) ∧ Inner { b with staging := m } c :=
    fun c h => ⟨b.staging, id, h⟩
  unfold Block.payloadTaken
  split
  · split
    · exact self _ ((Inner.refl b).malformed l)
    · split
      · have hs : ∃ m, (Memory.wf b.staging = true → Memory.wf m = true) ∧ b.stagePayload l body = { b with staging := m } := by
          unfold Block.stagePayload
          split
          · exact ⟨b.staging, id, rfl⟩
          · split
            · split
              · exact ⟨_, fun hw => stageBytes_wf _ _ _ _ hw, rfl⟩
              · exact ⟨b.staging, id, rfl⟩
            · exact ⟨b.staging, id, rfl⟩
        obtain ⟨m, hm, e⟩ := hs
        refine ⟨m, hm, ?_⟩
        unfold Block.payloadReceived
        dsimp only
        rw [e]
        exact .restartStall (.updPool (.setFrame (Inner.refl _) l _) _) l
      · exact self _ ((Inner.refl b).malformed l)
    · split
      · exact self _ (.restartStall (.setFrame (Inner.refl b) l _) l)
      · exact self _ ((Inner.refl b).malformed l)
  · split
    · refine self _ ?_
      unfold Block.payloadCalibration
      dsimp only
      exact .restartStall (.updDuty (.updLane (Inner.refl b) l (Lane.kept_same rfl rfl rfl rfl)) rfl) l
    · exact self _ ((Inner.refl b).malformed l)
  all_goals exact self _ ((Inner.refl b).malformed l)

theorem Block.captureInto_inner (l : Fin 8) (kind : Byte) (content : List Byte) (passed : Bool) (b : Block) (k : Fin 16) :
    ∃ c, Inner { b with capture := c } (Block.captureInto l kind content passed b k) := by
  unfold Block.captureInto
  dsimp only
  split
  · split
    · split
      · exact ⟨_, Inner.raise (Inner.refl _) _⟩
      · exact ⟨_, Inner.refl _⟩
    · exact ⟨_, Inner.refl _⟩
  · exact ⟨b.capture, Inner.refl _⟩

/-- Moves do not depend on the capture slots: the same move from other slots. -/
theorem Inner.withCapture (h : Inner a b) (c : Vector CaptureSlot 16) : Inner { a with capture := c } { b with capture := c } :=
  { h with capture := rfl }

theorem Block.captureFold_inner (l : Fin 8) (kind : Byte) (content : List Byte) (passed : Bool) :
    ∀ (ks : List (Fin 16)) (b : Block), ∃ c, Inner { b with capture := c } (ks.foldl (Block.captureInto l kind content passed) b)
  | [], b => ⟨b.capture, Inner.refl _⟩
  | k :: ks, b => by
    obtain ⟨c, hc⟩ := Block.captureInto_inner l kind content passed b k
    obtain ⟨d, hd⟩ := Block.captureFold_inner l kind content passed ks (Block.captureInto l kind content passed b k)
    exact ⟨d, (hc.withCapture d).trans hd⟩

/-- An ANNOTATION may write the capture slots. -/
theorem Block.annotationTaken_inner (l : Fin 8) (x : Byte × List Byte × Word16) (b : Block) :
    ∃ c, Inner { b with capture := c } (b.annotationTaken l x) := by
  obtain ⟨c, hc⟩ := Block.captureFold_inner l x.1 x.2.1 (annotationCheck x.1 x.2.1 == x.2.2) allSlots b
  have h1 : Inner { b with capture := c } ((b.captureAnnotation l x.1 x.2.1 (annotationCheck x.1 x.2.1 == x.2.2)).restartStall l) := hc.restartStall l
  refine ⟨c, ?_⟩
  unfold Block.annotationTaken
  dsimp only
  split
  · split
    · exact h1.campaignAnnotation _ _ _ _
    · exact h1
  · exact h1

/-- A session unit either leaves the block as it was, is a stall event, or is taken (R46). -/
theorem Block.sessionUnit_cases {α : Type} (type : Byte) (l : Fin 8) (session : Byte) (body : List Byte) (crc : Word32) (parsed : Option α)
    (f : α → Block → Block) (b : Block) :
    b.sessionUnit type l session body crc parsed f = b ∨ b.sessionUnit type l session body crc parsed f = b.malformed l ∨
      ∃ x, parsed = some x ∧ b.sessionUnit type l session body crc parsed f = f x b := by
  unfold Block.sessionUnit
  split
  · exact Or.inr (Or.inl rfl)
  · split
    · exact Or.inr (Or.inl rfl)
    · split
      · exact Or.inr (Or.inr ⟨_, rfl, rfl⟩)
      · exact Or.inl rfl

/-- A link unit is a stall event or is taken (R46). -/
theorem Block.linkUnit_cases {α : Type} (type : Byte) (l : Fin 8) (session : Byte) (body : List Byte) (crc : Word32) (parsed : Option α)
    (f : α → Block → Block) (b : Block) :
    b.linkUnit type l session body crc parsed f = b.malformed l ∨
      ∃ x, parsed = some x ∧ b.linkUnit type l session body crc parsed f = f x b := by
  unfold Block.linkUnit
  split
  · exact Or.inl rfl
  · split
    · exact Or.inl rfl
    · exact Or.inr ⟨_, rfl, rfl⟩

/-! ## Changes of permission and duty mode -/

theorem Inner.stopItem (h : Inner a b) (l : Fin 8) : Inner a (b.stopItem l) := h.updLane l (Lane.kept_same rfl rfl rfl rfl)

theorem Inner.laneLoses (h : Inner a b) (l : Fin 8) : Inner a (b.laneLoses l) := by
  unfold Block.laneLoses
  split
  · exact h
  · split
    · split
      · exact h.stopItem l
      · exact .updCampaign (h.campaignEndsSession _) _ fun _ => by rfl
    · exact h.stopItem l
    all_goals exact h

theorem Inner.entryLoses (h : Inner a b) (k : EntryKey) : Inner a (b.entryLoses k) := by
  unfold Block.entryLoses
  split
  · exact h
  · split
    · split
      · exact h.entryToWaiting k
      · exact h
    · split
      · exact (h.endOwner _).stepEnded k _ _
      · exact h.stopItem _

theorem Inner.regateAll (h : Inner a b) (before : Duty) : Inner a (b.regateAll before) :=
  Inner.foldl (fun _ l k => k.regateIfChanged l _) _ h

theorem Inner.permissionChange (h : Inner a b) (before : Duty) : Inner a (b.permissionChange before) := by
  have h1 : Inner a ((b.losingLanes before).foldl Block.laneLoses b) := Inner.foldl (fun _ l k => k.laneLoses l) _ h
  have h2 : ∀ ks : List EntryKey, Inner a (ks.foldl Block.entryLoses ((b.losingLanes before).foldl Block.laneLoses b)) := fun ks =>
    Inner.foldl (fun _ e hk => hk.entryLoses e) ks h1
  unfold Block.permissionChange
  dsimp only
  exact .startPass (.regateAll (Inner.foldl (fun _ l k => k.ask l) _ (h2 _)) before)

theorem Inner.dutyNotice (h : Inner a b) (left : DutyMode) (cause : DutyCause) : Inner a (b.dutyNotice left cause) := h.raise _

/-- A part entering HELD: the duty fields change, then the moves follow. -/
theorem Block.enterHeld_inner (b : Block) (wake : WakeMode) (minutes : Nat) : ∃ d, Inner { b with duty := d } (b.enterHeld wake minutes) := by
  refine ⟨{ b.duty with mode := .held, wake := wake, holdTimer := if minutes = 0 then none else some (b.clock + minutes * 60000000) }, ?_⟩
  unfold Block.enterHeld
  dsimp only
  exact .dutyNotice (.settleWork (.permissionChange (Inner.refl _) _)) _ _

theorem Block.leaveHeld_inner (b : Block) (wake : WakeMode) (cause : DutyCause) : ∃ d, Inner { b with duty := d } (b.leaveHeld wake cause) := by
  refine ⟨{ b.duty with mode := wake.mode, wake := wake, holdTimer := none }, ?_⟩
  unfold Block.leaveHeld
  dsimp only
  exact .dutyNotice (Inner.foldl (fun _ l k => k.wakeLane l) _ (.permissionChange (Inner.refl _) _)) _ _

theorem Block.switchDuty_inner (b : Block) (mode : DutyMode) : ∃ d, Inner { b with duty := d } (b.switchDuty mode) := by
  refine ⟨{ b.duty with mode := mode }, ?_⟩
  unfold Block.switchDuty
  dsimp only
  exact .dutyNotice (.permissionChange (Inner.refl _) _) _ _

/-! ## Timers -/

theorem Inner.rewriteSent (h : Inner a b) (l : Fin 8) : Inner a (b.rewriteSent l) := by
  unfold Block.rewriteSent
  split
  · exact .startStall (.updLane (.send (Inner.foldl (fun _ u k => k.send l _) _ h) l _) l (Lane.kept_same rfl rfl rfl rfl)) l
  · exact h

/-- The settle timer moves the clock to its time, if it runs. -/
theorem Block.settleExpires_inner (l : Fin 8) (b : Block) : ∃ t, b.clock ≤ t ∧ Inner { b with clock := t } (b.settleExpires l) := by
  unfold Block.settleExpires
  split
  · exact ⟨b.clock, Nat.le_refl _, Inner.refl _⟩
  · next t _ =>
    refine ⟨max b.clock t, Nat.le_max_left _ _, ?_⟩
    have h1 := (Inner.refl (b.clockTo t)).updLane l (f := fun ln => { ln with settleTimer := none, settleExpired := true }) (Lane.kept_same rfl rfl rfl rfl)
    dsimp only
    split
    · exact h1.settled l
    · exact h1.startStall l

theorem Block.stallExpires_inner (l : Fin 8) (b : Block) : ∃ t, b.clock ≤ t ∧ Inner { b with clock := t } (b.stallExpires l) := by
  unfold Block.stallExpires
  split
  · exact ⟨b.clock, Nat.le_refl _, Inner.refl _⟩
  · exact ⟨_, Nat.le_max_left _ _, (Inner.refl (b.clockTo _)).stallEvent l⟩

theorem Block.gateOpens_inner (l : Fin 8) (b : Block) : ∃ t, b.clock ≤ t ∧ Inner { b with clock := t } (b.gateOpens l) := by
  unfold Block.gateOpens
  split
  · exact ⟨b.clock, Nat.le_refl _, Inner.refl _⟩
  · exact ⟨_, Nat.le_max_left _ _, (Inner.refl (b.clockTo _)).ask l⟩

theorem Block.holdExpires_inner (b : Block) : ∃ t d, b.clock ≤ t ∧ Inner { b with clock := t, duty := d } b.holdExpires := by
  unfold Block.holdExpires
  split
  · exact ⟨b.clock, b.duty, Nat.le_refl _, Inner.refl _⟩
  · next t _ =>
    obtain ⟨d, hd⟩ := Block.leaveHeld_inner (b.clockTo t) b.duty.wake .expiry
    exact ⟨_, d, Nat.le_max_left _ _, hd⟩

theorem Block.freshnessExpires_inner (k : Fin 16) (b : Block) :
    ∃ t c, b.clock ≤ t ∧ Inner { b with clock := t, capture := c } (b.freshnessExpires k) := by
  unfold Block.freshnessExpires
  split
  · exact ⟨b.clock, b.capture, Nat.le_refl _, Inner.refl _⟩
  · exact ⟨_, _, Nat.le_max_left _ _, Inner.refl _⟩

theorem Store.takeRollup_free (st : Store) : st.takeRollup.free = st.free := by
  unfold Store.takeRollup; split <;> rfl

theorem Store.takeRollup_slots (st : Store) : st.takeRollup.slots = st.slots := by
  unfold Store.takeRollup; split <;> rfl

theorem Store.cancelRollup_free (st : Store) (k : Fin 16) : (st.cancelRollup k).free = st.free := by
  unfold Store.cancelRollup; split
  · rw [Store.takeRollup_free]
  · rfl

theorem Store.cancelRollup_slots (st : Store) (k : Fin 16) : (st.cancelRollup k).slots = st.slots := by
  unfold Store.cancelRollup; split
  · rw [Store.takeRollup_slots]
  · rfl

theorem Inner.rollupDone (h : Inner a b) : Inner a b.rollupDone := by
  unfold Block.rollupDone
  split
  · exact h
  · split
    · exact h
    · next k _ _ m hm =>
      dsimp only
      refine .raise (.storeTo h ⟨?_, ?_⟩) _
      · rw [Store.takeRollup_free]; rfl
      · intro j
        have e : (({ b.store.put k (some m.settle) with unit := none } : Store).takeRollup).manifest j = (b.store.put k (some m.settle)).manifest j := by
          unfold Store.manifest
          rw [Store.takeRollup_slots]
        rw [e, Store.manifest_put]
        split
        · next ej => subst ej; rw [hm]; rfl
        · rfl

end Sys2Proof.Machine
end

