-- ==== Sys2Proof/Laws/Settle.lean ====
section
/-! SUPPORT. How a step settles: with nothing asked and no claim to grant it changes nothing, and it always ends with nothing asked and no claim waiting beside a FREE unit. -/
namespace Sys2Proof.Machine

/-! ## A quiet block -/

theorem Block.settleFrom_quiet {b : Block} (h : b.quiet) : ∀ n, Block.settleFrom n b = b
  | 0 => rfl
  | n + 1 => by
    unfold Block.settleFrom
    rcases h.2 with hf | hu
    · rw [hf, h.1]
      split
      · next e => cases e
      · rfl
      · rfl
    · rw [hu, h.1]

/-- A quiet block is left as it is. -/
theorem Block.settleWork_quiet {b : Block} (h : b.quiet) : b.settleWork = b := Block.settleFrom_quiet h _

/-! ## Each turn brings the end nearer -/

/-- Frames ahead of all campaigns. -/
def Scheduler.ahead (sc : Scheduler) : Nat := (sc.table.map Campaign.ahead).sum

theorem Block.turns_eq (b : Block) : b.turns = 2 * b.asks.length + b.pool.fifo.length + 2 * b.sched.ahead := rfl

/-- Moves that ask no arbiter, make no claim and move no resume point back. -/
structure Calm (a b : Block) : Prop where
  asks  : b.asks = a.asks
  fifo  : b.pool.fifo = a.pool.fifo
  ahead : b.sched.ahead ≤ a.sched.ahead
  duty  : b.duty = a.duty

theorem Calm.refl (b : Block) : Calm b b := ⟨rfl, rfl, Nat.le_refl _, rfl⟩

section
variable {a b : Block}

theorem Calm.updLane (h : Calm a b) (l : Fin 8) (f : Lane → Lane) : Calm a (b.updLane l f) := ⟨h.asks, h.fifo, h.ahead, h.duty⟩
theorem Calm.send (h : Calm a b) (l : Fin 8) (u : SentUnit) : Calm a (b.send l u) := ⟨h.asks, h.fifo, h.ahead, h.duty⟩
theorem Calm.startStall (h : Calm a b) (l : Fin 8) : Calm a (b.startStall l) := ⟨h.asks, h.fifo, h.ahead, h.duty⟩
theorem Calm.raise (h : Calm a b) (n : Notice) : Calm a (b.raise n) := ⟨h.asks, h.fifo, h.ahead, h.duty⟩
theorem Calm.updStore (h : Calm a b) (f : Store → Store) : Calm a (b.updStore f) := ⟨h.asks, h.fifo, h.ahead, h.duty⟩
theorem Calm.updEntry (h : Calm a b) (k : EntryKey) (f : Entry → Entry) : Calm a (b.updEntry k f) := ⟨h.asks, h.fifo, h.ahead, h.duty⟩
theorem Calm.updRepair (h : Calm a b) (f : RepairEngine → RepairEngine) : Calm a (b.updRepair f) := ⟨h.asks, h.fifo, h.ahead, h.duty⟩

theorem Scheduler.upd_ahead (sc : Scheduler) (id : Nat) {f : Campaign → Campaign} (hf : ∀ c, (f c).ahead ≤ c.ahead) :
    (sc.upd id f).ahead ≤ sc.ahead := by
  unfold Scheduler.ahead Scheduler.upd
  dsimp only
  induction sc.table with
  | nil => exact Nat.le_refl _
  | cons c t ih =>
    simp only [List.map_cons, List.sum_cons]
    have hc : Campaign.ahead (if c.id = id then f c else c) ≤ c.ahead := by
      split
      · exact hf c
      · exact Nat.le_refl _
    omega

theorem Calm.updCampaign (h : Calm a b) (id : Nat) {f : Campaign → Campaign} (hf : ∀ c, (f c).ahead ≤ c.ahead) : Calm a (b.updCampaign id f) :=
  ⟨h.asks, h.fifo, Nat.le_trans (Scheduler.upd_ahead _ _ hf) h.ahead, h.duty⟩

theorem Calm.haltSession (h : Calm a b) (l : Fin 8) : Calm a (b.haltSession l) := by
  unfold Block.haltSession; split
  · exact (h.send l _).updLane l _
  · exact h

theorem Calm.headTo (h : Calm a b) (l : Fin 8) (st : CampaignState) : Calm a (b.headTo l st) := by
  unfold Block.headTo; split
  · split
    · exact h.updCampaign _ fun _ => Nat.le_refl _
    · exact h
  · exact h

theorem Calm.laneNotice (h : Calm a b) (l : Fin 8) (cause : LaneCause) : Calm a (b.laneNotice l cause) := (h.updLane l _).raise _
theorem Calm.engage (h : Calm a b) (l : Fin 8) (kind : ItemKind) (owner : Owner) : Calm a (b.engage l kind owner) := h.updLane l _

theorem Calm.openSpan (h : Calm a b) (l : Fin 8) (kind : SessionKind) (owner : Owner) (m : Manifest) : Calm a (b.openSpan l kind owner m) :=
  (((h.updLane l _).send l _).updLane l _).startStall l

theorem Calm.fetch (h : Calm a b) (l : Fin 8) (frame : Nat) : Calm a (b.fetch l frame) := ((h.send l _).updLane l _).startStall l
theorem Calm.notePacing (h : Calm a b) (l : Fin 8) : Calm a (b.notePacing l) := h.updLane l _

/-- In HELD no entry may start, so the start pass changes nothing (R156, R180). -/
theorem Block.passFrom_held {b : Block} (h : b.duty.mode = .held) : ∀ ks, Block.passFrom ks b = b
  | [] => rfl
  | k :: ks => by
    unfold Block.passFrom
    split
    · exact Block.passFrom_held h ks
    · next e _ =>
      have he : b.eligible e = false := by simp [Block.eligible, Duty.permits, h]
      rw [he]
      exact Block.passFrom_held h ks

theorem Block.startPass_held {b : Block} (h : b.duty.mode = .held) : b.startPass = b := Block.passFrom_held h _

theorem Calm.freeEntry (h : Calm a b) (k : EntryKey) : Calm a (b.freeEntry k) := by
  unfold Block.freeEntry; split
  · exact h
  · exact (h.updRepair _).updEntry k _

theorem Calm.entryToWaiting (h : Calm a b) (k : EntryKey) (hm : a.duty.mode = .held) : Calm a (b.entryToWaiting k) := by
  have h1 := ((h.freeEntry k).updStore (fun st => st.repairReturn k.slot k.frame)).updEntry k (fun x => { x with phase := .waiting })
  unfold Block.entryToWaiting
  dsimp only
  rw [Block.startPass_held]
  · exact h1
  · rw [h1.duty]; exact hm

theorem Calm.foldl {α : Type} {f : Block → α → Block} (hf : ∀ b x, Calm a b → Calm a (f b x)) : ∀ (xs : List α) {b : Block}, Calm a b → Calm a (xs.foldl f b)
  | [], _, h => h
  | x :: xs, b, h => Calm.foldl hf xs (hf b x h)

theorem Calm.leftService (h : Calm a b) (l : Fin 8) (hm : a.duty.mode = .held) : Calm a (b.leftService l) :=
  Calm.foldl (fun _ e k => k.entryToWaiting e.key hm) _ h

theorem Calm.putDownByHold (h : Calm a b) (l : Fin 8) (hm : a.duty.mode = .held) : Calm a (b.putDownByHold l false) :=
  (((h.haltSession l).updLane l _).laneNotice l _).leftService l hm

theorem Calm.startStep (h : Calm a b) (l : Fin 8) (e : Entry) : Calm a (b.startStep l e) := by
  unfold Block.startStep; split
  · exact h
  · exact ((((h.haltSession l).headTo l _).engage l _ _).openSpan l _ _ _).updEntry _ _

theorem Calm.openCampaign (h : Calm a b) (l : Fin 8) (c : Campaign) : Calm a (b.openCampaign l c) := by
  unfold Block.openCampaign; split
  · exact h
  · exact ((h.updCampaign c.id (f := fun x => { x with state := .opening }) fun _ => Nat.le_refl _).engage l _ _).openSpan l _ _ _

theorem Calm.closeSpan (h : Calm a b) (l : Fin 8) (c : Campaign) : Calm a (b.closeSpan l c) :=
  ((((h.updCampaign c.id (f := fun x => { x with state := .closing }) fun _ => Nat.le_refl _).engage l _ _).send l _).updLane l _).startStall l

end

/-- A turn of the arbiter makes at most one claim. -/
theorem Block.arbiter_bound (b : Block) (l : Fin 8) : (b.arbiter l).asks = b.asks ∧ (b.arbiter l).pool.fifo.length ≤ b.pool.fifo.length + 1 ∧
    (b.arbiter l).sched.ahead ≤ b.sched.ahead := by
  have calm : ∀ {c : Block}, Calm b c → c.asks = b.asks ∧ c.pool.fifo.length ≤ b.pool.fifo.length + 1 ∧ c.sched.ahead ≤ b.sched.ahead :=
    fun h => ⟨h.asks, by rw [h.fifo]; exact Nat.le_succ _, h.ahead⟩
  unfold Block.arbiter
  split
  · split
    · next hm => exact calm ((Calm.refl b).putDownByHold l hm.1)
    · split
      · exact calm ((Calm.refl b).startStep l _)
      · split
        · split
          · unfold Block.campaignTurn
            split
            · exact calm ((Calm.refl b).openCampaign l _)
            · split
              · exact calm ((Calm.refl b).closeSpan l _)
              · split
                · unfold Block.claimFrame
                  refine ⟨rfl, ?_, Nat.le_refl _⟩
                  simp
                · exact calm (Calm.refl b)
            all_goals exact calm (Calm.refl b)
          · exact calm (Calm.refl b)
        · exact calm (Calm.refl b)
  · exact calm (Calm.refl b)

theorem Block.arbiter_turns (b : Block) (l : Fin 8) (ls : List (Fin 8)) (h : b.asks = l :: ls) : (({ b with asks := ls }).arbiter l).turns < b.turns := by
  obtain ⟨h1, h2, h3⟩ := Block.arbiter_bound { b with asks := ls } l
  rw [Block.turns_eq, Block.turns_eq, h1, h]
  simp only [List.length_cons]
  dsimp only at h2 h3 ⊢
  omega

theorem Campaign.advance_ahead (c : Campaign) : c.advance.ahead ≤ c.ahead ∧ (c.resumePoint.isSome → c.advance.ahead < c.ahead) := by
  unfold Campaign.advance Campaign.ahead
  dsimp only
  cases c.resumePoint with
  | none => exact ⟨Nat.le_refl _, fun h => by cases h⟩
  | some r =>
    dsimp only
    split
    · next e =>
      split at e
      · injection e with e; subst e
        constructor <;> omega
      · cases e
    · constructor <;> omega

theorem Campaign.skip_ahead (c : Campaign) : c.skip.ahead = c.advance.ahead := rfl

theorem Campaign.skipRun_ahead (st : Store) : ∀ (n : Nat) (c : Campaign), (Campaign.skipRun st n c).ahead ≤ c.ahead
  | 0, _ => Nat.le_refl _
  | n + 1, c => by
    unfold Campaign.skipRun
    split
    · exact Nat.le_refl _
    · split
      · exact Nat.le_refl _
      · exact Nat.le_trans (Campaign.skipRun_ahead st n c.skip) (Campaign.advance_ahead c).1

/-- Skipping a campaign that has a frame at its resume point brings it nearer its end. -/
theorem Scheduler.skip_ahead (sc : Scheduler) (id : Nat) (h : ((sc.find id).bind Campaign.resumePoint).isSome) :
    (sc.upd id Campaign.skip).ahead < sc.ahead := by
  have key : ∀ t : List Campaign, ((t.find? (fun c => c.id == id)).bind Campaign.resumePoint).isSome →
      ((t.map (fun c => if c.id = id then c.skip else c)).map Campaign.ahead).sum < (t.map Campaign.ahead).sum := by
    intro t
    induction t with
    | nil => intro h; cases h
    | cons c t ih =>
      intro h
      simp only [List.map_cons, List.sum_cons]
      rw [List.find?_cons] at h
      split at h
      · next hc =>
        have hid : c.id = id := by simpa using hc
        have h1 : c.skip.ahead < c.ahead := (Campaign.advance_ahead c).2 h
        have h2 := Scheduler.upd_ahead { table := t, nextId := 0 } id (f := Campaign.skip) fun c => (Campaign.advance_ahead c).1
        unfold Scheduler.ahead Scheduler.upd at h2
        dsimp only at h2
        rw [if_pos hid]
        omega
      · next hc =>
        have hid : c.id ≠ id := by simpa using hc
        have := ih h
        rw [if_neg hid]
        omega
  exact key sc.table h

theorem Block.ask_length (b : Block) (l : Fin 8) : (b.ask l).asks.length ≤ b.asks.length + 1 := by
  rw [Block.ask_asks]; split
  · exact Nat.le_succ _
  · simp

/-- A grant uses up its claim, and asks an arbiter again only when it has skipped a frame. -/
theorem Block.grant_turns (b : Block) (i : Fin 4) (c : Claim) (rest : List Claim) (h : b.pool.fifo = c :: rest) : (b.grant i c rest).turns < b.turns := by
  have fetched : ∀ {d : Block}, Calm (b.updPool (fun p => ({ p with fifo := rest }).setUnit i
      (some { claim := c, running := false, received := 0, remainder := l64Start }))) d → d.turns < b.turns := by
    intro d hd
    have h1 := hd.asks
    have h2 := hd.fifo
    have h3 := hd.ahead
    simp only [Block.updPool_asks, Block.updPool_pool, Pool.setUnit_fifo, Block.updPool_sched] at h1 h2 h3
    rw [Block.turns_eq, Block.turns_eq, h1, h2, h]
    simp only [List.length_cons]
    omega
  unfold Block.grant
  dsimp only
  split
  · next id _ =>
    unfold Block.campaignGranted
    split
    · exact fetched (((Calm.refl _).updStore _).notePacing _ |>.fetch _ _)
    · dsimp only
      split
      · next hs =>
        have h1 := Scheduler.skip_ahead b.sched id hs
        rw [Block.turns_eq, Block.turns_eq]
        unfold Block.chooseNext Block.toReady
        have h2 := Scheduler.upd_ahead (b.sched.upd id Campaign.skip) id (f := fun x =>
          if x.state = .running then x.skipRun b.store x.stillToVisit else x) fun x => by
            split
            · exact Campaign.skipRun_ahead _ _ _
            · exact Nat.le_refl _
        have h3 := Block.ask_length (((b.updPool (fun p => ({ p with fifo := rest }).setUnit i
          (some { claim := c, running := false, received := 0, remainder := l64Start }))).updPool (fun p => p.release c.lane)).updCampaign id
            Campaign.skip |>.updLane c.lane (fun ln => { ln with state := .ready, item := none })) c.lane
        simp only [Block.updCampaign_asks, Block.updLane_asks, Block.updPool_asks] at h3
        simp only [Block.updCampaign_asks, Block.updCampaign_pool, Block.ask_pool, Block.updLane_pool, Block.updPool_pool, Pool.release_fifo,
          Pool.setUnit_fifo, Block.updCampaign_sched, Block.ask_sched, Block.updLane_sched, Block.updPool_sched, Block.ask_store, Block.updLane_store,
          Block.updCampaign_store, Block.updPool_store, h, List.length_cons]
        omega
      · refine fetched ⟨rfl, ?_, Nat.le_refl _, rfl⟩
        simp
  · exact fetched ((Calm.refl _).fetch _ _)
  · exact fetched ((Calm.refl _).fetch _ _)

theorem Block.settleFrom_settles : ∀ (n : Nat) (b : Block), b.turns ≤ n → (Block.settleFrom n b).quiet
  | 0, b, h => by
    rw [Block.turns_eq] at h
    have h1 : b.asks.length = 0 := by omega
    have h2 : b.pool.fifo.length = 0 := by omega
    exact ⟨List.length_eq_zero_iff.1 h1, Or.inl (List.length_eq_zero_iff.1 h2)⟩
  | n + 1, b, h => by
    unfold Block.settleFrom
    split
    · next i c rest _ hf =>
      have := Block.grant_turns b i c rest hf
      exact Block.settleFrom_settles n _ (by omega)
    · next _ hf =>
      split
      · next ha => exact ⟨ha, Or.inl hf⟩
      · next l ls ha =>
        have := Block.arbiter_turns b l ls ha
        exact Block.settleFrom_settles n _ (by omega)
    · next hu =>
      split
      · next ha => exact ⟨ha, Or.inr hu⟩
      · next l ls ha =>
        have := Block.arbiter_turns b l ls ha
        exact Block.settleFrom_settles n _ (by omega)

/-- Settling ends with nothing asked and no claim waiting beside a FREE unit. -/
theorem Block.settleWork_settles (b : Block) : b.settleWork.quiet := Block.settleFrom_settles _ _ (Nat.le_refl _)

/-- A quiet block whose arbiter is asked takes that one turn, when the turn leaves it quiet. -/
theorem Block.settleWork_ask {b : Block} (h : b.quiet) (l : Fin 8) (hq : (b.arbiter l).quiet) : (b.ask l).settleWork = b.arbiter l := by
  have ha : b.asks = [] := h.1
  have e : b.ask l = { b with asks := [l] } := by unfold Block.ask; simp [ha]
  have e0 : ({ { b with asks := [l] } with asks := [] } : Block) = b := by rw [← ha]
  have turn : ∀ n, Block.settleFrom (n + 1) { b with asks := [l] } = Block.settleFrom n (b.arbiter l) := by
    intro n
    conv_lhs => unfold Block.settleFrom
    rcases h.2 with hf | hf
    · cases hu : b.pool.freeUnit <;> simp only [hf, e0]
    · simp only [hf, e0]
  rw [e]
  unfold Block.settleWork
  have h1 : 0 < ({ b with asks := [l] } : Block).turns := by unfold Block.turns; simp only [List.length_singleton]; omega
  obtain ⟨n, hn⟩ := Nat.exists_eq_add_of_lt h1
  rw [Nat.zero_add] at hn
  rw [hn, turn, Block.settleFrom_quiet hq]

end Sys2Proof.Machine
end

