-- ==== Sys2Proof/Laws/Port.lean ====
section
/-! SUPPORT. What the Control Port does to its queues: a flush queues what was raised and touches nothing else; every operation keeps the places of R199 and R203; and how a reply lists items. -/
namespace Sys2Proof.Machine

/-! ## Flushing the notices raised -/

theorem Port.place_inbound (p : Port) (n : Notice) : (p.place n).inbound = p.inbound := by unfold Port.place; split <;> rfl
theorem Port.place_receiver (p : Port) (n : Notice) : (p.place n).receiver = p.receiver := by unfold Port.place; split <;> rfl
theorem Port.place_raised (p : Port) (n : Notice) : (p.place n).raised = p.raised := by unfold Port.place; split <;> rfl

theorem Port.place_replies (p : Port) (n : Notice) : (p.place n).repliesUsed = p.repliesUsed := by
  unfold Port.place; split
  · simp [Port.repliesUsed, OutFrame.isNotice]
  · rfl

theorem Port.place_notices (p : Port) (n : Notice) (h : p.noticesUsed ≤ 12) : (p.place n).noticesUsed ≤ 12 := by
  unfold Port.place; split
  · next hl =>
    simp only [Port.noticesUsed] at hl ⊢
    simp [OutFrame.isNotice]
    omega
  · exact h

theorem OutFrame.fold_isNotice (f : OutFrame) (last : Nat) :
    (if f.isLogAdvanced then OutFrame.notice (.logAdvanced last) else f).isNotice = f.isNotice := by
  split
  · next h =>
    cases f with
    | notice n => rfl
    | reply k t r => simp [OutFrame.isLogAdvanced] at h
  · rfl

theorem Port.foldLog_inbound (p : Port) (last : Nat) : (p.foldLog last).inbound = p.inbound := by unfold Port.foldLog; split <;> rfl
theorem Port.foldLog_receiver (p : Port) (last : Nat) : (p.foldLog last).receiver = p.receiver := by unfold Port.foldLog; split <;> rfl
theorem Port.foldLog_raised (p : Port) (last : Nat) : (p.foldLog last).raised = p.raised := by unfold Port.foldLog; split <;> rfl

theorem Port.foldLog_replies (p : Port) (last : Nat) : (p.foldLog last).repliesUsed = p.repliesUsed := by
  unfold Port.foldLog; split
  · rfl
  · next h t e =>
    simp only [Port.repliesUsed, e, List.countP_cons, List.countP_map]
    congr 2
    funext f
    simp [Function.comp, OutFrame.fold_isNotice]

theorem Port.foldLog_notices (p : Port) (last : Nat) : (p.foldLog last).noticesUsed = p.noticesUsed := by
  unfold Port.foldLog; split
  · rfl
  · next h t e =>
    simp only [Port.noticesUsed, e, List.countP_cons, List.countP_map]
    congr 2
    funext f
    simp [Function.comp, OutFrame.fold_isNotice]

/-- Queueing a notice places it, or folds a LOG_ADVANCED into one that waits. -/
theorem Port.queueNotice_cases (p : Port) (n : Notice) : p.queueNotice n = p.place n ∨ ∃ last, p.queueNotice n = p.foldLog last := by
  cases n
  case logAdvanced last =>
    unfold Port.queueNotice
    dsimp only
    split
    · exact Or.inr ⟨last, rfl⟩
    · exact Or.inl rfl
  all_goals exact Or.inl rfl

/-- What queueing a notice leaves: the requests, the receiver, the notices raised, the replies; and no more than twelve notices. -/
structure Port.Queued (p q : Port) : Prop where
  inbound  : q.inbound = p.inbound
  receiver : q.receiver = p.receiver
  replies  : q.repliesUsed = p.repliesUsed
  notices  : p.noticesUsed ≤ 12 → q.noticesUsed ≤ 12

theorem Port.queueNotice_queued (p : Port) (n : Notice) : Port.Queued p (p.queueNotice n) ∧ (p.queueNotice n).raised = p.raised := by
  rcases Port.queueNotice_cases p n with e | ⟨last, e⟩ <;> rw [e]
  · exact ⟨⟨Port.place_inbound _ _, Port.place_receiver _ _, Port.place_replies _ _, Port.place_notices _ _⟩, Port.place_raised _ _⟩
  · exact ⟨⟨Port.foldLog_inbound _ _, Port.foldLog_receiver _ _, Port.foldLog_replies _ _, fun h => by rw [Port.foldLog_notices]; exact h⟩,
      Port.foldLog_raised _ _⟩

theorem Port.queueAll_queued : ∀ (ns : List Notice) (p : Port), Port.Queued p (ns.foldl Port.queueNotice p) ∧
    (ns.foldl Port.queueNotice p).raised = p.raised
  | [], _ => ⟨⟨rfl, rfl, rfl, id⟩, rfl⟩
  | n :: ns, p => by
    obtain ⟨h1, r1⟩ := Port.queueNotice_queued p n
    obtain ⟨h2, r2⟩ := Port.queueAll_queued ns (p.queueNotice n)
    exact ⟨⟨h2.inbound.trans h1.inbound, h2.receiver.trans h1.receiver, h2.replies.trans h1.replies, fun h => h2.notices (h1.notices h)⟩, r2.trans r1⟩

theorem Port.flush_queued (p : Port) : Port.Queued p p.flush := by
  have h := (Port.queueAll_queued p.raised { p with raised := [] }).1
  exact ⟨h.inbound, h.receiver, h.replies, h.notices⟩

/-- After a flush nothing raised is left. -/
theorem Port.flush_raised (p : Port) : p.flush.raised = [] := (Port.queueAll_queued p.raised { p with raised := [] }).2

/-- With nothing raised a flush changes nothing. -/
theorem Port.flush_nil {p : Port} (h : p.raised = []) : p.flush = p := by
  unfold Port.flush
  rw [h]
  simp only [List.foldl_nil]
  cases p
  simp only at h
  subst h
  rfl

/-- One notice raised is queued. -/
theorem Port.flush_one {p : Port} {n : Notice} (h : p.raised = [n]) : p.flush = ({ p with raised := [] } : Port).queueNotice n := by
  unfold Port.flush
  rw [h]
  rfl

theorem Port.flush_fits {p : Port} (h : p.fits) : p.flush.fits := by
  have q := Port.flush_queued p
  exact ⟨by rw [q.inbound]; exact h.1, by rw [q.replies]; exact h.2.1, q.notices h.2.2⟩

/-! ## The places are kept -/

theorem Port.accept_fits {p : Port} (h : p.fits) (r : Request) : (p.accept r).fits := by
  unfold Port.accept; split
  · exact ⟨by simp; omega, h.2⟩
  · exact h

theorem Port.reject_fits {p : Port} (h : p.fits) (c : RejectCause) (k t : Byte) : (p.reject c k t).fits := h

theorem Port.scan_fits : ∀ (n : Nat) (bs : List Byte) (p : Port), p.fits → (Port.scan n bs p).fits
  | 0, _, _, h => h
  | n + 1, bs, p, h => by
    unfold Port.scan
    split
    · exact h
    · split
      · exact Port.scan_fits n _ p h
      · split
        · exact h
        · split
          · exact Port.scan_fits n _ p h
          · split
            · exact h
            · split
              · exact Port.scan_fits n _ _ (Port.reject_fits h _ _ _)
              · split
                · exact h
                · split
                  · exact Port.scan_fits n _ _ (Port.reject_fits h _ _ _)
                  · split
                    · exact Port.scan_fits n _ _ (Port.reject_fits h _ _ _)
                    · exact Port.scan_fits n _ _ (Port.accept_fits h _)

theorem Port.receive_fits {p : Port} (h : p.fits) (bs : List Byte) : (p.receive bs).fits := Port.scan_fits _ _ _ h

theorem Port.gapExpired_fits {p : Port} (h : p.fits) : p.gapExpired.fits := by
  unfold Port.gapExpired; split
  · exact Port.scan_fits _ _ _ (Port.reject_fits h _ _ _)
  · exact h

theorem Port.hear_fits {p : Port} (h : p.fits) (r : Request) : (p.hear r).fits := by
  unfold Port.hear; split
  · exact h
  · split
    · exact h
    · exact Port.accept_fits h r

theorem Port.frameSent_fits {p : Port} (h : p.fits) : p.frameSent.fits := by
  unfold Port.frameSent
  split
  · exact h
  · next f t e =>
    obtain ⟨h1, h2, h3⟩ := h
    simp only [Port.repliesUsed, Port.noticesUsed, e, List.countP_cons] at h2 h3
    split
    · next hc =>
      have hn : f.isNotice = true := by simp only [Bool.and_eq_true] at hc; exact hc.1
      refine ⟨h1, ?_, ?_⟩
      · simp [Port.repliesUsed, OutFrame.isNotice]
        simp [hn] at h2
        exact h2
      · simp [Port.noticesUsed, OutFrame.isNotice]
        simp [hn] at h3
        omega
    · exact ⟨h1, Nat.le_trans (Nat.le_add_right _ _) h2, Nat.le_trans (Nat.le_add_right _ _) h3⟩

theorem Port.answer_fits {p : Port} (h : p.fits) (hr : p.repliesUsed < 4) (r : Request) (rep : Reply) : (p.answer r rep).fits := by
  apply Port.flush_fits
  refine ⟨?_, ?_, ?_⟩
  · simp only [List.length_tail]
    exact Nat.le_trans (Nat.sub_le _ _) h.1
  · simp only [Port.repliesUsed, List.countP_append, List.countP_cons, List.countP_nil] at hr ⊢
    split <;> omega
  · have h3 := h.2.2
    have e : (OutFrame.reply (replyKind r.kind) r.tag rep).isNotice = false := rfl
    simp only [Port.noticesUsed, List.countP_append, List.countP_cons, List.countP_nil, e] at h3 ⊢
    simpa using h3

theorem Port.restarted_fits {p : Port} (h : p.fits) : p.restarted.fits := by
  obtain ⟨h1, h2, h3⟩ := h
  have s := List.take_sublist 1 p.outbound
  refine ⟨?_, Nat.le_trans (List.Sublist.countP_le s) h2, Nat.le_trans (List.Sublist.countP_le s) h3⟩
  simp only [Port.restarted, List.length_take]
  omega

/-! ## Requests taken -/

/-- A request that the port's checks refuse is answered with the reason, and nothing else happens (R200, R201). -/
theorem Block.apply_refused {b : Block} {r : Request} {reason : Reason} (h : portRefusal r b.duty.mode = some reason) (owner : Block → Block × Reply) :
    b.apply r owner = (b, .refused reason) := by
  unfold Block.apply; rw [h]

/-- A request that passes the port's checks goes to its owner (R200). -/
theorem Block.apply_owner {b : Block} {r : Request} (h : portRefusal r b.duty.mode = none) (owner : Block → Block × Reply) :
    b.apply r owner = owner b := by
  unfold Block.apply; rw [h]

/-- A request at the head of the queue, with a reply place free, is taken. -/
theorem Block.requestStep_taken {b : Block} {r : Request} (h0 : b.resetLine = false) (h1 : b.port.inbound.head? = some r)
    (h2 : b.port.repliesUsed < 4) (owner : Block → Block × Reply) :
    b.requestStep r owner = { (b.apply r owner).1.settleWork with port := (b.apply r owner).1.settleWork.port.answer r (b.apply r owner).2 } := by
  have hc : b.port.canTake r = true := by simp [Port.canTake, h1, h2]
  unfold Block.requestStep
  simp [h0, h1, hc]

/-- A reply given with nothing raised joins the outbound queue, and its request leaves the inbound queue. -/
theorem Port.answer_nil {p : Port} (h : p.raised = []) (r : Request) (rep : Reply) :
    p.answer r rep = { p with inbound := p.inbound.tail, outbound := p.outbound ++ [.reply (replyKind r.kind) r.tag rep] } := by
  unfold Port.answer
  exact Port.flush_nil h

/-- While the reset line is asserted nothing is taken (R206). -/
theorem Block.requestStep_reset {b : Block} (h : b.resetLine = true) (r : Request) (owner : Block → Block × Reply) : b.requestStep r owner = b := by
  unfold Block.requestStep; simp [h]

theorem Block.eventStep_reset {b : Block} (h : b.resetLine = true) (f : Block → Block) : b.eventStep f = b := by
  unfold Block.eventStep; simp [h]

theorem Block.eventStep_live {b : Block} (h : b.resetLine = false) (f : Block → Block) : b.eventStep f = (f b).settleWork.flush := by
  unfold Block.eventStep; simp [h]

/-- A request that the port refuses. -/
theorem portRefusal_none {kind tag : Byte} {body : List Byte} {mode : DutyMode} (h1 : requestLength kind body = some body.length)
    (h2 : requestModes kind mode = true) : portRefusal { kind := kind, tag := tag, body := body } mode = none := by
  unfold portRefusal
  simp [h1, h2]

/-- A request that the port takes goes to its owner, and is answered with the owner's reply. -/
theorem State.request_takes {s : State} {kind tag : Byte} {body : List Byte} (h : s.Takes kind tag body) (owner : Block → Block × Reply) :
    s.request kind tag body owner = .next (s.answered (owner s.blk).1 kind tag (owner s.blk).2) := by
  unfold State.request
  rw [Block.requestStep_taken h.live h.head h.place, Block.apply_owner (portRefusal_none h.form h.mode)]
  rfl

/-- A block that is left quiet with nothing raised is answered without turns or notices. -/
theorem State.answered_quiet {s : State} {b : Block} (hq : b.quiet) (hp : b.port = s.blk.port) (ht : s.blk.told) (kind tag : Byte) (rep : Reply) :
    s.answered b kind tag rep = s.replied b kind tag rep := by
  unfold State.answered State.replied
  rw [Block.settleWork_quiet hq, hp, Port.answer_nil ht]

/-- A step of a quiet block with nothing raised changes nothing more. -/
theorem State.after_quiet {s : State} {b : Block} (hq : b.quiet) (ht : b.told) : s.after b = { s with blk := b } := by
  unfold State.after
  rw [Block.settleWork_quiet hq]
  have : b.flush = b := by
    unfold Block.flush
    rw [Port.flush_nil ht]
  rw [this]

/-- A step that is no request, with the reset line released. -/
theorem State.event_live {s : State} (h : s.blk.resetLine = false) (f : Block → Block) : s.event f = .next (s.after (f s.blk)) := by
  unfold State.event State.after
  rw [Block.eventStep_live h]

/-- A request that its owner answers at once, raising nothing and leaving nothing to do. -/
theorem State.request_replied {s : State} {kind tag : Byte} {body : List Byte} (h : s.Takes kind tag body) {owner : Block → Block × Reply} {b : Block}
    {rep : Reply} (ho : owner s.blk = (b, rep)) (hq : b.quiet) (hp : b.port = s.blk.port) : s.request kind tag body owner = .next (s.replied b kind tag rep) := by
  rw [State.request_takes h, ho]
  exact congrArg _ (State.answered_quiet hq hp h.told kind tag rep)

/-- A request that its owner refuses. -/
theorem State.request_refused {s : State} {kind tag : Byte} {body : List Byte} (h : s.Takes kind tag body) {owner : Block → Block × Reply} {r : Reason}
    (ho : owner s.blk = (s.blk, .refused r)) : s.request kind tag body owner = .next (s.replied s.blk kind tag (.refused r)) :=
  State.request_replied h ho h.quiet rfl

/-- A request that its owner answers with one notice raised and nothing left to do: the notice is queued behind the reply (R204). -/
theorem State.request_noticed {s : State} {kind tag : Byte} {body : List Byte} (h : s.Takes kind tag body) {owner : Block → Block × Reply} {b : Block}
    {rep : Reply} {n : Notice} (ho : owner s.blk = (b, rep)) (hq : b.quiet) (hp : b.port = { s.blk.port with raised := [n] }) :
    s.request kind tag body owner = .next ((s.replied b kind tag rep).noticed n) := by
  rw [State.request_takes h, ho]
  unfold State.answered State.replied State.noticed
  rw [Block.settleWork_quiet hq]
  unfold Port.answer
  rw [Port.flush_one (n := n) (by rw [hp]), hp]
  have ht : s.blk.port.raised = [] := h.told
  simp only [ht]

/-- A request that its owner answers by a change that leaves nothing to do, and one notice. -/
theorem State.request_raises {s : State} {kind tag : Byte} {body : List Byte} (h : s.Takes kind tag body) {owner : Block → Block × Reply} {b : Block}
    {rep : Reply} {n : Notice} (ho : owner s.blk = (b.raise n, rep)) (hq : b.quiet) (hp : b.port = s.blk.port) :
    s.request kind tag body owner = .next ((s.replied b kind tag rep).noticed n) := by
  have ht : s.blk.port.raised = [] := h.told
  exact State.request_noticed (b := b.raise n) h ho hq (by rw [Block.raise_port, hp, ht]; rfl)

/-- A step that is no request, raising nothing and leaving nothing to do. -/
theorem State.event_still {s : State} (h : s.Idle) {f : Block → Block} {b : Block} (hf : f s.blk = b) (hq : b.quiet) (ht : b.told) :
    s.event f = .next { s with blk := b } := by
  rw [State.event_live h.live, hf, State.after_quiet hq ht]

/-- A step that is no request, with one notice raised and nothing left to do. -/
theorem State.event_noticed {s : State} (h : s.Idle) {f : Block → Block} {b : Block} {n : Notice} (hf : f s.blk = b) (hq : b.quiet)
    (hp : b.port = { s.blk.port with raised := [n] }) : s.event f = .next { s with blk := { b with port := s.blk.port.queueNotice n } } := by
  rw [State.event_live h.live, hf]
  unfold State.after Block.flush
  rw [Block.settleWork_quiet hq, Port.flush_one (n := n) (by rw [hp]), hp]
  have ht : s.blk.port.raised = [] := h.told
  have e : ({ s.blk.port with raised := [] } : Port) = s.blk.port := by
    rw [← ht]
  simp only [e]

/-- A step that is no request and makes a change that leaves nothing to do, and one notice. -/
theorem State.event_raises {s : State} (h : s.Idle) {f : Block → Block} {b : Block} {n : Notice} (hf : f s.blk = b.raise n) (hq : b.quiet)
    (hp : b.port = s.blk.port) : s.event f = .next (({ s with blk := b } : State).noticed n) := by
  have ht : s.blk.port.raised = [] := h.told
  refine (State.event_noticed (b := b.raise n) h hf hq (by rw [Block.raise_port, hp, ht]; rfl)).trans ?_
  unfold State.noticed
  dsimp only
  rw [hp]
  rfl

/-- A session unit that passes its checks is taken. -/
theorem Block.sessionUnit_heard {α : Type} {s : State} {l : Fin 8} {type session : Byte} {body : List Byte} {crc : Word32}
    (h : s.Hears l type session body crc) {parsed : Option α} {x : α} (hp : parsed = some x) (f : α → Block → Block) :
    s.blk.sessionUnit type l session body crc parsed f = f x s.blk := by
  have hn : ¬(unitCrcGood type session body crc = false ∨ session = 0) := by
    rintro (e | e)
    · rw [h.crc] at e; cases e
    · exact h.nonzero e
  unfold Block.sessionUnit
  subst hp
  dsimp only
  rw [if_neg hn, if_pos h.session]

/-! ## Replies that list items (R215) -/

/-- The items that fit are the first of the list, as many as fit in the room. -/
theorem fitItems_spec (room : Nat) (items : List (List Byte)) :
    fitItems room items = items.take (fitItems room items).length ∧ (fitItems room items).length ≤ items.length ∧ (fitItems room items).flatten.length ≤ room ∧
      ((fitItems room items).length < items.length → room < (items.take ((fitItems room items).length + 1)).flatten.length) := by
  induction items generalizing room with
  | nil => simp [fitItems]
  | cons i t ih =>
    unfold fitItems
    split
    · next h =>
      obtain ⟨h1, h2, h3, h4⟩ := ih (room - i.length)
      refine ⟨?_, ?_, ?_, fun hl => ?_⟩
      · rw [List.length_cons, List.take_succ_cons, ← h1]
      · simpa using h2
      · simp only [List.flatten_cons, List.length_append]; omega
      · have := h4 (by simpa using hl)
        simp only [List.length_cons, List.take_succ_cons, List.flatten_cons, List.length_append]; omega
    · next h => simpa using h

/-- A listing reply is laid out as R215 says. -/
theorem listResults_spec {fixed : List Byte} (h : fixed.length ≤ 1022) (items : List (List Byte)) : ListReply fixed items (listResults fixed items) := by
  obtain ⟨h1, h2, h3, h4⟩ := fitItems_spec (1022 - fixed.length) items
  refine ⟨_, h2, ?_, ?_, fun hl => ?_⟩
  · unfold listResults; dsimp only; rw [← h1]
  · unfold listResults; simp only [List.length_append, List.length_singleton]; omega
  · have := h4 hl
    simp only [List.length_append, List.length_singleton]; omega

/-- Items that all fit are all sent. -/
theorem listResults_all {fixed : List Byte} {items : List (List Byte)} (h : fixed.length + 1 + items.flatten.length ≤ 1023) :
    listResults fixed items = fixed ++ [BitVec.ofNat 8 items.length] ++ items.flatten := by
  have e : fitItems (1022 - fixed.length) items = items := by
    obtain ⟨h1, h2, _, h4⟩ := fitItems_spec (1022 - fixed.length) items
    have : (fitItems (1022 - fixed.length) items).length = items.length := by
      rcases Nat.lt_or_ge (fitItems (1022 - fixed.length) items).length items.length with hl | hl
      · have := h4 hl
        have h5 (n : Nat) : items.flatten.length = (items.take n).flatten.length + (items.drop n).flatten.length := by
          rw [← List.length_append, ← List.flatten_append, List.take_append_drop]
        have := h5 ((fitItems (1022 - fixed.length) items).length + 1)
        omega
      · omega
    rw [h1, this, List.take_length]
  unfold listResults; dsimp only; rw [e]
end Sys2Proof.Machine
end

