-- ==== Sys2Proof/Laws/Still.lean ====
section
/-! SUPPORT. The moves that leave every lane and every digest unit as they are: those of the Repair Engine, the Finding Recorder and the
Campaign Scheduler that send nothing through a lane, and every tell of an owner (R64). -/
namespace Sys2Proof.Machine

/-- The lanes and the Digest Pool stay. -/
structure Still (a b : Block) : Prop where
  lanes : b.lanes = a.lanes
  pool  : b.pool = a.pool

theorem Still.refl (b : Block) : Still b b := ⟨rfl, rfl⟩

theorem Still.trans {a b c : Block} (h : Still a b) (k : Still b c) : Still a c := ⟨k.lanes.trans h.lanes, k.pool.trans h.pool⟩

/-- A lane of a still block is the lane it was. -/
theorem Still.lane {a b : Block} (h : Still a b) (l : Fin 8) : b.lane l = a.lane l := Block.lane_congr h.lanes l

variable {a b : Block}

theorem Still.asks (h : Still a b) (ls : List (Fin 8)) : Still a { b with asks := ls } := ⟨h.lanes, h.pool⟩
theorem Still.ask (h : Still a b) (l : Fin 8) : Still a (b.ask l) := by
  unfold Block.ask; split
  · exact h
  · exact h.asks _
theorem Still.raise (h : Still a b) (n : Notice) : Still a (b.raise n) := ⟨h.lanes, h.pool⟩
theorem Still.updStore (h : Still a b) (f : Store → Store) : Still a (b.updStore f) := ⟨h.lanes, h.pool⟩
theorem Still.updEntry (h : Still a b) (k : EntryKey) (f : Entry → Entry) : Still a (b.updEntry k f) := ⟨h.lanes, h.pool⟩
theorem Still.updRepair (h : Still a b) (f : RepairEngine → RepairEngine) : Still a (b.updRepair f) := ⟨h.lanes, h.pool⟩
theorem Still.updCampaign (h : Still a b) (id : Nat) (f : Campaign → Campaign) : Still a (b.updCampaign id f) := ⟨h.lanes, h.pool⟩
theorem Still.updRecorder (h : Still a b) (f : Recorder → Recorder) : Still a (b.updRecorder f) := ⟨h.lanes, h.pool⟩
theorem Still.updDuty (h : Still a b) (f : Duty → Duty) : Still a (b.updDuty f) := ⟨h.lanes, h.pool⟩

theorem Still.foldl {α : Type} {a : Block} {f : Block → α → Block} (hf : ∀ b x, Still a b → Still a (f b x)) :
    ∀ (xs : List α) {b : Block}, Still a b → Still a (xs.foldl f b)
  | [], _, h => h
  | x :: xs, b, h => Still.foldl hf xs (hf b x h)

theorem Still.startEntry (h : Still a b) (e : Entry) (ctx : Fin 4) : Still a (b.startEntry e ctx) :=
  .ask (.updRepair (.updEntry (.updStore h _) e.key _) _) e.source

theorem Still.passFrom : ∀ (ks : List EntryKey) {b : Block}, Still a b → Still a (Block.passFrom ks b)
  | [], _, h => h
  | k :: ks, b, h => by
    unfold Block.passFrom
    split
    · exact Still.passFrom ks h
    · split
      · split
        · exact h
        · split
          · split
            · exact Still.passFrom ks (h.startEntry _ _)
            · exact Still.passFrom ks h
          · exact h
      · exact Still.passFrom ks h

theorem Still.startPass (h : Still a b) : Still a b.startPass := Still.passFrom _ h

theorem Still.freeEntry (h : Still a b) (k : EntryKey) : Still a (b.freeEntry k) := by
  unfold Block.freeEntry; split
  · exact h
  · exact .updEntry (.updRepair h _) k _

theorem Still.entryToWaiting (h : Still a b) (k : EntryKey) : Still a (b.entryToWaiting k) :=
  .startPass (.updEntry (.updStore (.freeEntry h k) _) k _)

theorem Still.settleEntry (h : Still a b) (k : EntryKey) (o : RecordState) (d : Option Detail) : Still a (b.settleEntry k o d) := by
  unfold Block.settleEntry
  split
  · exact h
  · dsimp only
    exact .startPass (.raise (.updRepair (.freeEntry (.updStore h _) k) _) _)

theorem Still.rewriteTest (h : Still a b) (k : EntryKey) : Still a (b.rewriteTest k) := by
  unfold Block.rewriteTest
  split
  · exact h
  · split
    · split
      · exact .settleEntry h k _ _
      · split
        · split
          · exact .settleEntry h k _ _
          · exact .ask h _
        · exact h
    · exact h

theorem Still.sourceFailed (h : Still a b) (k : EntryKey) : Still a (b.sourceFailed k) := by
  unfold Block.sourceFailed
  dsimp only
  split
  · exact .updEntry h k _
  · split
    · exact .entryToWaiting (.updEntry h k _) k
    · exact .settleEntry (.updEntry h k _) k _ _

theorem Still.rewriteFailed (h : Still a b) (k : EntryKey) : Still a (b.rewriteFailed k) := by
  unfold Block.rewriteFailed
  dsimp only
  split
  · exact .updEntry h k _
  · split
    · exact .rewriteTest (.updEntry h k _) k
    · exact .settleEntry (.updEntry h k _) k _ _

theorem Still.sourceSound (h : Still a b) (k : EntryKey) : Still a (b.sourceSound k) := .rewriteTest (.updEntry h k _) k

theorem Still.dropEntry (h : Still a b) (k : EntryKey) : Still a (b.dropEntry k) :=
  .updRepair (.updStore h _) _

theorem Still.stepEnded (h : Still a b) (k : EntryKey) (x : Exchange) (why : Departure) : Still a (b.stepEnded k x why) := by
  unfold Block.stepEnded
  split
  · exact h
  · split
    · split
      · exact .sourceFailed h k
      · exact .sourceFailed h k
      · exact .entryToWaiting h k
      · exact .entryToWaiting h k
    · split
      · exact .rewriteFailed (.updEntry h k _) k
      · exact .rewriteTest (.updEntry h k _) k
    · exact .updEntry h k _
    · exact h
    · exact h

theorem Still.leftService (h : Still a b) (l : Fin 8) : Still a (b.leftService l) :=
  Still.foldl (fun _ e k => k.entryToWaiting e.key) _ h

theorem Still.enteredService (h : Still a b) (l : Fin 8) : Still a (b.enteredService l) :=
  (Still.foldl (fun _ e k => k.rewriteTest e.key) _ h).startPass

theorem Still.appendEntry (h : Still a b) (k : EntryKey) (cause : Option FindingClass) (seq awaits : Option Nat) (damaged source : Fin 8) (allowed : Bool) :
    Still a (b.appendEntry k cause seq awaits damaged source allowed) := by
  unfold Block.appendEntry
  exact .updRepair (.updStore h _) _

theorem Still.enqueue (h : Still a b) (k : EntryKey) (cause : Option FindingClass) (seq awaits : Option Nat) (damaged : Fin 8) (allowed : Bool) :
    Still a (b.enqueue k cause seq awaits damaged allowed) := by
  unfold Block.enqueue
  split
  · exact h
  · split
    · exact h
    · split
      · exact .startPass (.appendEntry h k cause seq awaits damaged _ allowed)
      · exact h

theorem Still.visitCleared (h : Still a b) (k : Fin 16) (frame : Nat) : Still a (b.visitCleared k frame) := by
  unfold Block.visitCleared
  split
  · split
    · exact .startPass h
    · exact h
  · exact h

theorem Still.abandonVisit (h : Still a b) (k : Fin 16) (frame : Nat) : Still a (b.abandonVisit k frame) :=
  .visitCleared (.updStore h _) k frame

theorem Still.giveVerdict (h : Still a b) (k : Fin 16) (frame : Nat) (v : Verdict) (ff : Bool) : Still a (b.giveVerdict k frame v ff) := by
  have h1 := h.updStore (fun st => st.verdictClaim k frame v ff)
  unfold Block.giveVerdict
  dsimp only
  split
  · split
    · split
      · exact h1.startPass
      · exact (h1.dropEntry _).startPass
    · exact h1
  · exact h1

theorem Still.keepFinding (h : Still a b) (f : Finding) (wants : Bool) : Still a (b.keepFinding f wants) := by
  unfold Block.keepFinding
  split
  · exact .raise (.updRecorder h _) _
  · exact .updRecorder h _

theorem Still.takeEvent (h : Still a b) (c : Campaign) (ev : Event) : Still a (b.takeEvent c ev).2 := by
  unfold Block.takeEvent
  dsimp only
  split
  · exact h
  · have h1 : ∀ n f w, Still a ((b.updRecorder (fun r => r.flag n)).keepFinding f w) := fun n f w => .keepFinding (.updRecorder h _) f w
    dsimp only
    split
    · exact .updStore (h1 _ _ _) _
    · exact h1 _ _ _

theorem Still.chooseNext (h : Still a b) (id : Nat) : Still a (b.chooseNext id) := h.updCampaign id _

theorem Still.campaignNotice (h : Still a b) (id : Nat) (cause : CampaignCause) : Still a (b.campaignNotice id cause) := by
  unfold Block.campaignNotice; split
  · exact .raise h _
  · exact h

theorem Still.holdCampaign (h : Still a b) (id : Nat) (cause : HeldCause) : Still a (b.holdCampaign id cause) := by
  unfold Block.holdCampaign
  exact .campaignNotice (.updCampaign h id _) id _

theorem Still.closeCampaign (h : Still a b) (id : Nat) (st : CampaignState) (e : Option EndCause) (cause : CampaignCause) :
    Still a (b.closeCampaign id st e cause) := by
  unfold Block.closeCampaign; split
  · dsimp only
    exact .ask (.campaignNotice (.updStore (.updCampaign h id _) _) id _) _
  · exact h

theorem Still.releaseCampaign (h : Still a b) (id : Nat) (cause : CampaignCause) : Still a (b.releaseCampaign id cause) := by
  unfold Block.releaseCampaign; split
  · exact .ask (.campaignNotice (.updCampaign h id _) id _) _
  · exact h

theorem Still.headTo (h : Still a b) (l : Fin 8) (st : CampaignState) : Still a (b.headTo l st) := by
  unfold Block.headTo; split
  · split
    · exact .updCampaign h _ _
    · exact h
  · exact h

theorem Still.headHeld (h : Still a b) (l : Fin 8) (cause : HeldCause) : Still a (b.headHeld l cause) := by
  unfold Block.headHeld; split
  · split
    · exact h
    · exact .holdCampaign h _ _
  · exact h

theorem Still.headReturned (h : Still a b) (l : Fin 8) : Still a (b.headReturned l) := by
  unfold Block.headReturned; split
  · split
    · exact .updCampaign h _ _
    · exact h
  · exact h

theorem Still.abortCalibration (h : Still a b) (l : Fin 8) (cause : AbortCause) : Still a (b.abortCalibration l cause) := .raise (.updDuty h _) _

theorem Still.resultEvent (h : Still a b) (c : Campaign) (frame : Nat) (v : Verdict) (s : ClassSet) (d : Option Nat) :
    Still a (b.resultEvent c frame v s d).2 := by
  unfold Block.resultEvent; split
  · exact h
  · exact h.takeEvent _ _

theorem Still.claimVerdict (h : Still a b) (c : Campaign) (frame : Nat) (v : Verdict) (ans : Answer) : Still a (b.claimVerdict c frame v ans) := by
  unfold Block.claimVerdict
  dsimp only
  split
  · exact (h.giveVerdict _ _ _ _).enqueue _ _ _ _ _ _
  · exact h.giveVerdict _ _ _ _

theorem Still.applyAnswer (h : Still a b) (id : Nat) (ans : Answer) : Still a (b.applyAnswer id ans false) := by
  have h1 := h.updCampaign id (Campaign.takeAnswer ans)
  unfold Block.applyAnswer
  simp only [Bool.false_eq_true, if_false]
  split
  · exact h1
  · split
    · exact h1.closeCampaign id _ _ _
    · exact h1.holdCampaign id _
    · split
      · exact h1.holdCampaign id _
      · exact h1

theorem Still.campaignResult (h : Still a b) (id frame : Nat) (res : FrameResult) : Still a (b.campaignResult id frame res false) := by
  unfold Block.campaignResult
  split
  · exact h
  · exact .applyAnswer (.updCampaign (.claimVerdict (.resultEvent (.updCampaign h id _) _ _ _ _ _) _ _ _ _) id _) id _

theorem Still.campaignFrameStalled (h : Still a b) (id frame : Nat) : Still a (b.campaignFrameStalled id frame) := by
  unfold Block.campaignFrameStalled
  split
  · exact h
  · split
    · exact .abandonVisit (.updCampaign h id _) _ _
    · exact .campaignResult h id frame _

theorem Still.campaignTold (h : Still a b) (id : Nat) (x : Exchange) (why : Departure) : Still a (b.campaignTold id x why) := by
  unfold Block.campaignTold
  split
  · exact h
  · split
    · exact .campaignFrameStalled h id _
    all_goals
      split
      · exact .abandonVisit h _ _
      · exact h

theorem Still.tellOwner (h : Still a b) (l : Fin 8) (it : Option Item) (x : Exchange) (why : Departure) : Still a (b.tellOwner l it x why) := by
  unfold Block.tellOwner
  split
  · exact h
  · split
    · exact .campaignTold h _ x why
    · exact .stepEnded h _ x why
    · exact .abortCalibration h l _

end Sys2Proof.Machine
end

