-- ==== Sys2Proof/Laws/Keeps.lean ====
section
/-! SUPPORT. `Keeps a b`: the bounds of Safety.lean that hold of `a` hold of `b`. Every `Inner` move keeps them, and so does the owner of every request. -/
namespace Sys2Proof.Machine

/-- The bounds that hold before hold after; no reply place more is used. -/
structure Keeps (a b : Block) : Prop where
  staging   : Memory.wf a.staging = true → Memory.wf b.staging = true
  port      : a.port.fits → b.port.fits
  replies   : b.port.repliesUsed ≤ a.port.repliesUsed
  pool      : a.store.balanced → b.store.balanced
  recorder  : a.recorder.Sound → b.recorder.Sound
  lanes     : (∀ l, (a.lane l).Sound) → ∀ l, (b.lane l).Sound
  campaigns : a.sched.table.length ≤ 24 → b.sched.table.length ≤ 24
  suspects  : a.repair.list.length ≤ 128 → b.repair.list.length ≤ 128

theorem Keeps.refl (b : Block) : Keeps b b := ⟨id, id, Nat.le_refl _, id, id, id, id, id⟩

theorem Keeps.trans {a b c : Block} (h : Keeps a b) (k : Keeps b c) : Keeps a c :=
  ⟨k.staging ∘ h.staging, k.port ∘ h.port, Nat.le_trans k.replies h.replies, k.pool ∘ h.pool, k.recorder ∘ h.recorder, k.lanes ∘ h.lanes,
    k.campaigns ∘ h.campaigns, k.suspects ∘ h.suspects⟩

theorem Manifest.fixed_count {m m' : Manifest} (h : m.fixed = m'.fixed) : m.count = m'.count := by
  simp only [Manifest.fixed, Prod.mk.injEq] at h
  exact h.2.2.2.1

theorem Store.Kept.reserved {st st' : Store} (h : Store.Kept st st') (k : Fin 16) : st'.reserved k = st.reserved k := by
  have hk := h.slots k
  unfold Store.reserved
  revert hk
  generalize st.manifest k = x
  generalize st'.manifest k = y
  intro hk
  cases x <;> cases y
  · rfl
  · simp at hk
  · simp at hk
  · exact Manifest.fixed_count (Option.some.inj hk)

theorem Store.Kept.balanced {st st' : Store} (h : Store.Kept st st') (hb : st.balanced) : st'.balanced := by
  unfold Store.balanced at hb ⊢
  rw [h.free, funext h.reserved]
  exact hb

theorem Inner.keeps {a b : Block} (h : Inner a b) : Keeps a b where
  staging := fun hw => by rw [h.staging]; exact hw
  port := fun hp => by obtain ⟨ns, e⟩ := h.port; rw [e]; exact hp
  replies := by obtain ⟨ns, e⟩ := h.port; rw [e]; exact Nat.le_refl _
  pool := h.store.balanced
  recorder := h.recorder
  lanes := fun hs l => (h.lanes l).sound (hs l)
  campaigns := fun hc => by
    have := congrArg List.length h.ids.1
    simp only [List.length_map] at this
    omega
  suspects := h.suspects

/-! ## The places of the port and the outer fields -/

theorem Keeps.portTo {b : Block} {p : Port} (hf : b.port.fits → p.fits) (hr : p.repliesUsed ≤ b.port.repliesUsed) : Keeps b { b with port := p } :=
  ⟨id, hf, hr, id, id, id, id, id⟩

theorem Keeps.flush (b : Block) : Keeps b b.flush :=
  Keeps.portTo Port.flush_fits (Nat.le_of_eq (Port.flush_queued b.port).replies)

theorem Keeps.clock (b : Block) (t : Nat) : Keeps b { b with clock := t } := ⟨id, id, Nat.le_refl _, id, id, id, id, id⟩
theorem Keeps.duty (b : Block) (d : Duty) : Keeps b { b with duty := d } := ⟨id, id, Nat.le_refl _, id, id, id, id, id⟩
theorem Keeps.capture (b : Block) (c : Vector CaptureSlot 16) : Keeps b { b with capture := c } := ⟨id, id, Nat.le_refl _, id, id, id, id, id⟩
theorem Keeps.stagingTo {b : Block} {m : List Host.Cell} (h : Memory.wf b.staging = true → Memory.wf m = true) : Keeps b { b with staging := m } :=
  ⟨h, id, Nat.le_refl _, id, id, id, id, id⟩
theorem Keeps.storeTo {b : Block} {st : Store} (h : b.store.balanced → st.balanced) : Keeps b { b with store := st } :=
  ⟨id, id, Nat.le_refl _, h, id, id, id, id⟩
theorem Keeps.recorderTo {b : Block} {r : Recorder} (h : b.recorder.Sound → r.Sound) : Keeps b { b with recorder := r } :=
  ⟨id, id, Nat.le_refl _, id, h, id, id, id⟩

/-! ## The record pool (R2, R6, R17, R27) -/

theorem Store.sum_update (f g : Fin 16 → Nat) (k : Fin 16) (h : ∀ j, j ≠ k → g j = f j) :
    (allSlots.map g).sum + f k = (allSlots.map f).sum + g k := by
  have e : ∀ j, g j = if j = k then g k else f j := fun j => by
    split
    · next h' => rw [h']
    · next h' => exact h j h'
  have e' : allSlots.map g = allSlots.map (fun j => if j = k then g k else f j) := List.map_congr_left fun j _ => e j
  rw [e']
  generalize g k = x
  have hk : ∀ k : Fin 16, ((allSlots.map (fun j => if j = k then x else f j)).sum + f k = (allSlots.map f).sum + x) := by
    intro k
    simp only [allSlots, List.map_cons, List.map_nil, List.sum_cons, List.sum_nil]
    fin_cases k <;> simp <;> omega
  exact hk k

/-- Records reserved by a slot's contents. -/
def Store.heldCount : Option Manifest → Nat
  | some m => m.count
  | none => 0

theorem Store.reserved_eq (st : Store) (k : Fin 16) : st.reserved k = Store.heldCount (st.manifest k) := by
  unfold Store.reserved
  cases st.manifest k <;> rfl

theorem Store.reserved_put (st : Store) (k j : Fin 16) (m : Option Manifest) :
    (st.put k m).reserved j = if j = k then Store.heldCount m else st.reserved j := by
  rw [Store.reserved_eq, Store.reserved_eq, Store.manifest_put]
  by_cases h : j = k
  · rw [if_pos h, if_pos h]
  · rw [if_neg h, if_neg h]

/-- Putting a manifest into a slot moves the balance by the records reserved. -/
theorem Store.balanced_put {st : Store} {k : Fin 16} {m : Option Manifest} {n : Nat} (h : st.balanced)
    (hn : n + Store.heldCount m = st.free + st.reserved k) :
    ({ st.put k m with free := n } : Store).balanced := by
  have hs := Store.sum_update st.reserved (st.put k m).reserved k fun j hj => by rw [Store.reserved_put, if_neg hj]
  have hk : (st.put k m).reserved k = Store.heldCount m := by rw [Store.reserved_put, if_pos rfl]
  rw [hk] at hs
  unfold Store.balanced at h ⊢
  have e : ({ st.put k m with free := n } : Store).reserved = (st.put k m).reserved := by
    funext j; unfold Store.reserved Store.manifest; rfl
  have e2 : ({ st.put k m with free := n } : Store).free = n := rfl
  rw [e, e2]
  revert hs hn h
  generalize Store.heldCount m = x
  generalize (allSlots.map st.reserved).sum = y
  generalize (allSlots.map (st.put k m).reserved).sum = z
  generalize st.reserved k = w
  generalize st.free = v
  intro h hn hs
  omega

theorem Store.balanced_congr {st st' : Store} (hf : st'.free = st.free) (hs : st'.slots = st.slots) (h : st.balanced) : st'.balanced := by
  have e : st'.reserved = st.reserved := by
    funext k; unfold Store.reserved Store.manifest; rw [hs]
  unfold Store.balanced at h ⊢
  rw [hf, e]; exact h

/-! ## Requests of the Fixity Store -/

/-- What a request's owner leaves keeps the bounds. -/
theorem Keeps.refuse (b : Block) (r : Reason) : Keeps b (b.refuse r).1 := Keeps.refl b

theorem Keeps.onManifest {b : Block} {n : Nat} {f : Fin 16 → Manifest → Block × Reply}
    (h : ∀ k m, b.store.manifest k = some m → Keeps b (f k m).1) : Keeps b (b.onManifest n f).1 := by
  unfold Block.onManifest
  split
  · exact Keeps.refl b
  · split
    · exact Keeps.refl b
    · next hm => exact h _ _ hm

theorem Keeps.openManifest (body : List Byte) (b : Block) : Keeps b (b.openManifest body).1 := by
  unfold Block.openManifest
  split
  · exact Keeps.refl b
  · next k _ =>
    split
    · exact Keeps.refl b
    · next hk =>
      split
      · exact Keeps.refl b
      · split
        · exact Keeps.refl b
        · next hf =>
          refine Keeps.storeTo fun hb => Store.balanced_put hb ?_
          have hr : b.store.reserved k = 0 := by
            unfold Store.reserved
            cases hm : b.store.manifest k with
            | none => rfl
            | some m => rw [hm] at hk; exact absurd rfl hk
          rw [hr]
          show b.store.free - fieldAt body 17 2 + fieldAt body 17 2 = b.store.free + 0
          omega

theorem Store.reserved_of {st : Store} {k : Fin 16} {m : Manifest} (h : st.manifest k = some m) : st.reserved k = m.count := by
  unfold Store.reserved; rw [h]

theorem Store.manifest_congr {st st' : Store} (hs : st'.slots = st.slots) (k : Fin 16) : st'.manifest k = st.manifest k := by
  unfold Store.manifest; rw [hs]

/-- A manifest replaced by one of as many frames keeps the balance. -/
theorem Store.balanced_replace {st : Store} {k : Fin 16} {m m' : Manifest} (h : st.balanced) (hm : st.manifest k = some m) (hc : m'.count = m.count) :
    (st.put k (some m')).balanced := by
  refine Store.balanced_put (n := st.free) h ?_
  rw [Store.reserved_of hm]
  show _ + m'.count = _
  rw [hc]

theorem Manifest.loadBatch_count (m : Manifest) (i : Nat) (ps : List (Nat × Word64)) : (m.loadBatch i ps).count = m.count := by
  unfold Manifest.loadBatch
  cases m.state <;> rfl

theorem Keeps.loadRecords (body : List Byte) (b : Block) : Keeps b (b.loadRecords body).1 := by
  unfold Block.loadRecords
  refine Keeps.onManifest fun k m hm => ?_
  split
  · exact Keeps.refl b
  · split
    · exact Keeps.refl b
    · refine Keeps.storeTo fun hb => ?_
      split
      · refine Store.balanced_replace (m := m) (Store.balanced_congr (Store.cancelRollup_free _ _) (Store.cancelRollup_slots _ _) hb) ?_
          (Manifest.loadBatch_count m _ _)
        rw [Store.manifest_congr (Store.cancelRollup_slots _ _)]
        exact hm
      · exact Store.balanced_replace hb hm (Manifest.loadBatch_count m _ _)

theorem Keeps.completeManifest (body : List Byte) (b : Block) : Keeps b (b.completeManifest body).1 := by
  unfold Block.completeManifest
  refine Keeps.onManifest fun k m hm => ?_
  split
  · refine Keeps.storeTo fun hb => ?_
    refine Store.balanced_congr (Store.takeRollup_free _) (Store.takeRollup_slots _) ?_
    exact Store.balanced_congr (st := b.store.put k _) rfl rfl
      (Store.balanced_replace (m' := { m with state := .closing, expected := some (BitVec.ofNat 64 (fieldAt body 1 8)) }) hb hm rfl)
  · exact Keeps.refl b

theorem Keeps.eraseManifest (body : List Byte) (b : Block) : Keeps b (b.eraseManifest body).1 := by
  unfold Block.eraseManifest
  refine Keeps.onManifest fun k m hm => ?_
  split
  · exact Keeps.refl b
  · refine Keeps.storeTo fun hb => ?_
    split
    · refine Store.balanced_put (Store.balanced_congr (Store.cancelRollup_free _ _) (Store.cancelRollup_slots _ _) hb) ?_
      have : (b.store.cancelRollup k).reserved k = m.count := Store.reserved_of (by rw [Store.manifest_congr (Store.cancelRollup_slots _ _)]; exact hm)
      rw [this]
      rfl
    · refine Store.balanced_put hb ?_
      rw [Store.reserved_of hm]
      rfl

theorem Keeps.bindCopies (body : List Byte) (b : Block) : Keeps b (b.bindCopies body).1 := by
  unfold Block.bindCopies
  refine Keeps.onManifest fun k m hm => ?_
  split
  · exact Keeps.refl b
  · split
    · split
      · exact Keeps.refl b
      · exact Keeps.storeTo fun hb => Store.balanced_replace hb hm rfl
    · exact Keeps.refl b

theorem Keeps.readManifest (body : List Byte) (b : Block) : Keeps b (b.readManifest body).1 := by
  unfold Block.readManifest
  split
  · exact Keeps.refl b
  · split <;> exact Keeps.refl b

theorem Keeps.readRecords (body : List Byte) (b : Block) : Keeps b (b.readRecords body).1 := by
  unfold Block.readRecords
  refine Keeps.onManifest fun k m hm => ?_
  split <;> exact Keeps.refl b

/-! ## Requests of the lanes and of the Annotation Capture -/

theorem Keeps.onLane {b : Block} {n : Nat} {f : Fin 8 → Block × Reply} (h : ∀ l, Keeps b (f l).1) : Keeps b (b.onLane n f).1 := by
  unfold Block.onLane
  split
  · exact Keeps.refl b
  · exact h _

/-- A lane changed in its settings alone keeps its bounds. -/
theorem Keeps.updLane {b : Block} (l : Fin 8) {f : Lane → Lane} (h : (b.lane l).Sound → (f (b.lane l)).Sound) : Keeps b (b.updLane l f) :=
  ⟨id, id, Nat.le_refl _, id, id, fun hs m => by
    rw [Block.lane_updLane]
    split
    · exact h (hs l)
    · exact hs m, id, id⟩

theorem Keeps.bringUpLane (body : List Byte) (b : Block) : Keeps b (b.bringUpLane body).1 := by
  unfold Block.bringUpLane
  refine Keeps.onLane fun l => ?_
  split
  · exact (Inner.enterSettling (.updLane (Inner.refl b) l (Lane.kept_clear rfl rfl rfl rfl)) l _ _).keeps
  · exact Keeps.refl b

theorem Keeps.putDownLane (body : List Byte) (b : Block) : Keeps b (b.putDownLane body).1 := by
  unfold Block.putDownLane
  refine Keeps.onLane fun l => ?_
  split
  · exact Keeps.refl b
  · split
    · dsimp only [Block.done]
      refine Keeps.updLane l ?_
      exact fun s => ⟨s.next, s.restarts, s.session⟩
    · exact ((Inner.refl b).putDown l).keeps

theorem Keeps.restartLane (body : List Byte) (b : Block) : Keeps b (b.restartLane body).1 := by
  unfold Block.restartLane
  refine Keeps.onLane fun l => ?_
  split
  · exact (Inner.enterSettling (.updLane (Inner.refl b) l (Lane.kept_clear rfl rfl rfl rfl)) l _ _).keeps
  · exact Keeps.refl b

theorem Keeps.setLane (body : List Byte) (b : Block) : Keeps b (b.setLane body).1 := by
  unfold Block.setLane
  refine Keeps.onLane fun l => ?_
  split
  · exact Keeps.refl b
  · next st _ =>
    have h1 : Keeps b (b.updLane l (fun ln => { ln with settings := st })) := Keeps.updLane l fun s => ⟨s.next, s.restarts, s.session⟩
    exact h1.trans (Inner.ask (.regateIfChanged (Inner.refl _) l _) l).keeps

theorem Keeps.readLane (body : List Byte) (b : Block) : Keeps b (b.readLane body).1 := by
  unfold Block.readLane
  exact Keeps.onLane fun l => Keeps.refl b

theorem Keeps.setCapture (body : List Byte) (b : Block) : Keeps b (b.setCapture body).1 := by
  unfold Block.setCapture
  split
  · exact Keeps.capture b _
  · exact Keeps.refl b

theorem Keeps.readCapture (body : List Byte) (b : Block) : Keeps b (b.readCapture body).1 := by
  unfold Block.readCapture
  split <;> exact Keeps.refl b

/-! ## Requests on campaigns -/

theorem Store.Kept.pinCampaign (st : Store) (k : Fin 16) : Store.Kept st (st.pinCampaign k) := Store.Kept.updManifest _ k fun _ => rfl

theorem Keeps.acceptCampaign {b : Block} (c : Campaign) (h : b.sched.table.length < 24) : Keeps b (b.acceptCampaign c).1 := by
  have h1 : ∀ sc : Scheduler, sc.table.length ≤ 24 → Keeps b { b with sched := sc } := fun sc hs =>
    ⟨id, id, Nat.le_refl _, id, id, id, fun _ => hs, id⟩
  unfold Block.acceptCampaign
  dsimp only [Block.done]
  have h2 : ∀ d : Block, Inner d (d.updStore (fun st => st.pinCampaign c.slot)) := fun d => .updStore (Inner.refl d) (Store.Kept.pinCampaign _ _)
  split
  · exact (h1 _ (by simp; omega)).trans ((h2 _).ask _).keeps
  · exact (h1 _ (by simp; omega)).trans (h2 _).keeps

theorem Keeps.verify (body : List Byte) (b : Block) : Keeps b (b.verify body).1 := by
  unfold Block.verify
  split
  · exact Keeps.refl b
  · split
    · exact Keeps.refl b
    · split
      · exact Keeps.refl b
      · split
        · exact Keeps.refl b
        · split
          · exact Keeps.refl b
          · split
            · exact Keeps.refl b
            · next hl => exact Keeps.acceptCampaign _ (by omega)

theorem Keeps.onCampaign {b : Block} {n : Nat} {f : Campaign → Block × Reply} (h : ∀ c, b.campaign n = some c → Keeps b (f c).1) :
    Keeps b (b.onCampaign n f).1 := by
  unfold Block.onCampaign
  split
  · exact Keeps.refl b
  · next hc => exact h _ hc

theorem Keeps.resumeCampaign (body : List Byte) (b : Block) : Keeps b (b.resumeCampaign body).1 := by
  unfold Block.resumeCampaign
  refine Keeps.onCampaign fun c _ => ?_
  split
  · exact Keeps.refl b
  · split
    · exact Keeps.refl b
    · unfold Block.resumeHeld
      split
      · exact ((Inner.refl b).closeCampaign _ _ _ _).keeps
      · exact (Inner.releaseCampaign (.updCampaign (Inner.refl b) c.id fun _ => by rfl) c.id _).keeps

theorem Keeps.abandonCampaign (body : List Byte) (b : Block) : Keeps b (b.abandonCampaign body).1 := by
  unfold Block.abandonCampaign
  refine Keeps.onCampaign fun c _ => ?_
  split
  · exact (((Inner.refl b).campaignEndsSession c).closeCampaign _ _ _ _).keeps
  · exact Keeps.refl b

theorem Keeps.dismissCampaign (body : List Byte) (b : Block) : Keeps b (b.dismissCampaign body).1 := by
  unfold Block.dismissCampaign
  refine Keeps.onCampaign fun c _ => ?_
  split
  · exact Keeps.refl b
  · split
    · exact Keeps.refl b
    · exact ⟨id, id, Nat.le_refl _, id, id, id, fun h => Nat.le_trans (List.length_filter_le _ _) h, id⟩

theorem Keeps.readCampaign (body : List Byte) (b : Block) : Keeps b (b.readCampaign body).1 := by
  unfold Block.readCampaign
  split
  · exact Keeps.refl b
  · exact Keeps.onCampaign fun c _ => Keeps.refl b

/-! ## Requests of the Finding Recorder -/

theorem Keeps.readFindings (body : List Byte) (b : Block) : Keeps b (b.readFindings body).1 := by
  unfold Block.readFindings
  split <;> exact Keeps.refl b

theorem Inner.giveSequence {a b : Block} (h : Inner a b) (f : Finding) (n : Nat) : Inner a (b.giveSequence f n) := by
  unfold Block.giveSequence; split
  · exact h.updEntry _ _
  · exact h

theorem Inner.releaseLogged {a b : Block} (h : Inner a b) (id : Nat) (halted : Bool) : Inner a (b.releaseLogged id halted) := by
  unfold Block.releaseLogged
  split
  · exact h
  · split
    · split
      · exact .campaignNotice (.updCampaign h id fun _ => by rfl) id _
      · split
        · exact h.closeCampaign _ _ _ _
        · exact h.releaseCampaign _ _
    · exact h

theorem Recorder.canAppend_pending (r : Recorder) (ps : List PendingFinding) : ({ r with pending := ps } : Recorder).canAppend = r.canAppend := rfl

theorem Inner.logPending {a b : Block} (h : Inner a b) (p : PendingFinding) (rest : List PendingFinding) (hc : b.recorder.canAppend = true) :
    Inner a (b.logPending p rest) := by
  have h1 : Inner a { b with recorder := ({ b.recorder with pending := rest }).append p.finding } :=
    h.recorderTo rfl rfl fun s => Recorder.Sound.append (r := { b.recorder with pending := rest }) ⟨s.size, s.rising, s.below⟩ _ hc
  unfold Block.logPending
  dsimp only
  split
  · exact .releaseLogged (.updCampaign (.giveSequence h1 _ _) _ fun _ => by rfl) _ _
  · exact .releaseLogged (.updCampaign h1 _ fun _ => by rfl) _ _

theorem Inner.drainPending : ∀ (n : Nat) {a b : Block}, Inner a b → Inner a (Block.drainPending n b)
  | 0, _, _, h => h
  | n + 1, a, b, h => by
    unfold Block.drainPending
    split
    · exact h
    · split
      · next hc => exact Inner.drainPending n (h.logPending _ _ hc)
      · exact h

theorem Finding.seq_mark (f : Finding) (n : Nat) : (if f.sequence.getD 0 ≤ n then { f with acknowledged := true } else f).seq = f.seq := by
  split <;> rfl

theorem Recorder.Sound.mark {r : Recorder} (h : r.Sound) (n : Nat) : (r.mark n).Sound := by
  refine ⟨by simp only [Recorder.mark, List.length_map]; exact h.size, ?_, ?_⟩
  · simp only [Recorder.mark, List.pairwise_map, Finding.seq_mark]
    exact h.rising
  · intro f hf
    simp only [Recorder.mark, List.mem_map] at hf
    obtain ⟨g, hg, e⟩ := hf
    rw [← e, Finding.seq_mark]
    exact h.below g hg

theorem Keeps.acknowledge (body : List Byte) (b : Block) : Keeps b (b.acknowledge body).1 := by
  unfold Block.acknowledge
  dsimp only
  split
  · exact Keeps.refl b
  · refine (Keeps.recorderTo (r := b.recorder.mark (fieldAt body 0 4)) fun s => s.mark _).trans (Inner.keeps ?_)
    dsimp only [Block.done]
    have h2 := Inner.drainPending b.recorder.pending.length (Inner.refl { b with recorder := b.recorder.mark (fieldAt body 0 4) })
    split
    · exact h2
    · exact h2.raise _

theorem Keeps.setProfile (body : List Byte) (b : Block) : Keeps b (b.setProfile body).1 := by
  unfold Block.setProfile
  split
  · exact Keeps.recorderTo fun s => ⟨s.size, s.rising, s.below⟩
  · exact Keeps.refl b

theorem Keeps.selectProfile (body : List Byte) (b : Block) : Keeps b (b.selectProfile body).1 := by
  unfold Block.selectProfile
  split
  · exact Keeps.refl b
  · exact Keeps.recorderTo fun s => ⟨s.size, s.rising, s.below⟩

theorem Keeps.readFlags (b : Block) : Keeps b b.readFlags.1 := Keeps.refl b

theorem Keeps.clearFlags (body : List Byte) (b : Block) : Keeps b (b.clearFlags body).1 := by
  unfold Block.clearFlags
  split
  · exact Keeps.recorderTo fun s => ⟨s.size, s.rising, s.below⟩
  · exact Keeps.refl b

/-! ## Requests of the Repair Engine -/

theorem Inner.enqueueHost {a b : Block} (h : Inner a b) (k : Fin 16) (d s : Fin 8) (allowed : Bool) (frame : Nat) :
    Inner a (Block.enqueueHost k d s allowed b frame) := by
  unfold Block.enqueueHost
  split
  · next hc => exact h.appendEntry _ _ _ _ _ _ _ hc.1
  · exact h

theorem Keeps.enqueueSuspects (body : List Byte) (b : Block) : Keeps b (b.enqueueSuspects body).1 := by
  unfold Block.enqueueSuspects
  split
  · split
    · exact Keeps.refl b
    · split
      · exact Keeps.refl b
      · split
        · exact Keeps.refl b
        · split
          · exact Keeps.refl b
          · exact (Inner.startPass (Inner.foldl (fun _ f k => k.enqueueHost _ _ _ _ f) _ (Inner.refl b))).keeps
  · exact Keeps.refl b

theorem Inner.withdrawStarted {a b : Block} (h : Inner a b) (k : EntryKey) : Inner a (b.withdrawStarted k) :=
  .dropEntry (.updStore (.freeEntry h k) (Store.Kept.updRecord _ _ _ _)) k

theorem Keeps.withdrawSuspect (body : List Byte) (b : Block) : Keeps b (b.withdrawSuspect body).1 := by
  unfold Block.withdrawSuspect
  split
  · exact Keeps.refl b
  · split
    · exact Keeps.refl b
    · next e _ =>
      unfold Block.withdrawEntry
      split
      · exact (((Inner.refl b).dropEntry _).startPass).keeps
      · have h1 : Inner b (b.endStep e) := by
          unfold Block.endStep; split
          · exact (Inner.refl b).endOwner _
          · exact Inner.refl b
        exact ((h1.withdrawStarted _).startPass).keeps
      · exact (((Inner.refl b).withdrawStarted _).startPass).keeps
      · exact Keeps.refl b
      · exact Keeps.refl b

theorem Keeps.readSuspects (body : List Byte) (b : Block) : Keeps b (b.readSuspects body).1 := by
  unfold Block.readSuspects
  split <;> exact Keeps.refl b

theorem Inner.testStaged {a b : Block} (h : Inner a b) : Inner a b.testStaged := Inner.foldl (fun _ e k => k.rewriteTest e.key) _ h

theorem Keeps.setRepair (body : List Byte) (b : Block) : Keeps b (b.setRepair body).1 := by
  unfold Block.setRepair
  split
  · exact Keeps.refl b
  · next on _ =>
    have h1 : Keeps b (b.updRepair (fun r => { r with rewriteEnabled := on })) := ⟨id, id, Nat.le_refl _, id, id, id, id, id⟩
    dsimp only [Block.done]
    split
    · exact h1
    · exact h1.trans (Inner.refl _).testStaged.keeps

/-! ## Requests of the Duty Controller -/

theorem Keeps.setDuty (body : List Byte) (b : Block) : Keeps b (b.setDuty body).1 := by
  unfold Block.setDuty
  split
  · exact Keeps.refl b
  · split
    · exact Keeps.refl b
    · obtain ⟨d, hd⟩ := Block.switchDuty_inner b (WakeMode.mode ‹_›)
      exact (Keeps.duty b d).trans hd.keeps

theorem Keeps.hold (body : List Byte) (b : Block) : Keeps b (b.hold body).1 := by
  unfold Block.hold
  split
  · exact Keeps.refl b
  · next w _ =>
    split
    · obtain ⟨d, hd⟩ := Block.enterHeld_inner b w (fieldAt body 1 2)
      exact (Keeps.duty b d).trans hd.keeps
    · exact Keeps.refl b

theorem Keeps.wake (body : List Byte) (b : Block) : Keeps b (b.wake body).1 := by
  unfold Block.wake
  split
  · exact Keeps.refl b
  · next w _ =>
    obtain ⟨d, hd⟩ := Block.leaveHeld_inner b w .wake
    exact (Keeps.duty b d).trans hd.keeps

theorem Keeps.setPacing (body : List Byte) (b : Block) : Keeps b (b.setPacing body).1 := by
  unfold Block.setPacing
  split
  · split
    · exact (Keeps.duty b _).trans ((Inner.refl _).permissionChange _).keeps
    · exact Keeps.refl b
  · exact Keeps.refl b

theorem Inner.startCalibration {a b : Block} (h : Inner a b) (l : Fin 8) : Inner a (b.startCalibration l) := by
  unfold Block.startCalibration
  dsimp only
  exact .startStall (.updDuty (.updLane (.send (.openSession h l _ _ _) l _) l (Lane.kept_same rfl rfl rfl rfl)) rfl) l

theorem Keeps.calibrateLane (body : List Byte) (b : Block) : Keeps b (b.calibrateLane body).1 := by
  unfold Block.calibrateLane
  refine Keeps.onLane fun l => ?_
  split
  · exact Keeps.refl b
  · split
    · exact Keeps.refl b
    · exact ((Inner.refl b).startCalibration l).keeps

theorem Keeps.readDuty (b : Block) : Keeps b b.readDuty.1 := Keeps.refl b

/-! ## RESTART ENGINE -/

theorem Inner.restartLaneState {a b : Block} (h : Inner a b) (l : Fin 8) : Inner a (b.restartLaneState l) := by
  have fin : ∀ {c : Block}, Inner a c → Inner a (c.updLane l (fun ln => { ln with restarts := 0, pacing := none, gate := none })) :=
    fun hc => hc.updLane l (Lane.kept_clear rfl rfl rfl rfl)
  unfold Block.restartLaneState
  dsimp only
  apply fin
  split
  · exact .updLane ((h.dropExchange l).haltSession l) l (Lane.kept_same rfl rfl rfl rfl)
  · exact .updLane ((h.dropExchange l).haltSession l) l (Lane.kept_same rfl rfl rfl rfl)
  · exact ((h.dropExchange l).haltSession l).becomeLent l _
  · exact h.haltSession l
  all_goals exact h

theorem Store.restartSlot_balanced {st : Store} (h : st.balanced) (list : List Entry) (k : Fin 16) : (Store.restartSlot list st k).balanced := by
  unfold Store.restartSlot
  split
  · exact h
  · next m hm =>
    refine Store.balanced_put h ?_
    rw [Store.reserved_of hm]
    unfold Manifest.returned Manifest.restarted
    split <;> simp_all [Store.heldCount]

theorem Store.restarted_balanced {st : Store} (h : st.balanced) (list : List Entry) : (st.restarted list).balanced := by
  have key : ∀ (ks : List (Fin 16)) (st : Store), st.balanced → (ks.foldl (Store.restartSlot list) st).balanced := by
    intro ks
    induction ks with
    | nil => intro st h; exact h
    | cons k ks ih => intro st h; exact ih _ (Store.restartSlot_balanced h list k)
  exact key allSlots _ (Store.balanced_congr (st := st) rfl rfl h)

theorem Block.partsRestarted_pool {b : Block} (h : b.store.balanced) : b.partsRestarted.store.balanced := by
  unfold Block.partsRestarted
  dsimp only
  exact Store.restarted_balanced h _

theorem Block.partsRestarted_list (b : Block) : b.partsRestarted.repair.list.length = b.repair.list.length := by
  unfold Block.partsRestarted Block.repairRestarted
  dsimp only
  rw [List.length_map]

theorem Block.partsRestarted_replies (b : Block) : b.partsRestarted.port.repliesUsed ≤ b.port.repliesUsed := by
  unfold Block.partsRestarted Port.restarted Port.repliesUsed
  dsimp only
  exact List.Sublist.countP_le (List.take_sublist 1 _)

theorem Keeps.partsRestarted (b : Block) : Keeps b b.partsRestarted :=
  ⟨id, Port.restarted_fits, Block.partsRestarted_replies b, Block.partsRestarted_pool, fun s => ⟨s.size, s.rising, s.below⟩, id,
    fun _ => Nat.zero_le _, fun h => Nat.le_trans (Nat.le_of_eq (Block.partsRestarted_list b)) h⟩

theorem Inner.lanesRestarted {a b : Block} (h : Inner a b) : Inner a b.lanesRestarted := by
  unfold Block.lanesRestarted
  refine Inner.foldl (fun e l k => ?_) _ (Inner.foldl (fun _ l k => k.restartLaneState l) _ h)
  unfold Block.restartCalibration
  split
  · exact k.abortCalibration l _
  · exact k

theorem Keeps.dutyRestarted (b : Block) (w : WakeMode) (t : Nat) : Keeps b (b.dutyRestarted w t) :=
  ⟨id, id, Nat.le_refl _, id, id, id, id, id⟩

theorem Inner.restartDecisions {a b : Block} (h : Inner a b) : Inner a (allLanes.foldl Block.restartDecision b) := by
  refine Inner.foldl (fun e l k => ?_) _ h
  unfold Block.restartDecision
  split
  · exact k.putDownByHold l _
  · exact k

theorem Keeps.restarted (b : Block) : Keeps b b.restarted :=
  (Keeps.partsRestarted b).trans (.trans (Inner.lanesRestarted (Inner.refl _)).keeps
    (.trans (Keeps.dutyRestarted _ b.duty.restartWake b.clock) (Inner.restartDecisions (Inner.refl _)).keeps))

theorem Keeps.restartEngine (b : Block) : Keeps b b.restartEngine.1 :=
  (Keeps.restarted b).trans (Inner.keeps (.raise (Inner.refl _) _))

end Sys2Proof.Machine
end

