-- ==== Sys2Proof/Laws/Kept.lean ====
section
/-! SUPPORT. The bounds of Safety.lean over a whole step of the part, event or request, and what is left over when one has ended. -/
namespace Sys2Proof.Machine

/-- The bounds that hold before a step hold after it. -/
structure Stays (a b : Block) : Prop where
  staging   : Memory.wf a.staging = true → Memory.wf b.staging = true
  port      : a.port.fits → b.port.fits
  pool      : a.store.balanced → b.store.balanced
  recorder  : a.recorder.Sound → b.recorder.Sound
  lanes     : (∀ l, (a.lane l).Sound) → ∀ l, (b.lane l).Sound
  campaigns : a.sched.table.length ≤ 24 → b.sched.table.length ≤ 24
  suspects  : a.repair.list.length ≤ 128 → b.repair.list.length ≤ 128

theorem Stays.refl (b : Block) : Stays b b := ⟨id, id, id, id, id, id, id⟩

theorem Keeps.stays {a b : Block} (h : Keeps a b) : Stays a b :=
  ⟨h.staging, h.port, h.pool, h.recorder, h.lanes, h.campaigns, h.suspects⟩

/-- A block right after reset is within its bounds, whatever was before. -/
theorem Block.started_bounds (c : EngineCause) : Memory.wf (Block.started c).staging = true ∧ (Block.started c).port.fits ∧ (Block.started c).store.balanced ∧
    (Block.started c).recorder.Sound ∧ (∀ l, ((Block.started c).lane l).Sound) := by
  refine ⟨rfl, ⟨?_, ?_, ?_⟩, ?_, ⟨?_, ?_, ?_⟩, ?_⟩
  · exact Nat.zero_le _
  · exact Nat.zero_le _
  · show 1 ≤ 12; decide
  · have e : (Block.started c).store.reserved = fun _ => 0 := by
      funext k; revert k; show ∀ k : Fin 16, Store.reserved Store.reset k = 0; decide
    unfold Store.balanced
    rw [e]
    show 16384 + _ = 16384
    decide
  · exact Nat.zero_le _
  · exact List.Pairwise.nil
  · intro f hf; cases hf
  · intro l
    have e : (Block.started c).lane l = {} := by
      revert l; show ∀ l : Fin 8, (Vector.replicate 8 ({} : Lane))[l] = {}; decide
    rw [e]
    exact ⟨by decide, by decide, by intro s h; cases h⟩

theorem Stays.started (a : Block) (c : EngineCause) : Stays a (Block.started c) := by
  obtain ⟨h1, h2, h3, h4, h5⟩ := Block.started_bounds c
  exact ⟨fun _ => h1, fun _ => h2, fun _ => h3, fun _ => h4, fun _ => h5, fun _ => Nat.zero_le _, fun _ => Nat.zero_le _⟩

/-! ## Steps that are no request -/

theorem Keeps.eventStep {b : Block} {f : Block → Block} (h : Keeps b (f b)) : Keeps b (b.eventStep f) := by
  unfold Block.eventStep
  split
  · exact Keeps.refl b
  · exact (h.trans (Inner.settleWork (Inner.refl _)).keeps).trans (Keeps.flush _)

theorem Keeps.sessionUnit {α : Type} {type : Byte} {l : Fin 8} {session : Byte} {body : List Byte} {crc : Word32} {parsed : Option α}
    {f : α → Block → Block} {b : Block} (h : ∀ x, Keeps b (f x b)) : Keeps b (b.sessionUnit type l session body crc parsed f) := by
  rcases Block.sessionUnit_cases type l session body crc parsed f b with e | e | ⟨x, _, e⟩ <;> rw [e]
  · exact Keeps.refl b
  · exact ((Inner.refl b).malformed l).keeps
  · exact h x

theorem Keeps.linkUnit {α : Type} {type : Byte} {l : Fin 8} {session : Byte} {body : List Byte} {crc : Word32} {parsed : Option α}
    {f : α → Block → Block} {b : Block} (h : ∀ x, Keeps b (f x b)) : Keeps b (b.linkUnit type l session body crc parsed f) := by
  rcases Block.linkUnit_cases type l session body crc parsed f b with e | ⟨x, _, e⟩ <;> rw [e]
  · exact ((Inner.refl b).malformed l).keeps
  · exact h x

theorem Keeps.clocked {b c : Block} {P : Nat → Prop} (h : ∃ t, P t ∧ Inner { b with clock := t } c) : Keeps b c := by
  obtain ⟨t, _, hi⟩ := h
  exact (Keeps.clock b t).trans hi.keeps

theorem Keeps.portStep {b : Block} {f : Port → Port} (hf : b.port.fits → (f b.port).fits) (hr : (f b.port).repliesUsed ≤ b.port.repliesUsed) :
    Keeps b (b.portStep f) := Keeps.portTo hf hr

theorem Port.accept_replies (p : Port) (r : Request) : (p.accept r).repliesUsed = p.repliesUsed := by unfold Port.accept; split <;> rfl

theorem Port.scan_replies : ∀ (n : Nat) (bs : List Byte) (p : Port), (Port.scan n bs p).repliesUsed = p.repliesUsed
  | 0, _, _ => rfl
  | n + 1, bs, p => by
    unfold Port.scan
    split
    · rfl
    · split
      · exact Port.scan_replies n _ p
      · split
        · rfl
        · split
          · exact Port.scan_replies n _ p
          · split
            · rfl
            · split
              · exact Port.scan_replies n _ _
              · split
                · rfl
                · split
                  · exact Port.scan_replies n _ _
                  · split
                    · exact Port.scan_replies n _ _
                    · exact (Port.scan_replies n _ _).trans (Port.accept_replies _ _)

theorem Port.gapExpired_replies (p : Port) : p.gapExpired.repliesUsed = p.repliesUsed := by
  unfold Port.gapExpired; split
  · exact Port.scan_replies _ _ _
  · rfl

theorem Port.frameSent_replies (p : Port) : p.frameSent.repliesUsed ≤ p.repliesUsed := by
  unfold Port.frameSent
  split
  · exact Nat.le_refl _
  · next f t e =>
    split
    · simp [Port.repliesUsed, e, OutFrame.isNotice, List.countP_cons]
    · simp only [Port.repliesUsed, e, List.countP_cons]; exact Nat.le_add_right _ _

/-! ## Requests -/

theorem Stays.requestStep {b : Block} (r : Request) {owner : Block → Block × Reply} (h : ∀ c, Keeps c (owner c).1) : Stays b (b.requestStep r owner) := by
  unfold Block.requestStep
  split
  · exact Stays.refl b
  · have hear : ∀ c : Block, c = (if b.port.inbound.head? = some r then b else { b with port := b.port.hear r }) →
        Stays b (if c.port.canTake r then { (c.apply r owner).1.settleWork with port := (c.apply r owner).1.settleWork.port.answer r (c.apply r owner).2 } else c.flush) := by
      intro c hc
      have k1 : Keeps b c := by
        rw [hc]; split
        · exact Keeps.refl b
        · refine Keeps.portTo (fun hf => Port.hear_fits hf r) (Nat.le_of_eq ?_)
          unfold Port.hear
          split
          · rfl
          · split
            · rfl
            · exact Port.accept_replies _ _
      split
      · next ht =>
        have k2 : Keeps c (c.apply r owner).1 := by
          unfold Block.apply; split
          · exact Keeps.refl c
          · exact h c
        have k3 := k2.trans (Inner.settleWork (Inner.refl (c.apply r owner).1)).keeps
        have k4 := k1.trans k3
        have ht' : c.port.repliesUsed < 4 := by
          simp only [Port.canTake, Bool.and_eq_true, decide_eq_true_eq] at ht; exact ht.2
        exact ⟨k4.staging, fun hf => Port.answer_fits (k4.port hf) (Nat.lt_of_le_of_lt k3.replies ht') _ _, k4.pool, k4.recorder, k4.lanes, k4.campaigns, k4.suspects⟩
      · exact (k1.trans (Keeps.flush _)).stays
    exact hear _ rfl

/-! ## What the commands use -/

/-- The commands that are no request and no reset keep the bounds. -/
theorem Keeps.event (f : Block → Block) (h : ∀ b, Keeps b (f b)) {s t : State} (e : s.event f = .next t) : Stays s.blk t.blk := by
  unfold State.event at e
  cases e
  exact (Keeps.eventStep (h s.blk)).stays

theorem Stays.request {kind tag : Byte} {body : List Byte} (owner : Block → Block × Reply) (h : ∀ b, Keeps b (owner b).1) {s t : State}
    (e : s.request kind tag body owner = .next t) : Stays s.blk t.blk := by
  unfold State.request at e
  cases e
  exact Stays.requestStep _ h

theorem Keeps.payloadTaken (l : Fin 8) (body : List Byte) (b : Block) : Keeps b (b.payloadTaken l body) := by
  obtain ⟨m, hm, hi⟩ := Block.payloadTaken_inner l body b
  exact (Keeps.stagingTo hm).trans hi.keeps

theorem Keeps.annotationTaken (l : Fin 8) (x : Byte × List Byte × Word16) (b : Block) : Keeps b (b.annotationTaken l x) := by
  obtain ⟨c, hi⟩ := Block.annotationTaken_inner l x b
  exact (Keeps.capture b c).trans hi.keeps

theorem Keeps.holdExpires (b : Block) : Keeps b b.holdExpires := by
  obtain ⟨t, d, _, hi⟩ := Block.holdExpires_inner b
  exact ((Keeps.clock b t).trans (Keeps.duty _ d)).trans hi.keeps

theorem Keeps.freshnessExpires (k : Fin 16) (b : Block) : Keeps b (b.freshnessExpires k) := by
  obtain ⟨t, c, _, hi⟩ := Block.freshnessExpires_inner k b
  exact ((Keeps.clock b t).trans (Keeps.capture _ c)).trans hi.keeps

/-! ## Nothing left over (R31, R204) -/

/-- What stands in a block when a step has ended. -/
theorem Block.eventStep_done {b : Block} (h : b.quiet ∧ b.told) (f : Block → Block) : (b.eventStep f).quiet ∧ (b.eventStep f).told := by
  unfold Block.eventStep
  split
  · exact h
  · exact ⟨Block.settleWork_settles (f b), Port.flush_raised _⟩

theorem Block.requestStep_done {b : Block} (h : b.quiet ∧ b.told) (r : Request) (owner : Block → Block × Reply) :
    (b.requestStep r owner).quiet ∧ (b.requestStep r owner).told := by
  unfold Block.requestStep
  split
  · exact h
  · have key : ∀ c : Block, c.quiet →
        (if c.port.canTake r then { (c.apply r owner).1.settleWork with port := (c.apply r owner).1.settleWork.port.answer r (c.apply r owner).2 } else c.flush).quiet ∧
        (if c.port.canTake r then { (c.apply r owner).1.settleWork with port := (c.apply r owner).1.settleWork.port.answer r (c.apply r owner).2 } else c.flush).told := by
      intro c hc
      split
      · exact ⟨Block.settleWork_settles (c.apply r owner).1, Port.flush_raised _⟩
      · exact ⟨hc, Port.flush_raised _⟩
    refine key _ ?_
    split
    · exact h.1
    · exact h.1

end Sys2Proof.Machine
end

