-- ==== Sys2Proof/Laws/Taken.lean ====
section
/-! SUPPORT. What ending an exchange and a session leaves of the lanes and of the Digest Pool (R37, R38, R56, R189); the bytes a held unit reports (R36, R176). -/
namespace Sys2Proof.Machine

/-! ## The pacing gate (R190) -/

theorem Block.regate_lane (b : Block) (l : Fin 8) :
    (b.regate l).lane l = { b.lane l with gate := ((b.regate l).lane l).gate } ∧ (∀ j, j ≠ l → (b.regate l).lane j = b.lane j) ∧ (b.regate l).pool = b.pool := by
  unfold Block.regate
  split
  · split
    · dsimp only
      split
      · refine ⟨?_, fun j hj => ?_, ?_⟩
        · simp only [Block.ask_lane, Block.lane_updLane_self]
        · rw [Block.ask_lane, Block.lane_updLane_ne _ _ hj]
        · simp
      · refine ⟨?_, fun j hj => ?_, rfl⟩
        · simp only [Block.lane_updLane_self]
        · rw [Block.lane_updLane_ne _ _ hj]
    · exact ⟨rfl, fun j _ => rfl, rfl⟩
  · exact ⟨rfl, fun j _ => rfl, rfl⟩

theorem Block.endPacing_lane (b : Block) (l : Fin 8) :
    (b.endPacing l).lane l = { b.lane l with pacing := ((b.endPacing l).lane l).pacing, gate := ((b.endPacing l).lane l).gate } ∧
      (∀ j, j ≠ l → (b.endPacing l).lane j = b.lane j) ∧ (b.endPacing l).pool = b.pool := by
  unfold Block.endPacing
  split
  · next f _ _ =>
    obtain ⟨h1, h2, h3⟩ := Block.regate_lane (b.updLane l (fun ln => { ln with pacing := ln.pacing.map (fun p => { p with ended := some (f.soFar, b.clock) }) })) l
    refine ⟨?_, fun j hj => ?_, ?_⟩
    · conv_lhs => rw [h1]
      rw [Block.lane_updLane_self, h1]
      simp only [Block.lane_updLane_self]
    · rw [h2 j hj, Block.lane_updLane_ne _ _ hj]
    · rw [h3]; rfl
  · exact ⟨rfl, fun j _ => rfl, rfl⟩

/-! ## Ending an exchange and a session (R37, R38, R56) -/

/-- Ending the exchange stops the stall timer and changes nothing else of the lane but its pacing. -/
theorem Block.dropExchange_lane (b : Block) (l : Fin 8) :
    (b.dropExchange l).lane l = { b.lane l with
      exchange := .idle, stallTimer := none, pacing := ((b.dropExchange l).lane l).pacing, gate := ((b.dropExchange l).lane l).gate } := by
  unfold Block.dropExchange
  simp only [Block.lane_updLane_self, Block.updPool_lane]
  conv_lhs => rw [(Block.endPacing_lane b l).1]

theorem Block.dropExchange_lane_ne (b : Block) {l j : Fin 8} (h : j ≠ l) : (b.dropExchange l).lane j = b.lane j := by
  unfold Block.dropExchange
  rw [Block.lane_updLane_ne _ _ h, Block.updPool_lane, (Block.endPacing_lane b l).2.1 j h]

/-- Ending the exchange gives back the digest unit or the claim. -/
theorem Block.dropExchange_pool (b : Block) (l : Fin 8) : (b.dropExchange l).pool = (b.pool.withdraw l).release l := by
  unfold Block.dropExchange
  rw [Block.updLane_pool, Block.updPool_pool, (Block.endPacing_lane b l).2.2]

/-- Asking an arbiter changes the list of asks alone. -/
theorem Block.ask_rest (b : Block) (l : Fin 8) : ∃ ls, b.ask l = { b with asks := ls } := by
  unfold Block.ask; split
  · exact ⟨b.asks, rfl⟩
  · exact ⟨_, rfl⟩

/-- Ending the exchange changes lanes, digest units and asks alone. -/
theorem Block.dropExchange_rest (b : Block) (l : Fin 8) : ∃ lanes pool asks, b.dropExchange l = { b with lanes := lanes, pool := pool, asks := asks } := by
  have regate : ∀ c : Block, ∃ lanes asks, c.regate l = { c with lanes := lanes, asks := asks } := by
    intro c
    unfold Block.regate
    split
    · split
      · dsimp only
        split
        · obtain ⟨ls, e⟩ := Block.ask_rest (c.updLane l (fun ln => { ln with gate := some _ })) l
          exact ⟨_, ls, by rw [e]; rfl⟩
        · exact ⟨_, _, rfl⟩
      · exact ⟨_, _, rfl⟩
    · exact ⟨_, _, rfl⟩
  unfold Block.dropExchange Block.endPacing
  split
  · obtain ⟨ls, as, e⟩ := regate (b.updLane l _)
    exact ⟨_, _, as, by rw [e]; rfl⟩
  · exact ⟨_, _, _, rfl⟩

theorem Block.dropExchange_store (b : Block) (l : Fin 8) : (b.dropExchange l).store = b.store := by
  obtain ⟨_, _, _, e⟩ := Block.dropExchange_rest b l
  rw [e]

theorem Block.dropExchange_sched (b : Block) (l : Fin 8) : (b.dropExchange l).sched = b.sched := by
  obtain ⟨_, _, _, e⟩ := Block.dropExchange_rest b l
  rw [e]

theorem Block.dropExchange_repair (b : Block) (l : Fin 8) : (b.dropExchange l).repair = b.repair := by
  obtain ⟨_, _, _, e⟩ := Block.dropExchange_rest b l
  rw [e]

/-- Ending the session sends HALT when one is open. -/
theorem Block.haltSession_lane (b : Block) (l : Fin 8) : (b.haltSession l).lane l =
    { b.lane l with session := none, sent := (b.lane l).sent ++ ((b.lane l).session.map (fun x => SentUnit.halt x.number)).toList } := by
  unfold Block.haltSession
  split
  · next x h => simp [Block.send, h]
  · next h =>
    revert h
    generalize b.lane l = ln
    intro h
    cases ln
    simp only at h
    subst h
    simp

theorem Block.haltSession_lane_ne (b : Block) {l j : Fin 8} (h : j ≠ l) : (b.haltSession l).lane j = b.lane j := by
  unfold Block.haltSession
  split
  · unfold Block.send; rw [Block.lane_updLane_ne _ _ h, Block.lane_updLane_ne _ _ h]
  · rfl

@[simp] theorem Block.haltSession_pool (b : Block) (l : Fin 8) : (b.haltSession l).pool = b.pool := by
  unfold Block.haltSession; split <;> rfl

theorem Block.laneNotice_lane (b : Block) (l : Fin 8) (c : LaneCause) : (b.laneNotice l c).lane l = { b.lane l with lastCause := c } := by
  unfold Block.laneNotice; simp

theorem Block.laneNotice_lane_ne (b : Block) {l j : Fin 8} (c : LaneCause) (h : j ≠ l) : (b.laneNotice l c).lane j = b.lane j := by
  unfold Block.laneNotice; simp [Block.lane_updLane_ne _ _ h]

/-! ## The bytes a held unit reports (R36, R176) -/

theorem Pool.receivedBy_of_held {p : Pool} {l : Fin 8} {u : DigestUnit} (h : p.heldBy l = some u) : p.receivedBy l = u.received := by
  rw [Pool.receivedBy, h]

theorem DigestUnit.written_received (u : DigestUnit) : u.written.received = min u.received u.claim.recLength := rfl
theorem DigestUnit.written_claim (u : DigestUnit) : u.written.claim = u.claim := rfl

theorem DigestUnit.written_outstanding (u : DigestUnit) : u.written.outstanding = u.outstanding := by
  show u.claim.recLength - min u.received u.claim.recLength = u.claim.recLength - u.received
  omega

/-- A unit changed in place, its holder kept, is still the unit its lane holds. -/
theorem Pool.unitOf_updHeld {p : Pool} {l : Fin 8} {i : Fin 4} {u : DigestUnit} (f : DigestUnit → DigestUnit) (hf : (f u).claim.lane = u.claim.lane)
    (h : p.unitOf l = some i) (hu : p.heldBy l = some u) : (p.updHeld l f).unitOf l = some i := by
  have hi : p.units[i] = some u := by simpa [Pool.heldBy, h] using hu
  have same : ∀ j : Fin 4, (match (p.setUnit i (some (f u))).units[j] with | some w => w.claim.lane == l | none => false) =
      (match p.units[j] with | some w => w.claim.lane == l | none => false) := by
    intro j
    by_cases hj : i = j
    · subst hj; rw [hi]; simp [Pool.setUnit, hf]
    · have : ¬ i.val = j.val := fun e => hj (Fin.ext e)
      simp [Pool.setUnit, this]
  simp only [Pool.updHeld, h, hi, Option.map]
  exact (congrArg (fun q => allFour.find? q) (funext same)).trans h

theorem Pool.heldBy_updHeld {p : Pool} {l : Fin 8} {i : Fin 4} {u : DigestUnit} (f : DigestUnit → DigestUnit) (hf : (f u).claim.lane = u.claim.lane)
    (h : p.unitOf l = some i) (hu : p.heldBy l = some u) : (p.updHeld l f).heldBy l = some (f u) := by
  have hi : p.units[i] = some u := by simpa [Pool.heldBy, h] using hu
  rw [Pool.heldBy, Pool.unitOf_updHeld f hf h hu]
  simp [Pool.updHeld, h, hi, Pool.setUnit]

end Sys2Proof.Machine
end

