-- ==== Sys2Proof/Laws/Departures.lean ====
section
/-! SUPPORT. What the moves of the lanes and of the Repair Engine leave of the campaigns, of the Finding Recorder and of the marks of the frame records, and what the
Campaign Scheduler's own moves do to one campaign (R20, R110 to R114). -/
namespace Sys2Proof.Machine

/-! ## Records (R20) -/

theorem Manifest.record_updRecord_at (m : Manifest) (frame n : Nat) (f : FrameRecord → FrameRecord) :
    (m.updRecord frame f).record n = if m.index frame = m.index n then (m.record n).map f else m.record n := by
  have hi : (m.updRecord frame f).index n = m.index n := by
    unfold Manifest.updRecord; split <;> rfl
  unfold Manifest.record
  rw [hi]
  unfold Manifest.updRecord
  cases hn : m.index n with
  | none => simp
  | some i =>
    cases hf : m.index frame with
    | none => simp
    | some j =>
      by_cases h : j = i
      · subst h; simp
      · simp [h]

theorem Store.record_updRecord_at (st : Store) (k j : Fin 16) (frame n : Nat) (f : FrameRecord → FrameRecord) :
    (st.updRecord k frame f).record j n = if k = j ∧ (st.manifest j).any (fun m => m.index frame = m.index n) then (st.record j n).map f else st.record j n := by
  unfold Store.record Store.updRecord
  rw [Store.manifest_updManifest]
  by_cases h : k = j
  · subst h
    cases hm : st.manifest k with
    | none => simp
    | some m => simp [Manifest.record_updRecord_at]
  · have h' : ¬ j = k := fun e => h e.symm
    simp [h, h']

/-- A change of every record of a frame that keeps a value `g` of it keeps that value of every record. -/
theorem Store.map_record_updRecord {α : Type} (g : FrameRecord → α) (st : Store) (k j : Fin 16) (frame n : Nat) {f : FrameRecord → FrameRecord} (hf : ∀ r, g (f r) = g r) :
    ((st.updRecord k frame f).record j n).map g = (st.record j n).map g := by
  rw [Store.record_updRecord_at]
  split
  · rw [Option.map_map]; congr 1; exact funext hf
  · rfl

theorem Store.record_updManifest {st : Store} {k : Fin 16} {f : Manifest → Manifest} (hf : ∀ m n, (f m).record n = m.record n) (j : Fin 16) (n : Nat) :
    (st.updManifest k f).record j n = st.record j n := by
  unfold Store.record
  rw [Store.manifest_updManifest]
  by_cases h : j = k
  · subst h; cases st.manifest j <;> simp [hf]
  · simp [h]

/-- A record's visiting mark and last verdict. -/
def FrameRecord.visit (r : FrameRecord) : Bool × Option Verdict := (r.visiting, r.last)

/-! ## Moves aside of the campaigns -/

/-- The campaigns and the Finding Recorder stay, every record keeps its visiting mark and last verdict, and notices are only added. -/
structure Aside (a b : Block) : Prop where
  sched    : b.sched = a.sched
  recorder : b.recorder = a.recorder
  visits   : ∀ k n, (b.store.record k n).map FrameRecord.visit = (a.store.record k n).map FrameRecord.visit
  raised   : ∃ ns, b.port.raised = a.port.raised ++ ns

theorem Aside.refl (b : Block) : Aside b b := ⟨rfl, rfl, fun _ _ => rfl, [], (List.append_nil _).symm⟩

theorem Aside.trans {a b c : Block} (h : Aside a b) (k : Aside b c) : Aside a c := by
  obtain ⟨ns, hn⟩ := h.raised
  obtain ⟨ms, hm⟩ := k.raised
  exact ⟨k.sched.trans h.sched, k.recorder.trans h.recorder, fun i n => (k.visits i n).trans (h.visits i n), ns ++ ms, by rw [hm, hn, List.append_assoc]⟩

variable {a b : Block}

/-- A move that changes none of the three is aside. -/
theorem Aside.of_eq (h : Aside a b) {c : Block} (h1 : c.sched = b.sched) (h2 : c.recorder = b.recorder) (h3 : c.store = b.store) (h4 : c.port.raised = b.port.raised) :
    Aside a c :=
  h.trans ⟨h1, h2, fun k n => by rw [h3], [], by rw [h4, List.append_nil]⟩

theorem Aside.raise (h : Aside a b) (n : Notice) : Aside a (b.raise n) := h.trans ⟨rfl, rfl, fun _ _ => rfl, [n], rfl⟩

theorem Aside.updLane (h : Aside a b) (l : Fin 8) (f : Lane → Lane) : Aside a (b.updLane l f) := h.of_eq rfl rfl rfl rfl
theorem Aside.send (h : Aside a b) (l : Fin 8) (u : SentUnit) : Aside a (b.send l u) := h.of_eq rfl rfl rfl rfl
theorem Aside.updEntry (h : Aside a b) (k : EntryKey) (f : Entry → Entry) : Aside a (b.updEntry k f) := h.of_eq rfl rfl rfl rfl
theorem Aside.updRepair (h : Aside a b) (f : RepairEngine → RepairEngine) : Aside a (b.updRepair f) := h.of_eq rfl rfl rfl rfl
theorem Aside.updDuty (h : Aside a b) (f : Duty → Duty) : Aside a (b.updDuty f) := h.of_eq rfl rfl rfl rfl

theorem Aside.ask (h : Aside a b) (l : Fin 8) : Aside a (b.ask l) := by
  obtain ⟨ls, e⟩ := Block.ask_rest b l
  rw [e]; exact h.of_eq rfl rfl rfl rfl

theorem Aside.updRecord (h : Aside a b) (k : Fin 16) (frame : Nat) {f : FrameRecord → FrameRecord} (hf : ∀ r, (f r).visit = r.visit) :
    Aside a (b.updStore (fun st => st.updRecord k frame f)) :=
  h.trans ⟨rfl, rfl, fun j n => Store.map_record_updRecord _ b.store k j frame n hf, [], (List.append_nil _).symm⟩

theorem Aside.foldl {α : Type} {f : Block → α → Block} (hf : ∀ b x, Aside a b → Aside a (f b x)) : ∀ (xs : List α) {b : Block}, Aside a b → Aside a (xs.foldl f b)
  | [], _, h => h
  | x :: xs, b, h => Aside.foldl hf xs (hf b x h)

/-! ## The Repair Engine's moves -/

theorem Aside.startEntry (h : Aside a b) (e : Entry) (ctx : Fin 4) : Aside a (b.startEntry e ctx) := by
  have h1 : Aside a (b.updStore (fun st => st.repairStart e.key.slot e.key.frame)) := h.updRecord _ _ fun _ => rfl
  unfold Block.startEntry
  exact .ask (.updRepair (.updEntry h1 e.key _) _) e.source

theorem Aside.passFrom : ∀ (ks : List EntryKey) {b : Block}, Aside a b → Aside a (Block.passFrom ks b)
  | [], _, h => h
  | k :: ks, b, h => by
    unfold Block.passFrom
    split
    · exact Aside.passFrom ks h
    · split
      · split
        · exact h
        · split
          · split
            · exact Aside.passFrom ks (h.startEntry _ _)
            · exact Aside.passFrom ks h
          · exact h
      · exact Aside.passFrom ks h

theorem Aside.startPass (h : Aside a b) : Aside a b.startPass := Aside.passFrom _ h

theorem Aside.freeEntry (h : Aside a b) (k : EntryKey) : Aside a (b.freeEntry k) := by
  unfold Block.freeEntry; split
  · exact h
  · exact .updEntry (.updRepair h _) k _

theorem Aside.entryToWaiting (h : Aside a b) (k : EntryKey) : Aside a (b.entryToWaiting k) := by
  have h1 : Aside a ((b.freeEntry k).updStore (fun st => st.repairReturn k.slot k.frame)) := by
    refine Aside.updRecord (.freeEntry h k) _ _ fun r => ?_
    split <;> rfl
  unfold Block.entryToWaiting
  exact .startPass (.updEntry h1 k _)

/-- A claim on a record that keeps its visiting mark and last verdict, with the suspect pin that goes with it (R22, R24). -/
theorem Aside.claim (h : Aside a b) (k : Fin 16) (frame : Nat) {f : FrameRecord → FrameRecord} {g : Manifest → Manifest} (hf : ∀ r, (f r).visit = r.visit)
    (hg : ∀ m n, (g m).record n = m.record n) : Aside a (b.updStore (fun st => (st.updRecord k frame f).updManifest k g)) := by
  refine h.trans ⟨rfl, rfl, fun j n => ?_, [], (List.append_nil _).symm⟩
  have h1 := Store.record_updManifest (st := b.store.updRecord k frame f) (k := k) hg j n
  exact (congrArg (Option.map FrameRecord.visit) h1).trans (Store.map_record_updRecord _ b.store k j frame n hf)

theorem Aside.dropEntry (h : Aside a b) (k : EntryKey) : Aside a (b.dropEntry k) := by
  have h1 : Aside a (b.updStore (fun st => st.unqueueClaim k.slot k.frame)) := h.claim _ _ (fun _ => rfl) fun _ _ => rfl
  exact h1.updRepair _

theorem Aside.appendEntry (h : Aside a b) (k : EntryKey) (cause : Option FindingClass) (seq awaits : Option Nat) (damaged source : Fin 8) (allowed : Bool) :
    Aside a (b.appendEntry k cause seq awaits damaged source allowed) := by
  have h1 : Aside a (b.updStore (fun st => st.queueClaim k.slot k.frame)) := h.claim _ _ (fun _ => rfl) fun _ _ => rfl
  unfold Block.appendEntry
  exact h1.updRepair _

theorem Aside.enqueue (h : Aside a b) (k : EntryKey) (cause : Option FindingClass) (seq awaits : Option Nat) (damaged : Fin 8) (allowed : Bool) :
    Aside a (b.enqueue k cause seq awaits damaged allowed) := by
  unfold Block.enqueue
  split
  · exact h
  · split
    · exact h
    · split
      · exact .startPass (h.appendEntry k cause seq awaits damaged _ allowed)
      · exact h

theorem Aside.settleEntry (h : Aside a b) (k : EntryKey) (o : RecordState) (d : Option Detail) : Aside a (b.settleEntry k o d) := by
  unfold Block.settleEntry
  split
  · exact h
  · have h1 : Aside a (b.updStore (fun st => st.repairOutcome k.slot k.frame o d)) := h.claim _ _ (fun _ => rfl) fun _ _ => rfl
    dsimp only
    exact .startPass (.raise (.updRepair (.freeEntry h1 k) _) _)

theorem Aside.rewriteTest (h : Aside a b) (k : EntryKey) : Aside a (b.rewriteTest k) := by
  unfold Block.rewriteTest
  split
  · exact h
  · split
    · split
      · exact .settleEntry h k _ _
      · split
        · split
          · exact .settleEntry h k _ _
          · exact .ask h _
        · exact h
    · exact h

theorem Aside.sourceFailed (h : Aside a b) (k : EntryKey) : Aside a (b.sourceFailed k) := by
  unfold Block.sourceFailed
  dsimp only
  split
  · exact .updEntry h k _
  · split
    · exact .entryToWaiting (.updEntry h k _) k
    · exact .settleEntry (.updEntry h k _) k _ _

theorem Aside.rewriteFailed (h : Aside a b) (k : EntryKey) : Aside a (b.rewriteFailed k) := by
  unfold Block.rewriteFailed
  dsimp only
  split
  · exact .updEntry h k _
  · split
    · exact .rewriteTest (.updEntry h k _) k
    · exact .settleEntry (.updEntry h k _) k _ _

theorem Aside.stepEnded (h : Aside a b) (k : EntryKey) (x : Exchange) (why : Departure) : Aside a (b.stepEnded k x why) := by
  unfold Block.stepEnded
  split
  · exact h
  · split
    · split
      · exact .sourceFailed h k
      · exact .sourceFailed h k
      · exact .entryToWaiting h k
      · exact .entryToWaiting h k
    · split
      · exact .rewriteFailed (.updEntry h k _) k
      · exact .rewriteTest (.updEntry h k _) k
    · exact .updEntry h k _
    · exact h
    · exact h

theorem Aside.leftService (h : Aside a b) (l : Fin 8) : Aside a (b.leftService l) := Aside.foldl (fun _ e k => k.entryToWaiting e.key) _ h

theorem Aside.visitCleared (h : Aside a b) (k : Fin 16) (frame : Nat) : Aside a (b.visitCleared k frame) := by
  unfold Block.visitCleared
  split
  · split
    · exact h.startPass
    · exact h
  · exact h

/-! ## The lanes' moves -/

theorem Aside.dropExchange (h : Aside a b) (l : Fin 8) : Aside a (b.dropExchange l) := by
  obtain ⟨lanes, pool, asks, e⟩ := Block.dropExchange_rest b l
  rw [e]; exact h.of_eq rfl rfl rfl rfl

theorem Aside.haltSession (h : Aside a b) (l : Fin 8) : Aside a (b.haltSession l) := by
  unfold Block.haltSession; split
  · exact .updLane (.send h l _) l _
  · exact h

theorem Aside.laneNotice (h : Aside a b) (l : Fin 8) (c : LaneCause) : Aside a (b.laneNotice l c) := .raise (.updLane h l _) _

theorem Aside.becomeLent (h : Aside a b) (l : Fin 8) (t : ResumeTarget) : Aside a (b.becomeLent l t) := .updLane (.send h l _) l _

theorem Aside.beginSettling (h : Aside a b) (l : Fin 8) (u : SentUnit) : Aside a (b.beginSettling l u) := .updLane (.send h l u) l _

theorem Aside.abortCalibration (h : Aside a b) (l : Fin 8) (c : AbortCause) : Aside a (b.abortCalibration l c) := .raise (.updDuty h _) _

/-! ## One campaign (R96, R97) -/

theorem Scheduler.find_upd_at (sc : Scheduler) (id n : Nat) {f : Campaign → Campaign} (hf : ∀ c, (f c).id = c.id) :
    (sc.upd id f).find n = if n = id then (sc.find n).map f else sc.find n := by
  unfold Scheduler.find Scheduler.upd
  dsimp only
  induction sc.table with
  | nil => simp
  | cons x t ih =>
    simp only [List.map_cons, List.find?_cons]
    have hx : (if x.id = id then f x else x).id = x.id := by split <;> simp [hf]
    rw [hx]
    by_cases h : x.id = n
    · subst h
      by_cases h' : x.id = id <;> simp [h']
    · have : (x.id == n) = false := by simpa using h
      rw [this]; exact ih

/-- The head of a lane's queue is the first active campaign of the lane. -/
theorem Scheduler.head_eq (sc : Scheduler) (l : Fin 8) : sc.head l = sc.table.find? (fun c => c.lane == l && c.state.active) := by
  unfold Scheduler.head Scheduler.queue
  rw [List.head?_filter]

/-- The head of a lane's queue that its id names stays the head when it is changed, still active on its lane. -/
theorem Scheduler.head_upd {sc : Scheduler} {l : Fin 8} {c : Campaign} (hh : sc.head l = some c) (hc : sc.find c.id = some c) {f : Campaign → Campaign}
    (hl : (f c).lane = c.lane) (ha : (f c).state.active = true) : (sc.upd c.id f).head l = some (f c) := by
  rw [Scheduler.head_eq] at hh ⊢
  unfold Scheduler.find at hc
  unfold Scheduler.upd
  dsimp only
  have hp := List.find?_some hh
  simp only [Bool.and_eq_true] at hp
  revert hh hc
  induction sc.table with
  | nil => intro hh _; cases hh
  | cons x t ih =>
    intro hh hc
    rw [List.find?_cons] at hh hc
    rw [List.map_cons, List.find?_cons]
    by_cases hx : x.id = c.id
    · have hx' : (x.id == c.id) = true := by simpa using hx
      rw [hx'] at hc
      obtain rfl : x = c := Option.some.inj hc
      have hp2 : ((f x).lane == l && (f x).state.active) = true := by rw [hl, ha, hp.1]; rfl
      rw [if_pos rfl, hp2]
    · have hx' : (x.id == c.id) = false := by simpa using hx
      rw [hx'] at hc
      rw [if_neg hx]
      split at hh
      · next h => exact absurd (congrArg Campaign.id (Option.some.inj hh)) hx
      · exact ih hh hc

end Sys2Proof.Machine
end

