-- ==== Sys2Proof/Laws/HeadTold.lean ====
section
/-! SUPPORT. What a head campaign makes of the departure of its lane (`Block.Departs` of Safety.lean), said for the shared operations: the claims at the store, an event and
its answer, the telling of an item's owner, and the moves of the head (R20, R21, R106, R110, R112, R113, R115). -/
namespace Sys2Proof.Machine

/-! ## Events (R115, R134, R141) -/

theorem Block.keepFinding_sched (b : Block) (f : Finding) (w : Bool) : (b.keepFinding f w).sched = b.sched := by
  unfold Block.keepFinding; split <;> rfl

theorem Block.takeEvent_sched (b : Block) (c : Campaign) (ev : Event) : (b.takeEvent c ev).2.sched = b.sched := by
  unfold Block.takeEvent
  dsimp only
  split
  · rfl
  · dsimp only
    split
    · exact Block.keepFinding_sched _ _ _
    · exact Block.keepFinding_sched _ _ _

theorem Block.takeEvent_record (b : Block) (c : Campaign) (ev : Event) (k : Fin 16) (n : Nat) : (b.takeEvent c ev).2.store.record k n = b.store.record k n := by
  have hk : ∀ (b : Block) f w, (b.keepFinding f w).store = b.store := by
    intro b f w; unfold Block.keepFinding; split <;> rfl
  unfold Block.takeEvent
  dsimp only
  split
  · rfl
  · dsimp only
    split
    · show (Store.record (Store.flagClaim _ _) _ _) = _
      rw [hk]
      exact Store.record_updManifest (fun m n => by split <;> rfl) k n
    · rw [hk]; rfl

/-- A claim at the store, with what it makes the Repair Engine do: the campaigns and the recorder stay, and notices are only added. -/
structure Filed (a b : Block) : Prop where
  sched : b.sched = a.sched
  recorder : b.recorder = a.recorder
  raised   : ∃ ns, b.port.raised = a.port.raised ++ ns

theorem Filed.of (h : Aside a b) : Filed a b := ⟨h.sched, h.recorder, h.raised⟩
theorem Filed.trans {a b c : Block} (h : Filed a b) (k : Filed b c) : Filed a c := by
  obtain ⟨ns, hn⟩ := h.raised
  obtain ⟨ms, hm⟩ := k.raised
  exact ⟨k.sched.trans h.sched, k.recorder.trans h.recorder, ns ++ ms, by rw [hm, hn, List.append_assoc]⟩

/-! ## Verdict claims (R21) -/

/-- A verdict claim clears the visiting mark and stores the verdict. -/
theorem Block.giveVerdict_record (b : Block) (k : Fin 16) (n : Nat) (v : Verdict) (ff : Bool) (r : FrameRecord) (h : b.store.record k n = some r) :
    ((b.giveVerdict k n v ff).store.record k n).map FrameRecord.visit = some (false, some v) := by
  have h3 : ((b.updStore (fun st => st.verdictClaim k n v ff)).store.record k n).map FrameRecord.visit = some (false, some v) := by
    have h0 : (b.store.verdictClaim k n v ff).record k n = (b.store.record k n).map (fun r => { r.enter (if ff then .suspect else .sound) with last := some v, visiting := false }) :=
      Store.record_updRecord _ _ _ _
    show ((b.store.verdictClaim k n v ff).record k n).map _ = _
    rw [h0, h]; rfl
  have hA : Aside (b.updStore (fun st => st.verdictClaim k n v ff)) (b.giveVerdict k n v ff) := by
    unfold Block.giveVerdict
    dsimp only
    split
    · split
      · cases ff
        · exact ((Aside.refl _).dropEntry _).startPass
        · exact (Aside.refl _).startPass
      · exact .refl _
    · exact .refl _
  exact (hA.visits _ _).trans h3

theorem Block.giveVerdict_filed (b : Block) (k : Fin 16) (n : Nat) (v : Verdict) (ff : Bool) : Filed b (b.giveVerdict k n v ff) := by
  have h1 : Filed b (b.updStore (fun st => st.verdictClaim k n v ff)) := ⟨rfl, rfl, [], (List.append_nil _).symm⟩
  have hA : Aside (b.updStore (fun st => st.verdictClaim k n v ff)) (b.giveVerdict k n v ff) := by
    unfold Block.giveVerdict
    dsimp only
    split
    · split
      · cases ff
        · exact ((Aside.refl _).dropEntry _).startPass
        · exact (Aside.refl _).startPass
      · exact .refl _
    · exact .refl _
  exact h1.trans (.of hA)

theorem Block.claimVerdict_filed (b : Block) (c : Campaign) (n : Nat) (v : Verdict) (ans : Answer) :
    Filed b (b.claimVerdict c n v ans) ∧ ∀ r, b.store.record c.slot n = some r → ((b.claimVerdict c n v ans).store.record c.slot n).map FrameRecord.visit = some (false, some v) := by
  unfold Block.claimVerdict
  dsimp only
  split
  · have := (Aside.refl (b.giveVerdict c.slot n v ans.frameFinding)).enqueue { slot := c.slot, frame := n } ans.cause ans.sequence ans.awaits c.lane ans.rewrite
    exact ⟨(Block.giveVerdict_filed b _ _ _ _).trans (.of this), fun r h => (this.visits _ _).trans (Block.giveVerdict_record b _ _ _ _ r h)⟩
  · exact ⟨Block.giveVerdict_filed b _ _ _ _, fun r h => (Block.giveVerdict_record b _ _ _ _ r h)⟩

theorem Block.campaign_updCampaign (b : Block) (id n : Nat) (f : Campaign → Campaign) (hf : ∀ c, (f c).id = c.id) :
   (b.updCampaign id f).campaign n = if n = id then (b.campaign n).map f else b.campaign n := Scheduler.find_upd_at _ _ _ hf

/-! ## The head campaign told that its lane has gone (R106, R110, R112, R113) -/

/-- The owner has been told and the head has not yet changed its state: the head campaign `c` is still the head. -/
structure HeadTold (b mid : Block) (l : Fin 8) (c : Campaign) (st : Bool) : Prop where
  dep : b.Departs mid l c st id
  head : ∃ d, mid.sched.head l = some d ∧ mid.campaign c.id = some d ∧ d.id = c.id ∧ d.lane = c.lane ∧ d.slot = c.slot

theorem HeadTold.aside {b mid m2 : Block} {l c st} (h : HeadTold b mid l c st) (k : Aside mid m2) : HeadTold b m2 l c st := by
  have hc : ∀ id, m2.campaign id = mid.campaign id := fun id => by unfold Block.campaign; rw [k.sched]
  obtain ⟨d, h1, h2, h3⟩ := h.head
  refine ⟨⟨fun id hi => (hc id).trans (h.dep.others id hi), fun d hd he hn => ?_, fun hv => (hc _).trans (h.dep.unvisited hv), fun f hf hs => (hc _).trans (h.dep.abandoned f hf hs),
    fun f hf hs hr => ?_, fun f r hf hr => ?_⟩, d, by rw [k.sched]; exact h1, by rw [hc]; exact h2, h3⟩
  · obtain ⟨x, hx, hm⟩ := h.dep.told d ((hc _).symm.trans hd) he hn
    obtain ⟨ns, e⟩ := k.raised
    exact ⟨x, hx, by rw [e]; exact List.mem_append_left _ hm⟩
  · obtain ⟨u1, u2, u3, u4⟩ := h.dep.unreadable f hf hs hr
    exact ⟨fun x y => (hc _).trans (u1 x y), fun x => (hc _).trans (u2 x), fun x => by rw [k.recorder]; exact u3 x, fun x y => by rw [k.recorder]; exact u4 x y⟩
  · obtain ⟨r', h1, h2, h3⟩ := h.dep.cleared f r hf hr
    have := k.visits c.slot f
    rw [h1] at this
    cases hm : m2.store.record c.slot f with
    | none => rw [hm] at this; cases this
    | some r'' =>
      rw [hm] at this
      have e : (r''.visiting, r''.last) = (r'.visiting, r'.last) := Option.some.inj this
      exact ⟨r'', rfl, (congrArg Prod.fst e).trans h2, (congrArg Prod.snd e).trans h3⟩

/-- The head's change of state follows. -/
theorem HeadTold.move {b mid m2 : Block} {l c st} (h : HeadTold b mid l c st) (goes : Campaign → Campaign)
    (hs : ∀ d, mid.campaign c.id = some d → d.id = c.id → d.lane = c.lane → d.slot = c.slot → mid.sched.head l = some d → m2.campaign c.id = some (goes d) ∧ (∀ id, id ≠ c.id → m2.campaign id = mid.campaign id) ∧
       ((goes d).state = .held → d.state ≠ .held → ∃ h, (goes d).heldCause = some h ∧ .campaignChanged c.id c.lane c.slot .held h.cause (goes d).resumePoint (goes d).counts ∈ m2.port.raised))
    (hh : ∀ d, d.state = .held → goes d = d) 
    (hr : m2.recorder = mid.recorder) (hst : m2.store = mid.store) (hp : ∃ ns, m2.port.raised = mid.port.raised ++ ns) : b.Departs m2 l c st goes := by
  obtain ⟨d, g1, g2, g3, g4, g5⟩ := h.head
  obtain ⟨k1, k2, k3⟩ := hs d g2 g3 g4 g5 g1
  obtain ⟨ns, hns⟩ := hp
  have key : ∀ x, mid.campaign c.id = some x → m2.campaign c.id = some (goes x) := fun x hx => by
    rw [g2] at hx; cases hx; exact k1
  refine ⟨fun id hi => (k2 id hi).trans (h.dep.others id hi), fun e he1 he2 hn => ?_, fun hv => key _ (h.dep.unvisited hv), fun f hf hs => key _ (h.dep.abandoned f hf hs),
    fun f hf hs hr' => ?_, fun f r hf hr => ?_⟩
  · rw [k1] at he1; cases he1
    by_cases hd : d.state = .held
    · rw [hh d hd] at he2 ⊢
      obtain ⟨x, hx, hm⟩ := h.dep.told d g2 hd hn
      exact ⟨x, hx, by rw [hns]; exact List.mem_append_left _ hm⟩
    · exact k3 he2 hd
  · obtain ⟨u1, u2, u3, u4⟩ := h.dep.unreadable f hf hs hr'
    refine ⟨fun x y => key _ (u1 x y), fun x => ?_, fun x => by rw [hr]; exact u3 x, fun x y => by rw [hr]; exact u4 x y⟩
    rw [key _ (u2 x)]; exact congrArg some (hh _ rfl)
  · rw [hst]; exact h.dep.cleared f r hf hr

/-- The visit-abandoned claim clears the visiting mark and keeps the last verdict (R20). -/
theorem Block.abandonVisit_filed (b pre : Block) (hA : Aside b pre) (k : Fin 16) (f : Nat) : Filed pre (pre.abandonVisit k f) ∧ ∀ r, b.store.record k f = some r →
    ∃ r', (pre.abandonVisit k f).store.record k f = some r' ∧ r'.visiting = false ∧ r'.last = r.last := by
  have h1 : Aside (pre.updStore (fun st => st.clearVisiting k f)) (pre.abandonVisit k f) := (Aside.refl _).visitCleared k f
  refine ⟨.trans (b := pre.updStore (fun st => st.clearVisiting k f)) ⟨rfl, rfl, [], (List.append_nil _).symm⟩ (.of h1), fun r hr => ?_⟩
  have h2 := hA.visits k f
  have h3 := h1.visits k f
  have h4 : (pre.updStore (fun st => st.clearVisiting k f)).store.record k f = (pre.store.record k f).map (fun r => { r with visiting := false }) := Store.record_updRecord _ _ _ _
  rw [h4] at h3
  rw [hr] at h2
  cases hp : pre.store.record k f with
  | none => rw [hp] at h2; cases h2
  | some r1 =>
    rw [hp] at h2 h3
    cases hm : (pre.abandonVisit k f).store.record k f with
    | none => rw [hm] at h3; cases h3
    | some r2 =>
      rw [hm] at h3
      have e := Option.some.inj h3
      have e' := Option.some.inj h2
      exact ⟨r2, rfl, congrArg Prod.fst e, (congrArg Prod.snd e).trans (congrArg Prod.snd e')⟩

/-- No visit was open. -/
theorem HeadTold.unvisited {b mid : Block} {l : Fin 8} {c : Campaign} {st : Bool} (hA : Aside b mid) (hh : b.sched.head l = some c) (hc : b.campaign c.id = some c) (hv : (b.lane l).visitOf c = none) :
    HeadTold b mid l c st := by
  have hcc : ∀ id, mid.campaign id = b.campaign id := fun id => by unfold Block.campaign; rw [hA.sched]
  refine ⟨⟨fun id _ => hcc id, fun d hd he hn => ?_, fun _ => (hcc _).trans hc, fun f hf => ?_, fun f hf => ?_, fun f r hf => ?_⟩, c, by rw [hA.sched]; exact hh, (hcc _).trans hc, rfl, rfl, rfl⟩
  · rw [hcc, hc] at hd; cases hd; exact absurd he hn
  · rw [hv] at hf; cases hf
  · rw [hv] at hf; cases hf
  · rw [hv] at hf; cases hf

/-- A visit abandoned by a yield or a put-down (R110, R113). -/
theorem HeadTold.abandoned {b pre : Block} {l : Fin 8} {c : Campaign} (hA : Aside b pre) (hh : b.sched.head l = some c) (hc : b.campaign c.id = some c) {f : Nat} (hv : (b.lane l).visitOf c = some f) :
    HeadTold b (pre.abandonVisit c.slot f) l c false := by
  obtain ⟨h1, h2⟩ := Block.abandonVisit_filed b pre hA c.slot f
  have hs : (pre.abandonVisit c.slot f).sched = b.sched := h1.sched.trans hA.sched
  have hcc : ∀ id, (pre.abandonVisit c.slot f).campaign id = b.campaign id := fun id => by unfold Block.campaign; rw [hs]
  refine ⟨⟨fun id _ => hcc id, fun d hd he hn => ?_, fun _ => (hcc _).trans hc, fun g hg _ => (hcc _).trans hc, fun g hg hs => (by cases hs), fun g r hg hr => ?_⟩, c, by rw [hs]; exact hh, (hcc _).trans hc, rfl, rfl, rfl⟩
  · rw [hcc, hc] at hd; cases hd; exact absurd he hn
  · rw [hv] at hg; cases hg
    obtain ⟨r', x, y, z⟩ := h2 r hr
    exact ⟨r', x, y, by simpa using z⟩

theorem Scheduler.head_active {sc : Scheduler} {l : Fin 8} {c : Campaign} (h : sc.head l = some c) : c.lane = l ∧ c.state.active = true := by
  rw [Scheduler.head_eq] at h
  have := List.find?_some h
  simpa using this

/-- The first and the second stall on a frame (R106). -/
theorem HeadTold.stalled {b pre : Block} {l : Fin 8} {c : Campaign} (hA : Aside b pre) (hh : b.sched.head l = some c) (hc : b.campaign c.id = some c) {f : Nat} (hv : (b.lane l).visitOf c = some f)
    (hr : c.frameRestarts < 2) : HeadTold b ((pre.updCampaign c.id (fun x => { x with frameRestarts := x.frameRestarts + 1 })).abandonVisit c.slot f) l c true := by
  let pre2 := pre.updCampaign c.id (fun x => { x with frameRestarts := x.frameRestarts + 1 })
  have h12 : Filed pre2 (pre2.abandonVisit c.slot f) ∧ ∀ r, b.store.record c.slot f = some r →
    ∃ r', (pre2.abandonVisit c.slot f).store.record c.slot f = some r' ∧ r'.visiting = false ∧ r'.last = r.last := by
    have hA' : Aside { b with sched := pre2.sched } pre2 := ⟨rfl, hA.recorder, hA.visits, hA.raised⟩
    exact Block.abandonVisit_filed { b with sched := pre2.sched } pre2 hA' c.slot f
  obtain ⟨h1, h2⟩ := h12
  have hs : (pre2.abandonVisit c.slot f).sched = b.sched.upd c.id (fun x => { x with frameRestarts := x.frameRestarts + 1 }) := by
    rw [h1.sched]; show pre.sched.upd _ _ = _; rw [hA.sched]
  have hcc : ∀ id, (pre2.abandonVisit c.slot f).campaign id = if id = c.id then (b.campaign id).map (fun x => { x with frameRestarts := x.frameRestarts + 1 }) else b.campaign id := fun id => by
    unfold Block.campaign; rw [hs]; exact Scheduler.find_upd_at _ _ _ fun _ => rfl
  have hme : (pre2.abandonVisit c.slot f).campaign c.id = some { c with frameRestarts := c.frameRestarts + 1 } := by rw [hcc, if_pos rfl, hc]; rfl
  refine ⟨⟨fun id hi => (by rw [show (Block.abandonVisit _ c.slot f).campaign id = _ from hcc id, if_neg hi]), fun d hd he hn => ?_, fun h => (by rw [hv] at h; cases h), fun g hg _ => hme, fun g hg _ h => (by omega), fun g r hg hr' => ?_⟩, { c with frameRestarts := c.frameRestarts + 1 }, ?_, hme, rfl, rfl, rfl⟩
  · rw [show (Block.abandonVisit _ c.slot f).campaign c.id = _ from hme] at hd; cases hd; exact absurd he hn
  · rw [hv] at hg; cases hg
    obtain ⟨r', x, y, z⟩ := h2 r hr'
    exact ⟨r', x, y, by rw [if_neg (by omega)]; exact z⟩
  · rw [show (Block.abandonVisit _ c.slot f).sched = _ from hs]
    exact Scheduler.head_upd hh hc rfl (Scheduler.head_active hh).2

/-- A campaign is held, and CAMPAIGN_CHANGED is raised (R115, R121). -/
theorem Block.holdCampaign_spec (b : Block) (id : Nat) (cause : HeldCause) :
    (b.holdCampaign id cause).sched = b.sched.upd id (fun c => { c with state := .held, heldCause := some cause }) ∧ (b.holdCampaign id cause).recorder = b.recorder ∧ (b.holdCampaign id cause).store = b.store ∧
    (∃ ns, (b.holdCampaign id cause).port.raised = b.port.raised ++ ns) ∧
    ∀ c, b.campaign id = some c → (b.holdCampaign id cause).port.raised = b.port.raised ++ [.campaignChanged c.id c.lane c.slot .held cause.cause c.resumePoint c.counts] := by
  unfold Block.holdCampaign Block.campaignNotice
  have h := Block.campaign_updCampaign b id id (fun c => { c with state := .held, heldCause := some cause }) (fun _ => rfl)
  rw [if_pos rfl] at h
  rw [h]
  cases hb : b.campaign id with
  | none => exact ⟨rfl, rfl, rfl, ⟨[], (List.append_nil _).symm⟩, fun c hc => by cases hc⟩
  | some c => 
    refine ⟨rfl, rfl, rfl, ⟨_, rfl⟩, fun c' hc => ?_⟩
    cases hc; rfl

theorem Block.takeEvent_none {p : Block} {c : Campaign} {ev : Event} (h : (p.recorder.judge c.profile c.disregard ev.conditions).recognised = 0) : p.takeEvent c ev = (Answer.empty, p) := by
  unfold Block.takeEvent; exact if_pos h

theorem Block.keepFinding_logs {p : Block} (f : Finding) (w : Bool) (h : p.recorder.logsNow = true) : (p.keepFinding f w).recorder = p.recorder.append f := by
  unfold Block.keepFinding; rw [if_pos h]; rfl

/-- What a recognised event leaves of the recorder, and its answer (R115, R128, R134, R140, R141). -/
theorem Block.takeEvent_spec (p : Block) (c : Campaign) (ev : Event) :
    let d := p.recorder.judge c.profile c.disregard ev.conditions
    let ans := (p.takeEvent c ev).1
    let q := (p.takeEvent c ev).2
    d.recognised ≠ 0 → ans.noted = d.noted ∧ ans.outcome = d.outcome ∧ ans.haltCode = d.haltCode ∧ ans.pending = !p.recorder.logsNow ∧ q.recorder.flags = p.recorder.flags ||| d.noted ∧
      (p.recorder.logsNow = true → q.recorder.log.getLast? = some { makeFinding p.store c ev d with sequence := some p.recorder.nextSequence, acknowledged := false }) ∧
      ∃ ns, q.port.raised = p.port.raised ++ ns := by
  intro d ans q h0
  have e : p.takeEvent c ev = _ := if_neg h0
  have hr : q.recorder = ((p.updRecorder (fun r => r.flag d.noted)).keepFinding (makeFinding p.store c ev d) (p.recorder.callsForSuspect ev d)).recorder ∧
      q.port = ((p.updRecorder (fun r => r.flag d.noted)).keepFinding (makeFinding p.store c ev d) (p.recorder.callsForSuspect ev d)).port := by
    have : q = (p.takeEvent c ev).2 := rfl
    rw [this, e]
    dsimp only
    split <;> exact ⟨rfl, rfl⟩
  have ha : ans = (p.takeEvent c ev).1 := rfl
  rw [e] at ha
  refine ⟨by rw [ha], by rw [ha], by rw [ha], by rw [ha], ?_, fun hl => ?_, ?_⟩
  · rw [hr.1]; unfold Block.keepFinding; split <;> rfl
  · rw [hr.1, Block.keepFinding_logs (p := p.updRecorder (fun r => r.flag d.noted)) _ _ (show (p.recorder.flag d.noted).logsNow = true from hl)]
    exact List.getLast?_concat ..
  · rw [hr.2]; unfold Block.keepFinding; split
    · exact ⟨_, rfl⟩
    · exact ⟨[], (List.append_nil _).symm⟩

/-- An UNREADABLE event ends no campaign; it is halting only when recognised, gives a halt code only then, and is logged under its own class (R125, R127, R128). -/
theorem Recorder.judge_unreadable (r : Recorder) (p : ProfileChoice) (dis : ClassSet) :
    let d := r.judge p dis FindingClass.unreadable.set
    d.outcome ≠ .finish ∧ (d.recognised = 0 → d.noted = 0) ∧ (d.outcome = .halt → d.recognised ≠ 0) ∧ (d.outcome ≠ .halt → d.haltCode = none) ∧
      (d.recognised ≠ 0 → d.loggedClass = some .unreadable) := by
  intro d
  have hd : d = r.judge p dis FindingClass.unreadable.set := rfl
  have nofin : d.outcome ≠ .finish := by
    rw [hd]; unfold Recorder.judge; dsimp only
    split
    · decide
    · split
      · next h =>
        exfalso
        revert h
        simp only [ClassSet.has, FindingClass.number, FindingClass.set]
        simp
      · decide
  have notedz : d.recognised = 0 → d.noted = 0 := by
    intro h; rw [hd] at h ⊢; unfold Recorder.judge at h ⊢; dsimp only at h ⊢; rw [h]; simp
  have haltz : d.outcome = .halt → d.recognised ≠ 0 := by
    intro h h0; rw [hd] at h h0; unfold Recorder.judge at h h0; dsimp only at h h0; rw [h0] at h
    revert h
    simp [ClassSet.has]
  have haltn : d.outcome ≠ .halt → d.haltCode = none := by
    intro h; rw [hd] at h ⊢; unfold Recorder.judge at h ⊢; dsimp only at h
    split at h
    · exact absurd rfl h
    · next hz =>
      have hz' : (FindingClass.unreadable.set &&& ~~~dis &&& (r.profiles[r.resolve p]).halts) = 0 := by simpa using hz
      show (ClassSet.highest (FindingClass.unreadable.set &&& ~~~dis &&& (r.profiles[r.resolve p]).halts)).map _ = none
      rw [hz']
      have : ClassSet.highest 0 = none := by decide
      rw [this]; rfl
  have clsu : d.recognised ≠ 0 → d.loggedClass = some .unreadable := by
    intro h
    have hrec : d.recognised = FindingClass.unreadable.set := by
      have e : d.recognised = FindingClass.unreadable.set &&& ~~~dis := rfl
      rw [e] at h ⊢
      revert h; generalize dis = z; revert z; decide +kernel
    unfold Decision.loggedClass
    split
    · next hz =>
      have e : d.halts = d.recognised &&& (r.profiles[r.resolve p]).halts := rfl
      rw [hrec] at e
      rw [e] at hz ⊢
      revert hz; generalize (r.profiles[r.resolve p]).halts = z; revert z; decide +kernel
    · rw [hrec]; decide
  exact ⟨nofin, notedz, haltz, haltn, clsu⟩

/-- The third stall on a frame (R106). -/
theorem HeadTold.unreadable {b pre : Block} {l : Fin 8} {c : Campaign} (hA : Aside b pre) (hh : b.sched.head l = some c) (hc : b.campaign c.id = some c) {f : Nat} (hv : (b.lane l).visitOf c = some f)
    (hr : 2 ≤ c.frameRestarts) : HeadTold b (pre.campaignResult c.id f .restartLimit false) l c true := by
  have hpc : pre.campaign c.id = some c := by unfold Block.campaign; rw [hA.sched]; exact hc
  have hact := (Scheduler.head_active hh).2
  unfold Block.campaignResult
  rw [hpc]
  dsimp only
  have hv' : verdictOf (pre.store.expects c.slot f).1 (pre.store.expects c.slot f).2 .restartLimit = .uncomparable := rfl
  have hcd : conditionsOf (pre.store.expects c.slot f).1 (pre.store.expects c.slot f).2 .restartLimit = FindingClass.unreadable.set := rfl
  rw [hv', hcd]
  set p1 := pre.updCampaign c.id (fun x => { x with counts := x.counts.add .uncomparable }) with hp1
  have hre : p1.resultEvent c f .uncomparable FindingClass.unreadable.set FrameResult.restartLimit.delivered = p1.takeEvent c { conditions := FindingClass.unreadable.set, frame := some (.uncomparable, f), delivered := none, annotation := none } := by
    unfold Block.resultEvent; rw [if_neg (by decide)]; rfl
  rw [hre]
  set ev : Event := { conditions := FindingClass.unreadable.set, frame := some (.uncomparable, f), delivered := none, annotation := none } with hev
  set ans := (p1.takeEvent c ev).1 with hans
  set p2 := (p1.takeEvent c ev).2 with hp2
  have s2 : p2.sched = b.sched.upd c.id (fun x => { x with counts := x.counts.add .uncomparable }) := by
    rw [hp2, Block.takeEvent_sched]; show pre.sched.upd _ _ = _; rw [hA.sched]
  have rec1 : p1.recorder = b.recorder := hA.recorder
  have st2 : ∀ k n, p2.store.record k n = pre.store.record k n := fun k n => Block.takeEvent_record p1 c ev k n
  obtain ⟨hV, hVr⟩ := Block.claimVerdict_filed p2 c f .uncomparable ans
  set p3 := p2.claimVerdict c f .uncomparable ans with hp3
  set p4 := (p3.updCampaign c.id Campaign.advance).updCampaign c.id (Campaign.takeAnswer ans) with hp4
  -- campaigns of p4
  have f4 : ∀ id, p4.campaign id = if id = c.id then (b.campaign id).map (fun x => Campaign.takeAnswer ans (Campaign.advance { x with counts := x.counts.add .uncomparable })) else b.campaign id := by
    intro id
    have e3 : p3.campaign id = if id = c.id then (b.campaign id).map (fun x => { x with counts := x.counts.add .uncomparable }) else b.campaign id := by
      unfold Block.campaign; rw [hV.sched, s2]; exact Scheduler.find_upd_at _ _ _ fun _ => rfl
    rw [hp4, Block.campaign_updCampaign _ _ _ (Campaign.takeAnswer ans) (fun _ => rfl), Block.campaign_updCampaign _ _ _ Campaign.advance (fun _ => rfl), e3]
    by_cases h : id = c.id
    · simp only [if_pos h, Option.map_map]; rfl
    · simp only [if_neg h]
  set d := b.recorder.judge c.profile c.disregard FindingClass.unreadable.set with hd
  -- answer
  have A : (d.recognised = 0 → ans = Answer.empty ∧ p2.recorder = b.recorder ∧ p2.port.raised = p1.port.raised) ∧ (d.recognised ≠ 0 → ans.noted = d.noted ∧ ans.outcome = d.outcome ∧ ans.haltCode = d.haltCode ∧
      ans.pending = !b.recorder.logsNow ∧ p2.recorder.flags = b.recorder.flags ||| d.noted ∧ (b.recorder.logsNow = true → ∃ g, p2.recorder.log.getLast? = some g ∧ g.sequence = some b.recorder.nextSequence ∧ g.cls = d.loggedClass.getD .annotation ∧
      g.campaign = c.id ∧ g.lane = c.lane ∧ g.slot = c.slot ∧ g.frame = some f ∧ g.verdict = some .uncomparable)) := by
    have hd1 : p1.recorder.judge c.profile c.disregard FindingClass.unreadable.set = d := by rw [rec1]
    constructor
    · intro h0
      have := Block.takeEvent_none (p := p1) (c := c) (ev := ev) (by rw [show ev.conditions = FindingClass.unreadable.set from rfl, hd1]; exact h0)
      rw [hans, hp2, this]; exact ⟨rfl, rec1, rfl⟩
    · intro h0
      have sp := Block.takeEvent_spec p1 c ev
      rw [show ev.conditions = FindingClass.unreadable.set from rfl, hd1, rec1] at sp
      obtain ⟨q1, q2, q3, q4, q5, q6, _⟩ := sp h0
      exact ⟨q1, q2, q3, q4, q5, fun hl => ⟨_, q6 hl, rfl, rfl, rfl, rfl, rfl, rfl, rfl⟩⟩
  have hadv : ∀ x : Campaign, Campaign.advance x = { x with resumePoint := x.resumePoint.bind (fun p => if 0 < x.step ∧ p + x.step ≤ x.windowLast then some (p + x.step) else none), frameRestarts := 0 } := by
    intro x; unfold Campaign.advance; cases x.resumePoint <;> rfl
  have vis : (∀ r, b.store.record c.slot f = some r → (p4.store.record c.slot f).map FrameRecord.visit = some (false, some .uncomparable)) := by
    intro r hr'
    have h1 := hA.visits c.slot f
    rw [hr'] at h1
    cases hp : pre.store.record c.slot f with
    | none => rw [hp] at h1; cases h1
    | some r1 => exact hVr r1 ((st2 _ _).trans hp)
  have hc4 : p4.campaign c.id = some (Campaign.takeAnswer ans (Campaign.advance { c with counts := c.counts.add .uncomparable })) := by rw [f4, if_pos rfl, hc]; rfl
  have hh4 : p4.sched.head l = some (Campaign.takeAnswer ans (Campaign.advance { c with counts := c.counts.add .uncomparable })) := by
    have e : p4.sched = b.sched.upd c.id (fun x => Campaign.takeAnswer ans (Campaign.advance { x with counts := x.counts.add .uncomparable })) := by
      show (p3.sched.upd c.id Campaign.advance).upd c.id (Campaign.takeAnswer ans) = _
      rw [hV.sched, s2]
      unfold Scheduler.upd
      simp only [List.map_map]
      congr 1
      refine List.map_congr_left fun x _ => ?_
      simp only [Function.comp]
      by_cases h : x.id = c.id
      · have : (Campaign.advance { x with counts := x.counts.add .uncomparable }).id = c.id := h
        simp only [if_pos h, if_pos this]
      · simp only [if_neg h]
    rw [e]
    exact Scheduler.head_upd hh hc (f := fun x => Campaign.takeAnswer ans (Campaign.advance { x with counts := x.counts.add .uncomparable })) rfl hact
  have rec4 : p4.recorder = p2.recorder := hV.recorder
  have c4un : ∀ n, ans.noted = n → Campaign.takeAnswer ans (Campaign.advance { c with counts := c.counts.add .uncomparable }) = { c.unreadable n with haltCode := ans.haltCode <|> c.haltCode, pendingFinding := c.pendingFinding || ans.pending } := by
    intro n hn; subst hn
    rw [hadv]; unfold Campaign.takeAnswer; cases ans.haltCode <;> rfl
  obtain ⟨nofin, notedz, haltz, haltn, clsu⟩ := Recorder.judge_unreadable b.recorder c.profile c.disregard
  rw [← hd] at nofin notedz haltz haltn clsu
  have fin : ∀ (p5 : Block) (d5 : Campaign) (g : Campaign → Campaign), p5.sched = p4.sched.upd c.id g → (∀ x, (g x).id = x.id) → g (Campaign.takeAnswer ans (Campaign.advance { c with counts := c.counts.add .uncomparable })) = d5 →
      d5.lane = c.lane → d5.slot = c.slot → d5.state.active = true → p5.recorder = p4.recorder → p5.store = p4.store →
      (d5.state = .held → c.state ≠ .held → ∃ h, d5.heldCause = some h ∧ .campaignChanged c.id c.lane c.slot .held h.cause d5.resumePoint d5.counts ∈ p5.port.raised) →
      (d.outcome = .goOn → d.recognised = 0 ∨ b.recorder.logsNow = true → d5 = c.unreadable d.noted) →
      (d.outcome = .halt ∨ (d.recognised ≠ 0 ∧ b.recorder.logsNow = false) → d5 = { c.unreadable d.noted with
        state := .held, heldCause := some (if b.recorder.logsNow then .finding else .logFull), haltCode := d.haltCode <|> c.haltCode, pendingFinding := c.pendingFinding || !b.recorder.logsNow }) →
      HeadTold b p5 l c true := by
    intro p5 d5 g hs hg hd5 hl hsl hac hrec hst hraise ho1 ho2
    have hid : d5.id = c.id := by rw [← hd5, hg]; rfl
    have e5 : p5.campaign c.id = some d5 := by
      unfold Block.campaign; rw [hs, Scheduler.find_upd_at _ _ _ hg, if_pos rfl, show p4.sched.find c.id = _ from hc4]; exact congrArg some hd5
    refine ⟨⟨fun id hi => ?_, fun x hx he hn => ?_, fun h => (by rw [hv] at h; cases h), fun h hg' hx => ?_, fun f' hf' _ _ => ⟨fun x y => ?_, fun x => ?_, fun x => ?_, fun x y => ?_⟩, fun f' r hf' hr' => ?_⟩, d5, ?_, e5, hid, hl, hsl⟩
    · show p5.sched.find id = _
      rw [hs, Scheduler.find_upd_at _ _ _ hg, if_neg hi]
      exact (f4 id).trans (if_neg hi)
    · rw [e5] at hx; cases hx; exact hraise he hn
    · rcases hx with hx | hx
      · cases hx
      · omega
    · rw [e5]; exact congrArg some (ho1 x y)
    · rw [e5]; exact congrArg some (ho2 x)
    · rw [hrec, rec4]; exact (A.2 x).2.2.2.2.1
    · rw [hv] at hf'; cases hf'
      obtain ⟨gg, w1, w2, w3, w4⟩ := (A.2 x).2.2.2.2.2 y
      exact ⟨gg, by rw [hrec, rec4]; exact w1, w2, by rw [w3, clsu x]; rfl, w4⟩
    · rw [hv] at hf'; cases hf'
      have := vis r hr'
      rw [hst]
      cases hm : p4.store.record c.slot f with
      | none => rw [hm] at this; cases this
      | some r'' =>
        rw [hm] at this
        have e := Option.some.inj this
        exact ⟨r'', rfl, congrArg Prod.fst e, by rw [if_pos ⟨rfl, hr⟩]; exact congrArg Prod.snd e⟩
    · rw [hs]
      have := Scheduler.head_upd (sc := p4.sched) (l := l) hh4 hc4 (f := g) (by rw [hd5]; exact hl) (by rw [hd5]; exact hac)
      rw [hd5] at this; exact this
  unfold Block.applyAnswer
  dsimp only
  rw [show ((p3.updCampaign c.id Campaign.advance).updCampaign c.id (Campaign.takeAnswer ans)) = p4 from rfl, hc4]
  dsimp only
  simp only [Bool.false_eq_true, if_false]
  have updid : p4.sched = p4.sched.upd c.id id := by
    unfold Scheduler.upd; simp
  by_cases h0 : d.recognised = 0
  · have ha := (A.1 h0).1
    rw [ha]
    simp only [Answer.empty]
    refine fin p4 _ id updid (fun _ => rfl) rfl rfl rfl hact rfl rfl (fun h hn => absurd h hn) (fun _ _ => ?_) (fun h => ?_)
    · rw [id, c4un 0 (by rw [ha]; rfl), notedz h0, ha]
      simp [Answer.empty, Campaign.unreadable]
    · rcases h with h | h
      · exact absurd h0 (haltz h)
      · exact absurd h0 h.1
  · obtain ⟨a1, a2, a3, a4, _⟩ := A.2 h0
    have hc4' := c4un d.noted a1
    have hcu : (c.unreadable d.noted).lane = c.lane := rfl
    have holds : ∀ cause, cause = (if b.recorder.logsNow then HeldCause.finding else .logFull) → (d.outcome = .halt ∨ b.recorder.logsNow = false) → HeadTold b (p4.holdCampaign c.id cause) l c true := by
      intro cause hcause hwhy
      obtain ⟨q1, q2, q3, q4, q5⟩ := Block.holdCampaign_spec p4 c.id cause
      refine fin _ _ (fun x => { x with state := .held, heldCause := some cause }) q1 (fun _ => rfl) rfl rfl rfl rfl q2 q3 (fun _ _ => ⟨cause, rfl, ?_⟩) (fun x y => ?_) (fun _ => ?_)
      · rw [q5 _ hc4]; exact List.mem_append_right _ (List.mem_singleton.mpr rfl)
      · rcases hwhy with h | h
        · rw [h] at x; cases x
        · rcases y with y | y
          · exact absurd y h0
          · rw [h] at y; cases y
      · rw [hc4', a3, a4, hcause]; 
    rw [a2, a4]
    cases hout : d.outcome with
    | finish => exact absurd hout nofin
    | halt =>
      dsimp only
      refine holds _ ?_ (.inl hout)
      cases b.recorder.logsNow <;> rfl
    | goOn =>
      dsimp only
      cases hl : b.recorder.logsNow with
      | false => simp only [Bool.not_false, if_true]; exact holds _ (by rw [hl]; rfl) (.inr hl)
      | true =>
        simp only [Bool.not_true, Bool.false_eq_true, if_false]
        refine fin p4 _ id updid (fun _ => rfl) rfl rfl rfl hact rfl rfl (fun h hn => absurd h hn) (fun _ _ => ?_) (fun h => ?_)
        · rw [id, hc4', a3, a4, hl, haltn (by rw [hout]; decide)]
          simp [Campaign.unreadable]
        · rcases h with h | h
          · rw [hout] at h; cases h
          · rw [hl] at h; cases h.2

theorem HeadTold.headTo {b mid : Block} {l : Fin 8} {c : Campaign} {st} (h : HeadTold b mid l c st) (s : CampaignState) (hs : s ≠ .held) :
    b.Departs (mid.headTo l s) l c st (fun x => if x.state = .opening ∨ x.state = .running ∨ x.state = .closing then { x with state := s } else x) := by
  refine h.move _ (fun d h1 h2 h3 h4 h5 => ?_) (fun d hd => by simp [hd]) ?_ ?_ ?_
  · unfold Block.headTo
    rw [h5]
    dsimp only
    have key : d.state.inSession = true ↔ (d.state = .opening ∨ d.state = .running ∨ d.state = .closing) := by cases d.state <;> simp [CampaignState.inSession]
    by_cases hk : d.state = .opening ∨ d.state = .running ∨ d.state = .closing
    · rw [if_pos (key.2 hk), if_pos hk]
      refine ⟨?_, fun id hid => ?_, fun hx => absurd hx hs⟩
      · rw [Block.campaign_updCampaign _ _ _ _ (by intro; rfl), if_pos h2.symm, h1]; rfl
      · rw [Block.campaign_updCampaign _ _ _ _ (by intro; rfl), h2, if_neg hid]
    · rw [if_neg (fun x => hk (key.1 x)), if_neg hk]
      exact ⟨h1, fun _ _ => rfl, fun a b => absurd a b⟩
  all_goals (unfold Block.headTo; split)
  · split <;> rfl
  · rfl
  · split <;> rfl
  · rfl
  · split <;> exact ⟨[], (List.append_nil _).symm⟩
  · exact ⟨[], (List.append_nil _).symm⟩

theorem HeadTold.headHeld {b mid : Block} {l : Fin 8} {c : Campaign} {st} (h : HeadTold b mid l c st) (cause : HeldCause) :
    b.Departs (mid.headHeld l cause) l c st (fun x => if x.state = .held then x else { x with state := .held, heldCause := some cause }) := by
  refine h.move _ (fun d h1 h2 h3 h4 h5 => ?_) (fun d hd => by simp [hd]) ?_ ?_ ?_
  · unfold Block.headHeld
    rw [h5]
    dsimp only
    by_cases hk : d.state = .held
    · rw [if_pos hk, if_pos hk]
      exact ⟨h1, fun _ _ => rfl, fun a b => absurd a b⟩
    · rw [if_neg hk, if_neg hk]
      obtain ⟨q1, q2, q3, q4, q5⟩ := Block.holdCampaign_spec mid d.id cause
      refine ⟨?_, fun id hid => ?_, fun _ _ => ⟨cause, rfl, ?_⟩⟩
      · unfold Block.campaign; rw [q1, Scheduler.find_upd_at _ _ _ (by intro; rfl), if_pos h2.symm, show mid.sched.find c.id = _ from h1]; rfl
      · unfold Block.campaign; rw [q1, Scheduler.find_upd_at _ _ _ (by intro; rfl), h2, if_neg hid]
      · rw [q5 d (by rw [h2]; exact h1), h2, h3, h4]; exact List.mem_append_right _ (List.mem_singleton.mpr rfl)
  all_goals (unfold Block.headHeld; split)
  · split
    · rfl
    · exact (Block.holdCampaign_spec mid _ cause).2.1
  · rfl
  · split
    · rfl
    · exact (Block.holdCampaign_spec mid _ cause).2.2.1
  · rfl
  · split
    · exact ⟨[], (List.append_nil _).symm⟩
    · exact (Block.holdCampaign_spec mid _ cause).2.2.2.1
  · exact ⟨[], (List.append_nil _).symm⟩

theorem Block.Departs.aside {b mid m2 : Block} {l c st g} (h : b.Departs mid l c st g) (k : Aside mid m2) : b.Departs m2 l c st g := by
  have hc : ∀ id, m2.campaign id = mid.campaign id := fun id => by unfold Block.campaign; rw [k.sched]
  refine ⟨fun id hi => (hc id).trans (h.others id hi), fun d hd he hn => ?_, fun hv => (hc _).trans (h.unvisited hv), fun f hf hs => (hc _).trans (h.abandoned f hf hs),
    fun f hf hs hr => ?_, fun f r hf hr => ?_⟩
  · obtain ⟨x, hx, hm⟩ := h.told d ((hc _).symm.trans hd) he hn
    obtain ⟨ns, e⟩ := k.raised
    exact ⟨x, hx, by rw [e]; exact List.mem_append_left _ hm⟩
  · obtain ⟨u1, u2, u3, u4⟩ := h.unreadable f hf hs hr
    exact ⟨fun x y => (hc _).trans (u1 x y), fun x => (hc _).trans (u2 x), fun x => by rw [k.recorder]; exact u3 x, fun x y => by rw [k.recorder]; exact u4 x y⟩
  · obtain ⟨r', h1, h2, h3⟩ := h.cleared f r hf hr
    have := k.visits c.slot f
    rw [h1] at this
    cases hm : m2.store.record c.slot f with
    | none => rw [hm] at this; cases this
    | some r'' =>
      rw [hm] at this
      have e : (r''.visiting, r''.last) = (r'.visiting, r'.last) := Option.some.inj this
      exact ⟨r'', rfl, (congrArg Prod.fst e).trans h2, (congrArg Prod.snd e).trans h3⟩

/-- Whatever the lane was doing, its owner told leaves the head as `HeadTold` says, the lane's campaign item being the head's (R96). -/
theorem Block.tellOwner_told {b pre : Block} {l : Fin 8} {c : Campaign} (hA : Aside b pre) (hh : b.sched.head l = some c) (hc : b.campaign c.id = some c)
    (hi : ∀ it id, (b.lane l).item = some it → it.owner = .campaign id → id = c.id) (why : Departure) (st : Bool) (hst : st = true ↔ why = .stall) :
    HeadTold b (pre.tellOwner l (b.lane l).item (b.lane l).exchange why) l c st := by
  have hpc : pre.campaign c.id = some c := by unfold Block.campaign; rw [hA.sched]; exact hc
  unfold Block.tellOwner
  cases hit : (b.lane l).item with
  | none => exact HeadTold.unvisited hA hh hc (by unfold Lane.visitOf; rw [hit]; rfl)
  | some it =>
    dsimp only
    cases ho : it.owner with
    | entry k => exact HeadTold.unvisited (hA.stepEnded ..) hh hc (by unfold Lane.visitOf; rw [hit]; simp [ho])
    | duty => exact HeadTold.unvisited (hA.abortCalibration ..) hh hc (by unfold Lane.visitOf; rw [hit]; simp [ho])
    | campaign id =>
      have := hi it id hit ho
      subst this
      have hv : (b.lane l).visitOf c = (b.lane l).exchange.openVisit := by unfold Lane.visitOf; rw [hit]; simp [ho]
      dsimp only
      unfold Block.campaignTold
      cases hx : (b.lane l).exchange.openVisit with
      | none => exact HeadTold.unvisited hA hh hc (hv.trans hx)
      | some f =>
        rw [hx] at hv
        cases why with
        | stall =>
          have : st = true := hst.2 rfl
          subst this
          dsimp only
          unfold Block.campaignFrameStalled
          rw [hpc]
          dsimp only
          split
          · next h => exact HeadTold.stalled hA hh hc hv h
          · next h => exact HeadTold.unreadable hA hh hc hv (by omega)
        | yield => cases st; · simp only [hpc]; exact HeadTold.abandoned hA hh hc hv
                   · exact absurd (hst.1 rfl) (by decide)
        | putDown => cases st; · simp only [hpc]; exact HeadTold.abandoned hA hh hc hv
                     · exact absurd (hst.1 rfl) (by decide)
        | duty => cases st; · simp only [hpc]; exact HeadTold.abandoned hA hh hc hv
                  · exact absurd (hst.1 rfl) (by decide)

/-! ## The end of an owner's session (R56) -/

/-- On a lane that is READY or ENGAGED, the owner's end leaves the lane READY without item, exchange and session, and touches nothing but lanes, digest units and asks. -/
theorem Block.endOwner_spec (b : Block) (l : Fin 8) (h : (b.lane l).state = .ready ∨ (b.lane l).state = .engaged) :
    let ln := b.lane l
    let t := b.endOwner l
    t.lane l = { ln with
        state := .ready, item := if ln.state = .engaged then none else ln.item, exchange := .idle, session := none, stallTimer := none,
        sent := ln.sent ++ (ln.session.map (fun x => SentUnit.halt x.number)).toList, pacing := (t.lane l).pacing, gate := (t.lane l).gate } ∧
      (∀ j, j ≠ l → t.lane j = b.lane j) ∧ t.pool = (b.pool.withdraw l).release l ∧ t.recorder = b.recorder ∧ t.port = b.port ∧ t.repair = b.repair ∧ t.store = b.store ∧ t.sched = b.sched := by
  intro ln t
  have hs : ((((b.dropExchange l).haltSession l)).lane l).state = ln.state := by
    rw [Block.haltSession_lane, Block.dropExchange_lane]
  obtain ⟨_, _, _, e⟩ := Block.dropExchange_rest b l
  have hr : ∀ c : Block, (c.haltSession l).recorder = c.recorder ∧ (c.haltSession l).port = c.port ∧ (c.haltSession l).repair = c.repair ∧ (c.haltSession l).store = c.store ∧ (c.haltSession l).sched = c.sched := by
    intro c; unfold Block.haltSession; split <;> exact ⟨rfl, rfl, rfl, rfl, rfl⟩
  have hd : ((b.dropExchange l)).recorder = b.recorder ∧ ((b.dropExchange l)).port = b.port ∧ ((b.dropExchange l)).repair = b.repair ∧ ((b.dropExchange l)).store = b.store ∧ ((b.dropExchange l)).sched = b.sched := by
    rw [e]; exact ⟨rfl, rfl, rfl, rfl, rfl⟩
  have ha := hr (b.dropExchange l)
  rcases h with h | h
  · have et : t = (b.dropExchange l).haltSession l := by
      show b.endOwner l = _
      unfold Block.endOwner; simp only [hs, show ln.state = _ from h]
    rw [et]
    refine ⟨?_, fun j hj => ?_, ?_, ha.1.trans hd.1, ha.2.1.trans hd.2.1, ha.2.2.1.trans hd.2.2.1, ha.2.2.2.1.trans hd.2.2.2.1, ha.2.2.2.2.trans hd.2.2.2.2⟩
    · rw [Block.haltSession_lane, Block.dropExchange_lane]
      rw [if_neg (by rw [show ln.state = _ from h]; decide)]
      show _ = _
      have : ln.state = .ready := h
      simp only [← this]
      rfl
    · rw [Block.haltSession_lane_ne _ hj, Block.dropExchange_lane_ne _ hj]
    · rw [Block.haltSession_pool, Block.dropExchange_pool]
  · obtain ⟨ls, ea⟩ := Block.ask_rest (((b.dropExchange l).haltSession l).updLane l (fun ln => { ln with state := .ready, item := none })) l
    have et : t = ((b.dropExchange l).haltSession l).toReady l := by
      show b.endOwner l = _
      unfold Block.endOwner; simp only [hs, show ln.state = _ from h]
    rw [et]
    have hl : (((b.dropExchange l).haltSession l).toReady l).lane l = { ((b.dropExchange l).haltSession l).lane l with state := .ready, item := none } := by
      unfold Block.toReady; rw [Block.ask_lane, Block.lane_updLane_self]
    have hr2 : ∀ c : Block, (c.toReady l).recorder = c.recorder ∧ (c.toReady l).port = c.port ∧ (c.toReady l).repair = c.repair ∧ (c.toReady l).store = c.store ∧ (c.toReady l).sched = c.sched ∧ (c.toReady l).pool = c.pool := by
      intro c; unfold Block.toReady; obtain ⟨_, e⟩ := Block.ask_rest (c.updLane l (fun ln => { ln with state := .ready, item := none })) l
      rw [e]; exact ⟨rfl, rfl, rfl, rfl, rfl, rfl⟩
    obtain ⟨z1, z2, z3, z4, z5, z6⟩ := hr2 ((b.dropExchange l).haltSession l)
    refine ⟨?_, fun j hj => ?_, ?_, z1.trans (ha.1.trans hd.1), z2.trans (ha.2.1.trans hd.2.1), z3.trans (ha.2.2.1.trans hd.2.2.1), z4.trans (ha.2.2.2.1.trans hd.2.2.2.1), z5.trans (ha.2.2.2.2.trans hd.2.2.2.2)⟩
    · rw [hl, Block.haltSession_lane, Block.dropExchange_lane]
      rw [if_pos h]
    · unfold Block.toReady
      rw [Block.ask_lane, Block.lane_updLane_ne _ _ hj, Block.haltSession_lane_ne _ hj, Block.dropExchange_lane_ne _ hj]
    · rw [z6, Block.haltSession_pool, Block.dropExchange_pool]

theorem Block.headTo_campaign (b : Block) (l : Fin 8) (st : CampaignState) (c : Campaign) (hh : b.sched.head l = some c) (hc : b.campaign c.id = some c) :
   (b.headTo l st).campaign c.id = some (if c.state = .opening ∨ c.state = .running ∨ c.state = .closing then { c with state := st } else c) ∧ ∀ id, id ≠ c.id → (b.headTo l st).campaign id = b.campaign id := by
  unfold Block.headTo; rw [hh]; dsimp only
  have key : c.state.inSession = true ↔ (c.state = .opening ∨ c.state = .running ∨ c.state = .closing) := by cases c.state <;> simp [CampaignState.inSession]
  by_cases hk : c.state = .opening ∨ c.state = .running ∨ c.state = .closing
  · rw [if_pos (key.2 hk), if_pos hk]
    refine ⟨?_, fun id hid => ?_⟩
    · rw [Block.campaign_updCampaign _ _ _ _ (by intro; rfl), if_pos rfl, hc]; rfl
    · rw [Block.campaign_updCampaign _ _ _ _ (by intro; rfl), if_neg hid]
  · rw [if_neg (fun x => hk (key.1 x)), if_neg hk]; exact ⟨hc, fun _ _ => rfl⟩

end Sys2Proof.Machine
end

