-- ==== Sys2Proof/WellFormed.lean ====
section
/-! DEFINITION. Which commands are well formed: what the layouts of R197, R209 and R211 can carry. -/
namespace Sys2Proof

/-- A request's tag is 1 to 255 and its body no longer than 1,024 bytes (R197). -/
def requestFits (tag : Byte) (body : List Byte) : Bool := tag != 0 && decide (body.length ≤ 1024)

/-- A carriage unit's body length fits its three bytes (R211). -/
def unitFits (body : List Byte) : Bool := decide (body.length < 16777216)

/-- The request kinds (R202). -/
def requestKinds : List Byte :=
  [0x01, 0x02, 0x03, 0x04, 0x05, 0x06, 0x07, 0x08, 0x09, 0x0A, 0x0B, 0x0C, 0x0D, 0x0E, 0x10, 0x11, 0x12, 0x13, 0x14] ++
  [0x18, 0x19, 0x1A, 0x1B, 0x1C, 0x1D, 0x20, 0x21, 0x22, 0x23, 0x28, 0x29, 0x2A, 0x2B, 0x2C, 0x2D, 0x3F]

/-- The unit types a reader may send (R45, R211). -/
def readerUnitTypes : List Byte := [0x01, 0x10, 0x11, 0x20, 0x21, 0x22, 0x23, 0x24, 0x25, 0x26, 0x27, 0x28, 0x29]

/-- A command is well formed. -/
def Instr.wellFormed : Instr → Bool
  | .powerUp => true
  | .resetLineAsserted => true
  | .resetLineReleased => true
  | .controlLinkFrame _ => true
  | .frameGapExpired => true
  | .frameSent => true
  | .notARequestKind kind tag body => requestFits tag body && !requestKinds.contains kind
  | .openManifest tag body => requestFits tag body
  | .loadRecords tag body => requestFits tag body
  | .completeManifest tag body => requestFits tag body
  | .eraseManifest tag body => requestFits tag body
  | .bindCopies tag body => requestFits tag body
  | .readManifest tag body => requestFits tag body
  | .readRecords tag body => requestFits tag body
  | .bringUpLane tag body => requestFits tag body
  | .putDownLane tag body => requestFits tag body
  | .restartLane tag body => requestFits tag body
  | .setLane tag body => requestFits tag body
  | .readLane tag body => requestFits tag body
  | .setCapture tag body => requestFits tag body
  | .readCapture tag body => requestFits tag body
  | .verify tag body => requestFits tag body
  | .resumeCampaign tag body => requestFits tag body
  | .abandonCampaign tag body => requestFits tag body
  | .dismissCampaign tag body => requestFits tag body
  | .readCampaign tag body => requestFits tag body
  | .readFindings tag body => requestFits tag body
  | .acknowledge tag body => requestFits tag body
  | .setProfile tag body => requestFits tag body
  | .selectProfile tag body => requestFits tag body
  | .readFlags tag body => requestFits tag body
  | .clearFlags tag body => requestFits tag body
  | .enqueueSuspects tag body => requestFits tag body
  | .withdrawSuspect tag body => requestFits tag body
  | .readSuspects tag body => requestFits tag body
  | .setRepair tag body => requestFits tag body
  | .setDuty tag body => requestFits tag body
  | .hold tag body => requestFits tag body
  | .wake tag body => requestFits tag body
  | .setPacing tag body => requestFits tag body
  | .calibrateLane tag body => requestFits tag body
  | .readDuty tag body => requestFits tag body
  | .restartEngine tag body => requestFits tag body
  | .hello _ _ body _ => unitFits body
  | .header _ _ body _ => unitFits body
  | .mark _ _ body _ => unitFits body
  | .payload _ _ body _ => unitFits body
  | .endUnit _ _ body _ => unitFits body
  | .trailer _ _ body _ => unitFits body
  | .notFound _ _ body _ => unitFits body
  | .fault _ _ body _ => unitFits body
  | .annotation _ _ body _ => unitFits body
  | .yield _ _ body _ => unitFits body
  | .resume _ _ body _ => unitFits body
  | .rewriteDone _ _ body _ => unitFits body
  | .rewriteFailed _ _ body _ => unitFits body
  | .unknownUnitType _ type _ body _ => unitFits body && !readerUnitTypes.contains type
  | .rewriteEndSent _ => true
  | .settleWaitExpired _ => true
  | .stallTimerExpired _ => true
  | .freshnessTimerExpired _ => true
  | .holdTimerExpired => true
  | .pacingGateOpens _ => true
  | .rollupCompletes => true

end Sys2Proof
end

