-- ==== Sys2Proof/Certificates/Slice0/Obligations.lean ====
section
/-! DEFINITION. The statements about the part for the provers. Each names the rules of spec/ it rests on, and the log entry where a clause is the model's own choice. -/
open Sys2Proof Sys2Proof.Machine

/-! ## The queue of commands and the clock -/

/-- A step takes the command at the front of the queue and runs it with the queue's rest; the tail of an empty queue is a tick of one microsecond (log entry 5). -/
def Obligations.StepTakesFrontCommand : Prop :=
  (∀ (s : State) (c : Instr) (rest : List Instr), s.pending = c :: rest → step s = exec c { s with pending := rest }) ∧
  (∀ s : State, s.pending = [] → step s = .next { s with blk := { s.blk with clock := s.blk.clock + 1 } })

/-- Every command answers a next state, and leaves the queue of commands as it is. That no command stops is the model's reading of a manual that names no condition that stops the part
(log entry 23, DEDUCED). -/
def Obligations.EveryCommandAnswersNext : Prop :=
  ∀ (c : Instr) (s : State), ∃ t, exec c s = .next t ∧ t.pending = s.pending

/-! ## Reset (R206 and each block's reset rule) -/

/-- The values after power-up and after the reset line that R26, R91, R122, R147 and R177 give, and with them those of the digest units and claims (R42), of the lanes with their settings
and parsers (R48, R69, R71, R189), of the Duty Controller (R179) and of the port's inbound queue, gap marker and receiver (R206): in State.reset, and in every state that POWER_UP or
RESET_LINE_RELEASED leads to. -/
def Obligations.ResetValues : Prop :=
  ∀ t : State, (t = State.reset ∨ (∃ s, exec .powerUp s = .next t) ∨ (∃ s, s.blk.resetLine = true ∧ exec .resetLineReleased s = .next t)) →
  let b := t.blk
  (∀ k, b.store.manifest k = none) ∧ b.store.free = 16384 ∧ b.store.fifo = [] ∧ b.store.unit = none ∧
  (∀ k : Fin 16, b.capture[k] = { selector := none, kind := none, keepFaulty := false, window := 0, notify := false, content := none, seen := false, faulty := false, lastLane := none, timer := none }) ∧
  (∀ l, (b.lane l).session = none ∧ (b.lane l).exchange = .idle) ∧
  b.sched.table = [] ∧ (∀ l, b.sched.queue l = []) ∧ b.sched.nextId = 1 ∧
  b.recorder.log = [] ∧ b.recorder.nextSequence = 1 ∧ b.recorder.pending = [] ∧ b.recorder.flags = 0 ∧ b.recorder.defaultProfile = 0 ∧
  b.recorder.profiles = #v[{ halts := 0, enqueue := true, rewrite := true },
    { halts := FindingClass.identity.set ||| FindingClass.rollup.set, enqueue := true, rewrite := true },
    { halts := 0x1FF, enqueue := true, rewrite := false }, { halts := 0, enqueue := false, rewrite := false }] ∧
  b.repair.list = [] ∧ b.repair.freeContexts = [0, 1, 2, 3] ∧ b.repair.freeExtents = List.range 64 ∧ b.repair.rewriteEnabled = true ∧
  (∀ i : Fin 4, b.pool.units[i] = none) ∧ b.pool.fifo = [] ∧
  (∀ l, let ln := b.lane l
    ln.state = .off ∧ ln.settings = { settleWait := 800, stallLimit := 20, autoRestart := true, yieldAllowance := 8, keepAlive := false, ceiling := 256 } ∧
    ln.caps = none ∧ ln.helloTaken = false ∧ ln.settleExpired = false ∧ ln.putDownByHold = false ∧ ln.restarts = 0 ∧ ln.stallEvents = 0 ∧ ln.yields = 0 ∧
    ln.settleTimer = none ∧ ln.stallTimer = none ∧ ln.item = none ∧ ln.nextSession = 1 ∧ ln.lastCause = .reset ∧ ln.pacing = none) ∧
  (b.duty.mode = .held ∧ b.duty.wake = .full ∧ b.duty.holdTimer = none ∧ b.duty.share = 2 ∧ b.duty.repairsInShared = false ∧
    ∀ l : Fin 8, b.duty.eligible[l] = false ∧ b.duty.calibration[l] = none ∧ b.duty.lastCalibration[l] = none) ∧
  b.port.inbound = [] ∧ b.port.gap = false ∧ b.port.dropped = 0 ∧ b.port.receiver = []

/-- POWER_UP and RESET_LINE_RELEASED bring every block to its values after reset and queue ENGINE_UP with their cause; RESET_LINE_ASSERTED discards the requests held, and while
the line is asserted every other command changes nothing (R206; log entries 14, 16 and 19). That POWER_UP under an asserted line starts the part is log entry 31's (DESIGN CHOICE). -/
def Obligations.PowerUpAndResetLine : Prop :=
  State.reset.blk.port.outbound = [.notice (.engineUp .powerUp 0 0 0 1 .full)] ∧
  (∀ s : State, exec .powerUp s = .next { s with blk := State.reset.blk }) ∧
  (∀ s : State, exec .resetLineAsserted s = .next { s with blk := { s.blk with resetLine := true, port := { s.blk.port with inbound := [], receiver := [] } } }) ∧
  (∀ s : State, s.blk.resetLine = true → exec .resetLineReleased s = .next { s with blk := { State.reset.blk with
    port := { State.reset.blk.port with outbound := [.notice (.engineUp .resetLine 0 0 0 1 .full)] } } }) ∧
  (∀ (c : Instr) (s : State), s.blk.resetLine = true → c ≠ .powerUp → c ≠ .resetLineAsserted → c ≠ .resetLineReleased → exec c s = .next s)

/-! ## What every step keeps -/

/-- A step leaves nothing over: no arbiter to ask, no claim waiting beside a FREE unit (R31), no notice unqueued (R204). -/
def Obligations.StepLeavesNothingOver : Prop :=
  ∀ s t : State, s.blk.quiet → s.blk.told → step s = .next t → t.blk.quiet ∧ t.blk.told

/-- A step keeps staging memory in its canonical form. -/
def Obligations.StepKeepsStagingCanonical : Prop :=
  ∀ s t : State, Memory.wf s.blk.staging = true → step s = .next t → Memory.wf t.blk.staging = true

/-- A step keeps the places of the port: at most four requests, four replies and twelve notices (R199, R203). -/
def Obligations.StepKeepsPortPlaces : Prop :=
  ∀ s t : State, s.blk.port.fits → step s = .next t → t.blk.port.fits

/-- A step keeps the balance of the record pool: the free count and the frame counts of the manifests held make 16,384 (R2). -/
def Obligations.StepKeepsPoolBalance : Prop :=
  ∀ s t : State, s.blk.store.balanced → step s = .next t → t.blk.store.balanced

/-- A step keeps the Finding Log at 256 findings at most, in rising order of sequence numbers, all below the next one (R138, R140). -/
def Obligations.StepKeepsLogInOrder : Prop :=
  ∀ s t : State, s.blk.recorder.Sound → step s = .next t → t.blk.recorder.Sound

/-- A step keeps every lane's session numbers in 1 to 255 and its restart counter in 0 to 3 (R44, R47, R53). -/
def Obligations.StepKeepsLaneBounds : Prop :=
  ∀ s t : State, (∀ l, (s.blk.lane l).Sound) → step s = .next t → ∀ l, (t.blk.lane l).Sound

/-- A step keeps the campaign table at 24 entries at most and the Suspect List at 128 (R92, R150). -/
def Obligations.StepKeepsListSizes : Prop :=
  ∀ s t : State, s.blk.sched.table.length ≤ 24 ∧ s.blk.repair.list.length ≤ 128 → step s = .next t →
    t.blk.sched.table.length ≤ 24 ∧ t.blk.repair.list.length ≤ 128

/-- The machine right after power-up has everything that every step keeps. -/
def Obligations.ResetIsSafe : Prop := State.reset.blk.Safe

/-! ## Staging memory and digests -/

/-- A frame staged into distinct extents of an entry reads back byte for byte (R155, R159, R164). -/
def Obligations.StagedFrameReadsBack : Prop :=
  ∀ (extents : List Nat) (m : List Host.Cell) (i : Nat) (bs : List Byte), Memory.wf m = true → extents.Nodup →
    i + bs.length ≤ extents.length * extentBytes → unstageBytes extents (stageBytes extents i bs m) i bs.length = bs

/-- The three checks on the text 123456789 (R43 and R83 give two of the values), and a digest taken in pieces is the digest of the whole (R28, R33). -/
def Obligations.ChecksAndDigests : Prop :=
  let text : List Byte := [0x31, 0x32, 0x33, 0x34, 0x35, 0x36, 0x37, 0x38, 0x39]
  crc32 text = 0xFC891918 ∧ crc16 text = 0x29B1 ∧ l64 text = 0x62EC59E3F1A4F00A ∧ l64 [] = 0 ∧
  (∀ (r : Word64) (xs ys : List Byte), l64Update r (xs ++ ys) = l64Update (l64Update r xs) ys) ∧
  (∀ (u : DigestUnit) (xs ys : List Byte), (u.take xs).take ys = u.take (xs ++ ys))

/-! ## Verdicts, classes and dispositions -/

/-- The rows of R39 and the conditions of R40, over every recorded length, expected digest and result; `restartLimit` is R106's frame restart limit, which R39 gives code 3 with UNREADABLE. -/
def Obligations.VerdictRows : Prop :=
  ∀ (length : Nat) (expected : Word64),
    (∀ got r, verdictOf length expected (.fault got r) = .uncomparable ∧ conditionsOf length expected (.fault got r) = FindingClass.unreadable.set) ∧
    (∀ got, verdictOf length expected (.notFound got) = .uncomparable ∧ conditionsOf length expected (.notFound got) = FindingClass.missing.set) ∧
    (∀ got n, verdictOf length expected (.substituted got n) = .uncomparable ∧
      conditionsOf length expected (.substituted got n) = FindingClass.missing.set ||| FindingClass.stray.set) ∧
    (verdictOf length expected .restartLimit = .uncomparable ∧ conditionsOf length expected .restartLimit = FindingClass.unreadable.set) ∧
    (∀ d, d = expected → verdictOf length expected (.complete length d) = .sound ∧ conditionsOf length expected (.complete length d) = 0) ∧
    (∀ d, d ≠ expected → verdictOf length expected (.complete length d) = .damaged ∧
      conditionsOf length expected (.complete length d) = FindingClass.content.set) ∧
    (∀ n d, n < length → verdictOf length expected (.complete n d) = .missized ∧ conditionsOf length expected (.complete n d) = FindingClass.short.set) ∧
    (∀ n d, length < n → d = expected → verdictOf length expected (.complete n d) = .missized ∧
      conditionsOf length expected (.complete n d) = FindingClass.long.set) ∧
    (∀ n d, length < n → d ≠ expected → verdictOf length expected (.complete n d) = .missized ∧
      conditionsOf length expected (.complete n d) = FindingClass.long.set ||| FindingClass.content.set)

/-- Recognition and outcome of an event (R127, R128), and the highest class of a set (R125): a class is recognised when its condition is handed and the disregard set does
not name it; the profile is the one the campaign names, CURRENT naming the default of the moment (R126);
the outcome is HALT when a recognised class is disposed HALT, END when IDENTITY is recognised and disposed NOTE, and CONTINUE otherwise. -/
def Obligations.DispositionsAndPrecedence : Prop :=
  (∀ (r : Recorder) (p : ProfileChoice) (disregard conditions : ClassSet),
    let d := r.judge p disregard conditions
    let halt := (r.profiles[d.profile]).halts
    (d.profile = match p with | .numbered n => n | .current => r.defaultProfile) ∧
    (∀ c, ClassSet.has d.recognised c = (ClassSet.has conditions c && !ClassSet.has disregard c)) ∧
    (∀ c, ClassSet.has d.halts c = (ClassSet.has d.recognised c && ClassSet.has halt c)) ∧
    (∀ c, ClassSet.has d.noted c = (ClassSet.has d.recognised c && !ClassSet.has halt c)) ∧
    (d.outcome = .halt ↔ ∃ c, ClassSet.has d.halts c = true) ∧
    (d.outcome = .finish ↔ (∀ c, ClassSet.has d.halts c = false) ∧ ClassSet.has d.noted .identity = true)) ∧
  (∀ (s : ClassSet) (c : FindingClass), ClassSet.highest s = some c ↔
    ClassSet.has s c = true ∧ ∀ c', c'.number < c.number → ClassSet.has s c' = false)

/-! ## The Control Port -/

/-- The port's own checks (R200, R201, R202): a well-formed request it takes is refused KIND, then FORM, then DUTY; the reply is queued, the request leaves, and nothing else changes.
NOT_A_REQUEST_KIND carries a kind that R202 does not list and is refused KIND whatever its body. -/
def Obligations.PortChecksInOrder : Prop :=
  (∀ (c : Instr) (r : Request) (s : State), requestOf c = some r → c.wellFormed = true → s.Ready r →
    (requestLength r.kind r.body = none → exec c s = .next (s.replied s.blk r.kind r.tag (.refused .kind))) ∧
    (∀ n, requestLength r.kind r.body = some n → r.body.length ≠ n → exec c s = .next (s.replied s.blk r.kind r.tag (.refused .form))) ∧
    (requestLength r.kind r.body = some r.body.length → requestModes r.kind s.blk.duty.mode = false →
      exec c s = .next (s.replied s.blk r.kind r.tag (.refused .duty)))) ∧
  (∀ (kind tag : Byte) (body : List Byte) (s : State), kind ∉ requestKinds → s.Ready { kind := kind, tag := tag, body := body } →
    exec (.notARequestKind kind tag body) s = .next (s.replied s.blk kind tag (.refused .kind)))

/-- A refused request changes no state of the part (R200, R201), whichever block refuses it: all that changes is that the request is gone and its reply is queued. -/
def Obligations.RefusedRequestChangesNothing : Prop :=
  ∀ (c : Instr) (r : Request) (s t : State) (reason : Reason), requestOf c = some r → s.Ready r → exec c s = .next t →
    OutFrame.reply (replyKind r.kind) r.tag (.refused reason) ∈ t.blk.port.outbound.drop s.blk.port.outbound.length →
    t = s.replied s.blk r.kind r.tag (.refused reason)

/-- A request that is not at the head of the queue is received in the same step (log entry 1): behind others it waits as the last of the queue, and with four held it is
dropped with REQUEST_DROPPED (R199). One that finds the queue empty is received and taken in one step: the step is the one that takes it where it stands alone in the queue; with
every reply place taken it waits there (R200). A request at the head waits while every reply place is taken (R200). -/
def Obligations.RequestsWaitOrAreDropped : Prop :=
  ∀ (c : Instr) (r : Request) (s : State), requestOf c = some r → c.wellFormed = true → s.blk.resetLine = false → s.blk.told →
    (s.blk.port.inbound.head? = some r → 4 ≤ s.blk.port.repliesUsed → exec c s = .next s) ∧
    (s.blk.port.inbound = [] →
      let alone := { s with blk := { s.blk with port := { s.blk.port with inbound := [r] } } }
      (s.blk.port.repliesUsed < 4 → exec c s = exec c alone) ∧ (4 ≤ s.blk.port.repliesUsed → exec c s = .next alone)) ∧
    (s.blk.port.inbound.head? ≠ some r → s.blk.port.inbound ≠ [] → s.blk.port.inbound.length < 4 →
      exec c s = .next { s with blk := { s.blk with port := { s.blk.port with inbound := s.blk.port.inbound ++ [r] } } }) ∧
    (s.blk.port.inbound.head? ≠ some r → 4 ≤ s.blk.port.inbound.length →
      exec c s = .next { s with blk := { s.blk with port := s.blk.port.queueNotice (.requestDropped r.kind r.tag) } })

/-- FRAME_SENT (R203, R205): the first frame leaves the outbound queue, and when it frees a notice place with the gap marker set, NOTICE_GAP takes the place. -/
def Obligations.FrameSentFreesItsPlace : Prop :=
  ∀ (s : State) (f : OutFrame) (rest : List OutFrame), s.Idle → s.blk.port.outbound = f :: rest →
    exec .frameSent s = .next { s with blk := { s.blk with port :=
      if f.isNotice = true ∧ s.blk.port.gap = true then
        { s.blk.port with outbound := rest ++ [.notice (.noticeGap s.blk.port.dropped)], gap := false, dropped := 0 }
      else { s.blk.port with outbound := rest } } }

/-- Queueing a notice (R143, R203, R205): in a free place at the tail; with twelve held it is dropped, the marker set and the count raised, stopping at 65,535; a LOG_ADVANCED
with another waiting replaces its number. A frame at the front of the queue is no longer waiting (log entry 6). -/
def Obligations.NoticesArePlacedOrDropped : Prop :=
  ∀ (p : Port) (n : Notice),
    ((∀ last, n ≠ .logAdvanced last) ∨ p.outbound.tail.any OutFrame.isLogAdvanced = false →
      (p.noticesUsed < 12 → p.queueNotice n = { p with outbound := p.outbound ++ [.notice n] }) ∧
      (12 ≤ p.noticesUsed → p.queueNotice n = { p with gap := true, dropped := if p.dropped < 65535 then p.dropped + 1 else 65535 })) ∧
    (∀ last first older newer k, n = .logAdvanced last → p.outbound = first :: (older ++ .notice (.logAdvanced k) :: newer) →
      older.any OutFrame.isLogAdvanced = false → newer.any OutFrame.isLogAdvanced = false →
      p.queueNotice n = { p with outbound := first :: (older ++ .notice (.logAdvanced last) :: newer) })

/-- CONTROL_LINK_FRAME (R197, R198, R199, R209): a whole frame with a good check and a tag other than 0 that reaches a receiver with nothing in hand becomes a request at the tail of
the inbound queue. A body length past 1,024 (LENGTH) and a check that does not match (CHECK) reject the frame, and the bytes behind its 0xA5 are examined again; a tag 0 under a good check
(TAG) rejects it, and the bytes behind its check are examined. FRAME_GAP_EXPIRED (R198): a frame in reception, from its sync pair on (log entry 15), is rejected GAP with its kind and tag as far
as received, 0 where not; with no 0xA5 among the bytes behind its first, the receiver then has nothing in hand. A receiver that hunts is not changed, and a lone 0xA5 opens no gap
(log entries 14 and 15). -/
def Obligations.ReceiverTakesFrames : Prop :=
  (∀ (s : State) (kind tag : Byte) (body : List Byte), s.Idle → s.blk.port.receiver = [] → s.blk.port.inbound.length < 4 → tag ≠ 0 → body.length ≤ 1024 →
    exec (.controlLinkFrame (linkFrame kind tag body)) s = .next { s with blk := { s.blk with port :=
      { s.blk.port with inbound := s.blk.port.inbound ++ [{ kind := kind, tag := tag, body := body }] } } }) ∧
  (∀ (s : State) (rest : List Byte), s.Idle → s.blk.port.receiver = [] → rest.head? = some 0x5A → 3 ≤ rest.length → 1024 < fieldAt rest 1 2 →
    exec (.controlLinkFrame (0xA5 :: rest)) s = exec (.controlLinkFrame rest) (s.noticed (.frameRejected .length 0 0))) ∧
  (∀ (s : State) (kind tag : Byte) (body more : List Byte) (check : Word16), s.Idle → s.blk.port.receiver = [] → body.length ≤ 1024 →
    let checked := beBytes 2 body.length ++ [kind, tag] ++ body
    let rest := 0x5A :: (checked ++ beBytes 2 check.toNat ++ more)
    check ≠ crc16 checked → exec (.controlLinkFrame (0xA5 :: rest)) s = exec (.controlLinkFrame rest) (s.noticed (.frameRejected .check kind tag))) ∧
  (∀ (s : State) (kind : Byte) (body more : List Byte), s.Idle → s.blk.port.receiver = [] → body.length ≤ 1024 →
    exec (.controlLinkFrame (linkFrame kind 0 body ++ more)) s = exec (.controlLinkFrame more) (s.noticed (.frameRejected .tag kind 0))) ∧
  (∀ s : State, s.Idle → 2 ≤ s.blk.port.receiver.length → s.blk.port.receiver.tail.all (fun x => x != 0xA5) = true →
    let n := Notice.frameRejected .gap (s.blk.port.receiver.getD 4 0) (s.blk.port.receiver.getD 5 0)
    exec .frameGapExpired s = .next { s with blk := { s.blk with port := ({ s.blk.port with receiver := [] } : Port).queueNotice n } }) ∧
  (∀ s : State, s.Idle → s.blk.port.receiver.length < 2 → exec .frameGapExpired s = .next s)

/-! ## The Fixity Store -/

/-- OPEN MANIFEST (R5, R6): refused RANGE, STATE, RANGE and ROOM in that order; taken, the slot is LOADING with the body's identity, every record as R3 starts it, and the
frame count reserved. The free count of the reply is sent in two bytes (R215; log entry 10, DEDUCED). -/
def Obligations.OpenManifestReserves : Prop :=
  ∀ (s : State) (tag : Byte) (body : List Byte), s.Takes 0x01 tag body →
    let first := fieldAt body 13 4
    let count := fieldAt body 17 2
    let refused := fun r => exec (.openManifest tag body) s = .next (s.replied s.blk 0x01 tag (.refused r))
    (16 ≤ fieldAt body 0 1 → refused .range) ∧
    (∀ k, slotOf (fieldAt body 0 1) = some k →
      (s.blk.store.manifest k ≠ none → refused .state) ∧
      (s.blk.store.manifest k = none → ¬(1 ≤ count ∧ count ≤ 4096 ∧ first + count - 1 ≤ 4294967295) → refused .range) ∧
      (s.blk.store.manifest k = none → 1 ≤ count → count ≤ 4096 → first + count - 1 ≤ 4294967295 → s.blk.store.free < count → refused .room) ∧
      (s.blk.store.manifest k = none → 1 ≤ count → count ≤ 4096 → first + count - 1 ≤ 4294967295 → count ≤ s.blk.store.free →
        let record : FrameRecord := { length := none, digest := 0, state := .unvisited, last := none, visiting := false, queued := false, detail := none }
        let opened : Manifest :=
          { state := .loading, reel := BitVec.ofNat 64 (fieldAt body 1 8), span := BitVec.ofNat 32 (fieldAt body 9 4), first := first, count := count,
            records := List.replicate count record, expected := none, computed := none, copyA := none, copyB := none, trailerDisagrees := false,
            campaignPins := 0, suspectPins := 0 }
        exec (.openManifest tag body) s = .next (s.replied { s.blk with
          store := { s.blk.store with slots := s.blk.store.slots.set k.val (some opened) k.isLt, free := s.blk.store.free - count } }
          0x01 tag (.done (beBytes 2 (s.blk.store.free - count))))))

/-- LOAD RECORDS (R5, R7, R8, R9): refused RANGE, ABSENT, PINNED and RANGE in that order; taken, the manifest is LOADING, the named records are loaded and UNVISITED with their
marks kept, the others stay, a manifest of another state reopens, and a CLOSING one has its roll-up cancelled. -/
def Obligations.LoadRecordsWrites : Prop :=
  ∀ (s : State) (tag : Byte) (body : List Byte), s.Takes 0x02 tag body →
    let start := fieldAt body 1 2
    let count := fieldAt body 3 1
    let length := fun i => fieldAt body (4 + 12 * i) 4
    let digest := fun i => BitVec.ofNat 64 (fieldAt body (8 + 12 * i) 8)
    let refused := fun r => exec (.loadRecords tag body) s = .next (s.replied s.blk 0x02 tag (.refused r))
    (16 ≤ fieldAt body 0 1 → refused .range) ∧
    (∀ k, slotOf (fieldAt body 0 1) = some k → s.blk.store.manifest k = none → refused .absent) ∧
    (∀ k m, slotOf (fieldAt body 0 1) = some k → s.blk.store.manifest k = some m →
      let pinned := (m.state = .ready ∨ m.state = .discordant) ∧ 0 < m.campaignPins + m.suspectPins
      let inRange := 1 ≤ count ∧ count ≤ 32 ∧ start + count ≤ m.count ∧ ∀ i, i < count → 1 ≤ length i ∧ length i ≤ 268435456
      (pinned → refused .pinned) ∧
      (¬pinned → ¬inRange → refused .range) ∧
      (¬pinned → inRange → ∃ st m',
        exec (.loadRecords tag body) s = .next (s.replied { s.blk with store := st } 0x02 tag (.done (beBytes 2 (m'.records.countP (fun r => r.length.isSome))))) ∧
        st.free = s.blk.store.free ∧ (∀ j, st.manifest j = if j = k then some m' else s.blk.store.manifest j) ∧
        (m.state ≠ .closing → st.unit = s.blk.store.unit ∧ st.fifo = s.blk.store.fifo) ∧
        (m.state = .closing → s.blk.store.unit = some k → st.unit = s.blk.store.fifo.head? ∧ st.fifo = s.blk.store.fifo.tail) ∧
        (m.state = .closing → s.blk.store.unit ≠ some k → st.unit = s.blk.store.unit ∧ st.fifo = s.blk.store.fifo.filter (fun j => j != k)) ∧
        m' = { m with
          state := .loading
          expected := if m.state = .loading then m.expected else none
          computed := if m.state = .ready ∨ m.state = .discordant then none else m.computed
          trailerDisagrees := if m.state = .ready ∨ m.state = .discordant then false else m.trailerDisagrees
          records := m'.records } ∧
        m'.records.length = m.records.length ∧
        (∀ i r, m.records[i]? = some r → m'.records[i]? = some (if start ≤ i ∧ i < start + count then
          { r with length := some (length (i - start)), digest := digest (i - start), state := .unvisited, last := none, detail := none } else r))))

/-- COMPLETE MANIFEST (R5, R10, R12): taken in LOADING with every record loaded; the expected roll-up is stored, the slot is CLOSING and the manifest joins the roll-up FIFO, from
which an idle unit takes the head. -/
def Obligations.CompleteManifestCloses : Prop :=
  ∀ (s : State) (tag : Byte) (body : List Byte), s.Takes 0x03 tag body →
    let refused := fun r => exec (.completeManifest tag body) s = .next (s.replied s.blk 0x03 tag (.refused r))
    (16 ≤ fieldAt body 0 1 → refused .range) ∧
    (∀ k, slotOf (fieldAt body 0 1) = some k → s.blk.store.manifest k = none → refused .absent) ∧
    (∀ k m, slotOf (fieldAt body 0 1) = some k → s.blk.store.manifest k = some m →
      (¬(m.state = .loading ∧ m.records.countP (fun r => r.length.isSome) = m.count) → refused .state) ∧
      (m.state = .loading → m.records.countP (fun r => r.length.isSome) = m.count →
        let closing := { m with state := .closing, expected := some (BitVec.ofNat 64 (fieldAt body 1 8)) }
        let idle := s.blk.store.unit = none
        let queue := s.blk.store.fifo ++ [k]
        exec (.completeManifest tag body) s = .next (s.replied { s.blk with
          store := { s.blk.store with
            slots := s.blk.store.slots.set k.val (some closing) k.isLt
            unit := if idle then queue.head? else s.blk.store.unit
            fifo := if idle then queue.tail else queue } }
          0x03 tag (.done []))))

/-- ROLLUP_COMPLETES (R11, R13): the result over the manifest's identity and its records' lengths and digests is stored, the slot is READY when it equals the expected roll-up and
DISCORDANT when not, MANIFEST_SETTLED is queued, and the unit takes the next manifest. With an idle unit nothing changes (log entry 14). -/
def Obligations.RollupCompletes : Prop :=
  ∀ s : State, s.Idle →
    (s.blk.store.unit = none → exec .rollupCompletes s = .next s) ∧
    (∀ k m, s.blk.store.unit = some k → s.blk.store.manifest k = some m →
      let result := l64 (beBytes 8 m.reel.toNat ++ beBytes 4 m.span.toNat ++ beBytes 4 m.first ++ beBytes 4 m.count ++
        (m.records.map (fun r => beBytes 8 (r.length.getD 0) ++ beBytes 8 r.digest.toNat)).flatten)
      let reached := if m.expected = some result then ManifestState.ready else .discordant
      exec .rollupCompletes s = .next { s with blk := { s.blk with
        store := { s.blk.store with
          slots := s.blk.store.slots.set k.val (some { m with computed := some result, state := reached }) k.isLt
          unit := s.blk.store.fifo.head?
          fifo := s.blk.store.fifo.tail }
        port := s.blk.port.queueNotice (.manifestSettled k m.reel m.span reached result) } })

/-- ERASE MANIFEST (R5, R14, R17): refused PINNED with a pin; otherwise the slot is EMPTY, its frame count is back in the pool, and a roll-up of it is cancelled.
The free count of the reply is sent in two bytes (R215; log entry 10, DEDUCED). -/
def Obligations.EraseManifestReturns : Prop :=
  ∀ (s : State) (tag : Byte) (body : List Byte), s.Takes 0x04 tag body →
    let refused := fun r => exec (.eraseManifest tag body) s = .next (s.replied s.blk 0x04 tag (.refused r))
    (16 ≤ fieldAt body 0 1 → refused .range) ∧
    (∀ k, slotOf (fieldAt body 0 1) = some k → s.blk.store.manifest k = none → refused .absent) ∧
    (∀ k m, slotOf (fieldAt body 0 1) = some k → s.blk.store.manifest k = some m →
      (0 < m.campaignPins + m.suspectPins → refused .pinned) ∧
      (m.campaignPins + m.suspectPins = 0 →
        let held := m.state = .closing ∧ s.blk.store.unit = some k
        let waiting := m.state = .closing ∧ s.blk.store.unit ≠ some k
        exec (.eraseManifest tag body) s = .next (s.replied { s.blk with
          store := { s.blk.store with
            slots := s.blk.store.slots.set k.val none k.isLt
            free := s.blk.store.free + m.count
            unit := if held then s.blk.store.fifo.head? else s.blk.store.unit
            fifo := if held then s.blk.store.fifo.tail else if waiting then s.blk.store.fifo.filter (fun j => j != k) else s.blk.store.fifo } }
          0x04 tag (.done (beBytes 2 (s.blk.store.free + m.count))))))

/-- BIND COPIES (R5, R15): refused PINNED while the suspect pins are above 0, then RANGE; taken, both copy lanes are replaced, 0xFF standing for NONE. -/
def Obligations.BindCopiesReplaces : Prop :=
  ∀ (s : State) (tag : Byte) (body : List Byte), s.Takes 0x05 tag body →
    let a := fieldAt body 1 1
    let c := fieldAt body 2 1
    let lane := fun n => if n = 0xFF then none else laneOf n
    let bad := fun n => 8 ≤ n ∧ n ≠ 0xFF
    let refused := fun r => exec (.bindCopies tag body) s = .next (s.replied s.blk 0x05 tag (.refused r))
    (16 ≤ fieldAt body 0 1 → refused .range) ∧
    (∀ k, slotOf (fieldAt body 0 1) = some k → s.blk.store.manifest k = none → refused .absent) ∧
    (∀ k m, slotOf (fieldAt body 0 1) = some k → s.blk.store.manifest k = some m →
      (0 < m.suspectPins → refused .pinned) ∧
      (m.suspectPins = 0 → bad a ∨ bad c ∨ (a < 8 ∧ a = c) → refused .range) ∧
      (m.suspectPins = 0 → ¬bad a → ¬bad c → ¬(a < 8 ∧ a = c) →
        exec (.bindCopies tag body) s = .next (s.replied { s.blk with
          store := { s.blk.store with slots := s.blk.store.slots.set k.val (some { m with copyA := lane a, copyB := lane c }) k.isLt } }
          0x05 tag (.done []))))

/-- READ MANIFEST and READ RECORDS (R5, R18, R19) change nothing: the reply carries the free count and the slot's values, or the records of the range in index order, each with its
frame number, behind one byte with their number (the layout of the composite replies and the list's count are log entry 9's, the two bytes of the free count and of a frame
count log entry 10's). -/
def Obligations.StoreReads : Prop :=
  (∀ (s : State) (tag : Byte) (body : List Byte), s.Takes 0x06 tag body →
    let answer := fun rep => exec (.readManifest tag body) s = .next (s.replied s.blk 0x06 tag rep)
    (16 ≤ fieldAt body 0 1 → answer (.refused .range)) ∧
    (∀ k, slotOf (fieldAt body 0 1) = some k →
      (s.blk.store.manifest k = none → answer (.done (beBytes 2 s.blk.store.free ++ [0x00]))) ∧
      (∀ m, s.blk.store.manifest k = some m →
        answer (.done (beBytes 2 s.blk.store.free ++ [m.state.code] ++ m.bytes (s.blk.store.rollupPosition k)))))) ∧
  (∀ (s : State) (tag : Byte) (body : List Byte), s.Takes 0x07 tag body →
    let start := fieldAt body 1 2
    let count := fieldAt body 3 1
    let inRange := fun m : Manifest => 1 ≤ count ∧ count ≤ 32 ∧ start + count ≤ m.count
    let answer := fun rep => exec (.readRecords tag body) s = .next (s.replied s.blk 0x07 tag rep)
    (16 ≤ fieldAt body 0 1 → answer (.refused .range)) ∧
    (∀ k, slotOf (fieldAt body 0 1) = some k → s.blk.store.manifest k = none → answer (.refused .absent)) ∧
    (∀ k m, slotOf (fieldAt body 0 1) = some k → s.blk.store.manifest k = some m →
      (¬inRange m → answer (.refused .range)) ∧
      (inRange m → m.records.length = m.count → ∃ items : List (List Byte), answer (.done (BitVec.ofNat 8 count :: items.flatten)) ∧ items.length = count ∧
        ∀ i r, i < count → m.records[start + i]? = some r → items[i]? = some (FrameRecord.bytes (m.first + start + i) r))))

/-! ## Lanes -/

/-- BRING UP LANE and RESTART LANE (R49, R54): refused RANGE and STATE; taken, the restart counter is 0, both settling marks are clear, HELLO or RESTART is sent, the settle timer
starts, the lane is SETTLING, and LANE_CHANGED follows the reply. -/
def Obligations.LanesSettle : Prop :=
  ∀ (s : State) (tag : Byte) (body : List Byte),
    let settling := fun (ln : Lane) (unit : SentUnit) (cause : LaneCause) => { ln with
      state := .settling, restarts := 0, item := none, session := none, helloTaken := false, settleExpired := false,
      settleTimer := some (s.blk.clock + ln.settings.settleWait * 1000), stallTimer := none, resumeTarget := none, lastCause := cause, sent := ln.sent ++ [unit] }
    (s.Takes 0x08 tag body →
      (8 ≤ fieldAt body 0 1 → exec (.bringUpLane tag body) s = .next (s.replied s.blk 0x08 tag (.refused .range))) ∧
      (∀ l, laneOf (fieldAt body 0 1) = some l →
        ((s.blk.lane l).state ≠ .off → exec (.bringUpLane tag body) s = .next (s.replied s.blk 0x08 tag (.refused .state))) ∧
        ((s.blk.lane l).state = .off → exec (.bringUpLane tag body) s = .next ((s.replied
          (s.blk.updLane l (fun ln => { settling ln .hello .bringUp with putDownByHold := false })) 0x08 tag (.done [])).noticed
          (.laneChanged l .settling .bringUp 0))))) ∧
    (s.Takes 0x0A tag body →
      (8 ≤ fieldAt body 0 1 → exec (.restartLane tag body) s = .next (s.replied s.blk 0x0A tag (.refused .range))) ∧
      (∀ l, laneOf (fieldAt body 0 1) = some l →
        ((s.blk.lane l).state ≠ .stalled → exec (.restartLane tag body) s = .next (s.replied s.blk 0x0A tag (.refused .state))) ∧
        ((s.blk.lane l).state = .stalled → exec (.restartLane tag body) s = .next ((s.replied
          (s.blk.updLane l (fun ln => settling ln .restart .hostRestart)) 0x0A tag (.done [])).noticed (.laneChanged l .settling .hostRestart 0)))))

/-- HELLO (R50), with its checks passed: stored in SETTLING and in LENT, where the resume target becomes SETTLE; with the settle wait expired the lane is READY, with LANE_CHANGED
cause SETTLED, the Repair Engine told and the arbiter asked; discarded in OFF and STALLED; malformed in the other states. -/
def Obligations.HelloSettles : Prop :=
  ∀ (s : State) (l : Fin 8) (body : List Byte) (crc : Word32) (c : Caps), s.Idle → unitCrcGood 0x01 0 body crc = true → parseHello body = some c →
    let answer := exec (.hello l 0 body crc) s
    ((s.blk.lane l).state = .settling → (s.blk.lane l).settleExpired = false →
      answer = .next { s with blk := s.blk.updLane l (fun ln => { ln with caps := some c, helloTaken := true }) }) ∧
    ((s.blk.lane l).state = .settling → (s.blk.lane l).settleExpired = true →
      let ready := s.blk.updLane l (fun ln => { ln with
        caps := some c, helloTaken := true, state := .ready, restarts := 0, settleTimer := none, stallTimer := none, lastCause := .settled })
      answer = .next (s.after (((ready.raise (.laneChanged l .ready .settled 0)).enteredService l).ask l))) ∧
    ((s.blk.lane l).state = .lent →
      answer = .next { s with blk := s.blk.updLane l (fun ln => { ln with caps := some c, resumeTarget := some .settle }) }) ∧
    ((s.blk.lane l).state = .off ∨ (s.blk.lane l).state = .stalled → answer = .next s) ∧
    ((s.blk.lane l).state = .ready ∨ (s.blk.lane l).state = .engaged ∨ (s.blk.lane l).state = .calibrating ∨ (s.blk.lane l).state = .yielding →
      answer = .next (s.after (s.blk.malformed l)))

/-- SETTLE_WAIT_EXPIRED (R50): the clock stands at the timer's time (log entry 5); with HELLO taken the lane is READY as HelloSettles says, and otherwise settle expired is set and
the stall timer starts with the stall limit in half-seconds. With the timer stopped nothing changes (log entry 14). -/
def Obligations.SettleWaitExpires : Prop :=
  ∀ (s : State) (l : Fin 8), s.Idle →
    let answer := exec (.settleWaitExpired l) s
    ((s.blk.lane l).settleTimer = none → answer = .next s) ∧
    (∀ t, (s.blk.lane l).settleTimer = some t →
      let now := { s.blk with clock := max s.blk.clock t }
      ((s.blk.lane l).helloTaken = false → answer = .next { s with blk := now.updLane l (fun ln => { ln with
        settleTimer := none, settleExpired := true, stallTimer := some (now.clock + ln.settings.stallLimit * 500000) }) }) ∧
      ((s.blk.lane l).helloTaken = true →
        let ready := now.updLane l (fun ln => { ln with
          settleExpired := true, state := .ready, restarts := 0, settleTimer := none, stallTimer := none, lastCause := .settled })
        answer = .next (s.after (((ready.raise (.laneChanged l .ready .settled 0)).enteredService l).ask l))))

/-- SET LANE (R48, R65; taken in HELD alone, R202): each setting in its range or refused RANGE; taken, all six are replaced and nothing else of the lane, unless the lane is READY
with no item and its keep-alive is off: then it is put down by hold at once (R182). -/
def Obligations.SetLaneReplacesSettings : Prop :=
  ∀ (s : State) (tag : Byte) (body : List Byte), s.Takes 0x0B tag body →
    let wait := fieldAt body 1 2
    let stall := fieldAt body 3 1
    let auto := fieldAt body 4 1
    let allowance := fieldAt body 5 1
    let keep := fieldAt body 6 1
    let ceiling := fieldAt body 7 2
    let inRange := (wait = 50 ∨ wait = 200 ∨ wait = 800 ∨ wait = 3200) ∧ 1 ≤ stall ∧ stall ≤ 120 ∧ auto ≤ 1 ∧ allowance ≤ 64 ∧ keep ≤ 1 ∧ 1 ≤ ceiling ∧ ceiling ≤ 2048
    (8 ≤ fieldAt body 0 1 → exec (.setLane tag body) s = .next (s.replied s.blk 0x0B tag (.refused .range))) ∧
    (∀ l, laneOf (fieldAt body 0 1) = some l →
      (¬inRange → exec (.setLane tag body) s = .next (s.replied s.blk 0x0B tag (.refused .range))) ∧
      (inRange →
        let set := s.blk.updLane l (fun ln => { ln with settings :=
          { settleWait := wait, stallLimit := stall, autoRestart := auto == 1, yieldAllowance := allowance, keepAlive := keep == 1, ceiling := ceiling } })
        (keep = 1 ∨ (s.blk.lane l).state ≠ .ready ∨ (s.blk.lane l).item ≠ none → exec (.setLane tag body) s = .next (s.replied set 0x0B tag (.done []))) ∧
        (keep = 0 → (s.blk.lane l).state = .ready → (s.blk.lane l).item = none →
          exec (.setLane tag body) s = .next (s.answered (set.putDownByHold l false) 0x0B tag (.done [])) ∧
          ((set.putDownByHold l false).lane l).state = .off ∧ ((set.putDownByHold l false).lane l).putDownByHold = true ∧
          ((set.putDownByHold l false).lane l).session = none ∧ ((set.putDownByHold l false).lane l).settings = (set.lane l).settings)))

/-- PUT DOWN LANE (R66): BUSY while a rewrite exchange is in flight; in OFF it clears the put-down-by-hold mark; in every other state the exchange, the item, the session and both
timers end, HALT is sent if a session was open, the lane is OFF with cause PUT_DOWN, and its digest unit is free; counter, capabilities and settings stay. The visit of a campaign frame in flight is abandoned, and the head campaign, the lane's campaign
item being its own (R96), is HELD with LANE_DOWN and CAMPAIGN_CHANGED unless it was HELD already (R113). -/
def Obligations.PutDownLane : Prop :=
  ∀ (s : State) (tag : Byte) (body : List Byte), s.Takes 0x09 tag body →
    let answer := exec (.putDownLane tag body) s
    (8 ≤ fieldAt body 0 1 → answer = .next (s.replied s.blk 0x09 tag (.refused .range))) ∧
    (∀ l, laneOf (fieldAt body 0 1) = some l →
      let ln := s.blk.lane l
      let down := s.blk.putDown l
      (ln.exchange.isRewrite = true → answer = .next (s.replied s.blk 0x09 tag (.refused .busy))) ∧
      (ln.exchange.isRewrite = false → ln.state = .off →
        answer = .next (s.replied (s.blk.updLane l (fun ln => { ln with putDownByHold := false })) 0x09 tag (.done []))) ∧
      (ln.exchange.isRewrite = false → ln.state ≠ .off →
        answer = .next (s.answered down 0x09 tag (.done [])) ∧
        down.lane l = { ln with
          state := .off, item := none, exchange := .idle, session := none, putDownByHold := false, settleTimer := none, stallTimer := none, resumeTarget := none,
          lastCause := .putDown, sent := ln.sent ++ (ln.session.map (fun x => SentUnit.halt x.number)).toList,
          pacing := (down.lane l).pacing, gate := (down.lane l).gate } ∧
        (∀ j, j ≠ l → down.lane j = s.blk.lane j) ∧ down.pool = (s.blk.pool.withdraw l).release l ∧
        (∀ c, s.blk.sched.head l = some c → s.blk.campaign c.id = some c → (∀ it id, ln.item = some it → it.owner = .campaign id → id = c.id) →
          s.blk.Departs down l c false (fun x => if x.state = .held then x else { x with state := .held, heldCause := some .laneDown }))))

/-! ## Yields and their ends -/

/-- A YIELD ends or completes the work in hand (R60, R61): a lane that completes it goes to YIELDING with its stall timer stopped, as the model reads
R52 (log entry 24, DEDUCED); else the drive is given up at once: HALT is sent if a
session was open, then RELEASE; the lane is LENT with the resume target, the yield is counted, and the digest unit or claim is given back. A head campaign in OPENING, RUNNING or CLOSING, the lane's campaign item being its own (R96),
becomes YIELDED, and the visit of its frame is abandoned (R110). A lane whose exchange was completed first (R62) is LENT in the same way, its head YIELDED. -/
def Obligations.YieldLendsTheDrive : Prop :=
  let goes := fun x : Campaign => if x.state = .opening ∨ x.state = .running ∨ x.state = .closing then { x with state := .yielded } else x
  (∀ (s : State) (l : Fin 8) (crc : Word32), s.Idle → unitCrcGood 0x26 0 [] crc = true →
    let ln := s.blk.lane l
    let lent := s.blk.yieldDrive l
    let answer := exec (.yield l 0 [] crc) s
    let outstanding := (s.blk.pool.heldBy l).map (fun u => u.claim.recLength - u.received)
    let completes := ln.exchange.isRewrite = true ∨ (ln.exchange.openVisit ≠ none ∧ ∃ n, outstanding = some n ∧ n ≤ ln.settings.yieldAllowance * 1048576)
    (ln.state = .off ∨ ln.state = .yielding ∨ ln.state = .lent → answer = .next s) ∧
    (ln.state = .engaged → completes → answer = .next { s with blk := s.blk.updLane l (fun ln => { ln with state := .yielding, stallTimer := none }) }) ∧
    (ln.state = .settling ∨ ln.state = .ready ∨ ln.state = .calibrating ∨ ln.state = .stalled ∨ (ln.state = .engaged ∧ ¬completes) →
      answer = .next (s.after lent) ∧
      lent.lane l = { ln with
        state := .lent, item := none, exchange := .idle, session := none, settleTimer := none, stallTimer := none,
        resumeTarget := if ln.state = .settling ∨ ln.state = .stalled then some .settle else some .ready,
        yields := if ln.yields < 65535 then ln.yields + 1 else 65535, lastCause := .yield,
        sent := ln.sent ++ (ln.session.map (fun x => SentUnit.halt x.number)).toList ++ [.release],
        pacing := (lent.lane l).pacing, gate := (lent.lane l).gate } ∧
      (∀ j, j ≠ l → lent.lane j = s.blk.lane j) ∧ lent.pool = (s.blk.pool.withdraw l).release l ∧
      (∀ c, s.blk.sched.head l = some c → s.blk.campaign c.id = some c → (∀ it id, ln.item = some it → it.owner = .campaign id → id = c.id) →
        s.blk.Departs lent l c false goes))) ∧
  (∀ (b : Block) (l : Fin 8) (target : ResumeTarget),
    let ln := b.lane l
    let lent := b.toLent l target
    lent.lane l = { ln with
      state := .lent, item := none, session := none, settleTimer := none, stallTimer := none, resumeTarget := some target,
      yields := if ln.yields < 65535 then ln.yields + 1 else 65535, lastCause := .yield, sent := ln.sent ++ [.release] } ∧
    (∀ j, j ≠ l → lent.lane j = b.lane j) ∧ lent.pool = b.pool ∧
    (∀ c, b.sched.head l = some c → b.campaign c.id = some c → lent.campaign c.id = some (goes c) ∧ ∀ id, id ≠ c.id → lent.campaign id = b.campaign id))

/-- RESUME ends the loan (R63, R111): to READY with LANE_CHANGED cause RESUME, a YIELDED head WAITING again, the Repair Engine told and the arbiter asked; or, with resume target
SETTLE, into SETTLING with HELLO. In every other state it is ignored. -/
def Obligations.ResumeEndsTheLoan : Prop :=
  ∀ (s : State) (l : Fin 8) (crc : Word32), s.Idle → unitCrcGood 0x27 0 [] crc = true →
    let ln := s.blk.lane l
    let answer := exec (.resume l 0 [] crc) s
    (ln.state ≠ .lent → answer = .next s) ∧
    (ln.state = .lent → ln.resumeTarget = some .ready →
      let ready := s.blk.updLane l (fun ln => { ln with state := .ready, resumeTarget := none, lastCause := .resume })
      answer = .next (s.after ((((ready.raise (.laneChanged l .ready .resume ln.restarts)).headReturned l).enteredService l).ask l))) ∧
    (ln.state = .lent → ln.resumeTarget = some .settle →
      let settling := s.blk.updLane l (fun ln => { ln with
        state := .settling, item := none, session := none, helloTaken := false, settleExpired := false, settleTimer := some (s.blk.clock + ln.settings.settleWait * 1000),
        stallTimer := none, resumeTarget := none, lastCause := .resume, sent := ln.sent ++ [.hello] })
      answer = .next (({ s with blk := settling.headReturned l } : State).noticed (.laneChanged l .settling .resume ln.restarts))) ∧
    (∀ (b : Block) (c : Campaign), b.sched.head l = some c → b.headReturned l =
      if c.state = .yielded then { b with sched := b.sched.upd c.id (fun x => { x with state := .waiting }) } else b)

/-! ## Stall events and malformed units -/

/-- STALL_TIMER_EXPIRED (R52, R53, R54, R62): the clock stands at the timer's time (log entry 5) and a stall event is taken; with the timer stopped nothing changes (log entry 14). A
stall event is counted, stops both timers, ends the exchange and gives back the digest unit or claim; then the lane is LENT (from YIELDING), SETTLING with RESTART, OFF at the
fourth in a row, or STALLED with automatic restart off. The head campaign, the lane's campaign item being its own (R96), follows the lane: YIELDED, WAITING, or HELD with LANE_DOWN or STALL and
CAMPAIGN_CHANGED (R110, R112, R113). The frame in flight is counted first (R106): its first two stalls abandon the visit, and the third makes an UNREADABLE event. -/
def Obligations.StallEvents : Prop :=
  ∀ (s : State) (l : Fin 8), s.Idle →
    ((s.blk.lane l).stallTimer = none → exec (.stallTimerExpired l) s = .next s) ∧
    (∀ t, (s.blk.lane l).stallTimer = some t →
      exec (.stallTimerExpired l) s = .next (s.after (Block.stallEvent { s.blk with clock := max s.blk.clock t } l))) ∧
    (∀ b : Block,
      let ln := b.lane l
      let after := b.stallEvent l
      let kept : Lane := { ln with
        item := none, exchange := .idle, session := none, settleTimer := none, stallTimer := none,
        stallEvents := if ln.stallEvents < 65535 then ln.stallEvents + 1 else 65535, pacing := (after.lane l).pacing, gate := (after.lane l).gate }
      let halt := (ln.session.map (fun x => SentUnit.halt x.number)).toList
      let inSession := fun x : Campaign => x.state = .opening ∨ x.state = .running ∨ x.state = .closing
      let holds := fun (cause : HeldCause) (x : Campaign) => if x.state = .held then x else { x with state := .held, heldCause := some cause }
      after.pool = (b.pool.withdraw l).release l ∧ (∀ j, j ≠ l → after.lane j = b.lane j) ∧
      (ln.state = .yielding → after.lane l = { kept with
        state := .lent, resumeTarget := some .settle, yields := if ln.yields < 65535 then ln.yields + 1 else 65535, lastCause := .yield,
        sent := ln.sent ++ halt ++ [.release] }) ∧
      (ln.state ≠ .yielding → ln.settings.autoRestart = true → ln.restarts < 3 → after.lane l = { kept with
        state := .settling, restarts := ln.restarts + 1, helloTaken := false, settleExpired := false, resumeTarget := none,
        settleTimer := some (b.clock + ln.settings.settleWait * 1000), lastCause := .restart, sent := ln.sent ++ [.restart] }) ∧
      (ln.state ≠ .yielding → ln.settings.autoRestart = true → 3 ≤ ln.restarts → after.lane l = { kept with state := .off, lastCause := .noAnswer }) ∧
      (ln.state ≠ .yielding → ln.settings.autoRestart = false → after.lane l = { kept with
        state := .stalled, lastCause := .stall, sent := ln.sent ++ halt }) ∧
      (∀ c, b.sched.head l = some c → b.campaign c.id = some c → (∀ it id, ln.item = some it → it.owner = .campaign id → id = c.id) →
        (ln.state = .yielding → b.Departs after l c true (fun x => if inSession x then { x with state := .yielded } else x)) ∧
        (ln.state ≠ .yielding → ln.settings.autoRestart = true → ln.restarts < 3 →
          b.Departs after l c true (fun x => if inSession x then { x with state := .waiting } else x)) ∧
        (ln.state ≠ .yielding → ln.settings.autoRestart = true → 3 ≤ ln.restarts → b.Departs after l c true (holds .laneDown)) ∧
        (ln.state ≠ .yielding → ln.settings.autoRestart = false → b.Departs after l c true (holds .stall))))

/-- Units turned away (R46), of every type: UNKNOWN_UNIT_TYPE, and any reader unit with a bad CRC-32, a body of another form than its type's (R43, R45, R82, R211), a link unit with a session
number other than 0 and a session unit with 0, is malformed: a stall event in SETTLING, READY, ENGAGED, CALIBRATING and YIELDING, discarded in OFF, LENT and STALLED. A session unit that
passes these with another session's number is stale and changes nothing; that malformed is asked before stale is log entry 7's (DEDUCED). -/
def Obligations.UnitsTurnedAway : Prop :=
  ∀ (s : State) (l : Fin 8) (session : Byte) (body : List Byte) (crc : Word32), s.Idle →
    let malformed := Host.Outcome.next (φ := Fault) (ρ := Refusal) (s.after (s.blk.malformed l))
    let n := body.length
    let linkUnits : List (Byte × (Fin 8 → Byte → List Byte → Word32 → Instr) × Prop) :=
      [(0x01, .hello, n = 5 ∧ fieldAt body 0 1 ≤ 1 ∧ 1 ≤ fieldAt body 1 4 ∧ fieldAt body 1 4 ≤ 268435456), (0x26, .yield, n = 0), (0x27, .resume, n = 0)]
    let sessionUnits : List (Byte × (Fin 8 → Byte → List Byte → Word32 → Instr) × Prop) :=
      [(0x20, .header, n = 20), (0x21, .mark, n = 8), (0x10, .payload, 1 ≤ n ∧ n ≤ 65536), (0x11, .endUnit, n = 0), (0x22, .trailer, n = 12),
       (0x23, .notFound, n = 13 ∧ fieldAt body 0 1 ≤ 1), (0x24, .fault, n = 5),
       (0x25, .annotation, n = fieldAt body 1 1 + 4 ∧ fieldAt body 1 1 ≤ 60 ∧ 0x10 ≤ fieldAt body 0 1 ∧ fieldAt body 0 1 ≤ 0xFE),
       (0x28, .rewriteDone, n = 4), (0x29, .rewriteFailed, n = 4)]
    (∀ type, type ∉ readerTypes → exec (.unknownUnitType l type session body crc) s = malformed) ∧
    (∀ type unit good, (type, unit, good) ∈ linkUnits → unitCrcGood type session body crc = false ∨ session ≠ 0 ∨ ¬good → exec (unit l session body crc) s = malformed) ∧
    (∀ type unit good, (type, unit, good) ∈ sessionUnits →
      (unitCrcGood type session body crc = false ∨ session = 0 ∨ ¬good → exec (unit l session body crc) s = malformed) ∧
      (unitCrcGood type session body crc = true → session ≠ 0 → good → (s.blk.lane l).sessionNumber ≠ session.toNat → exec (unit l session body crc) s = .next s)) ∧
    (∀ b : Block, b.malformed l =
      if (b.lane l).state = .off ∨ (b.lane l).state = .lent ∨ (b.lane l).state = .stalled then b else b.stallEvent l)

/-! ## Annotation Capture -/

/-- SET CAPTURE (R89): RANGE for a slot, selector, kind or mark outside its values; taken, the slot has the programming of the body and is empty. -/
def Obligations.SetCaptureReplaces : Prop :=
  ∀ (s : State) (tag : Byte) (body : List Byte), s.Takes 0x0D tag body →
    let selector := fieldAt body 1 1
    let kind := fieldAt body 2 1
    let keep := fieldAt body 3 1
    let notify := fieldAt body 5 1
    let inRange := (selector < 8 ∨ selector = 0xFF) ∧ (kind = 0 ∨ (0x10 ≤ kind ∧ kind ≤ 0xFE)) ∧ keep ≤ 1 ∧ notify ≤ 1
    (16 ≤ fieldAt body 0 1 ∨ ¬inRange → exec (.setCapture tag body) s = .next (s.replied s.blk 0x0D tag (.refused .range))) ∧
    (∀ k, slotOf (fieldAt body 0 1) = some k → inRange →
      let programmed : CaptureSlot :=
        { selector := if selector = 0xFF then none else laneOf selector, kind := if kind = 0 then none else some (BitVec.ofNat 8 kind), keepFaulty := keep == 1,
          window := fieldAt body 4 1, notify := notify == 1, content := none, seen := false, faulty := false, lastLane := none, timer := none }
      exec (.setCapture tag body) s = .next (s.replied { s.blk with capture := s.blk.capture.set k.val programmed k.isLt } 0x0D tag (.done [])))

/-- ANNOTATION (R52, R82, R84, R86, R87, R105), with its unit checks passed: every slot of its kind and lane takes it, as sound or as failed by its own check, and the others stay; a slot that takes
it as sound with notify on raises CAPTURE_SEEN; the stall timer of an exchange in flight starts again. One that fails its check in a campaign's session hands the campaign an ANNOTATION event:
not recognised, nothing more changes; recognised, it is logged with the annotation's kind and the session's span, or made pending; on CONTINUE the exchange goes on; on HALT, or with its
finding pending, the session is ended and the campaign HELD, its counts and resume point as they were. FRESHNESS_TIMER_EXPIRED (R88) clears SEEN, the clock standing at the timer's time
(log entry 5); with the timer stopped it changes nothing (log entry 14). -/
def Obligations.AnnotationsAreCaptured : Prop :=
  (∀ (s : State) (l : Fin 8) (session : Byte) (body : List Byte) (crc : Word32) (kind : Byte) (content : List Byte) (check : Word16),
    s.Hears l 0x25 session body crc → s.blk.told → parseAnnotation body = some (kind, content, check) →
    let answer := exec (.annotation l session body crc) s
    let passed := annotationCheck kind content = check
    let matched := fun k : Fin 16 => (s.blk.capture[k]).kind = some kind ∧ ((s.blk.capture[k]).selector = none ∨ (s.blk.capture[k]).selector = some l)
    let slot := fun k : Fin 16 =>
      let c := s.blk.capture[k]
      if matched k then
        if passed then { c with content := some content, seen := true, faulty := false, lastLane := some l,
                                timer := if c.window = 0 then c.timer else some (s.blk.clock + c.window * 1000000) }
        else if c.keepFaulty then { c with content := some content, lastLane := some l, faulty := true }
        else { c with faulty := true }
      else c
    let seen := (allSlots.filter (fun k => decide (matched k ∧ passed ∧ (s.blk.capture[k]).notify = true))).map (fun k => Notice.captureSeen k l kind content)
    let limit := some (s.blk.clock + (s.blk.lane l).settings.stallLimit * 500000)
    let captured := { s.blk.updLane l (fun x => { x with stallTimer := match x.exchange with | .idle => x.stallTimer | .rewrite _ false => x.stallTimer | _ => limit }) with
      capture := Vector.ofFn slot, port := { s.blk.port with raised := seen } }
    (passed ∨ (∀ id, (s.blk.lane l).owner ≠ some (.campaign id)) → answer = .next (s.after captured)) ∧
    (∀ id c reel span, ¬passed → (s.blk.lane l).owner = some (.campaign id) → (s.blk.lane l).span = some (reel, span) → s.blk.campaign id = some c →
      let d := s.blk.recorder.judge c.profile c.disregard FindingClass.annotation.set
      let logs := s.blk.recorder.logsNow
      ∃ (b : Block) (c' : Campaign), answer = .next (s.after b) ∧ b.capture = captured.capture ∧ b.campaign id = some c' ∧
        c'.counts = c.counts ∧ c'.resumePoint = c.resumePoint ∧ c'.frameRestarts = c.frameRestarts ∧ c'.noted = c.noted ||| d.noted ∧
        (d.recognised = 0 → b.recorder = s.blk.recorder) ∧
        (d.recognised = 0 ∨ (d.outcome = .goOn ∧ logs = true) → b.lanes = captured.lanes ∧ b.pool = s.blk.pool ∧ b.store = s.blk.store ∧ c'.state = c.state) ∧
        (d.recognised ≠ 0 → b.recorder.flags = s.blk.recorder.flags ||| d.noted ∧
          (logs = true → ∃ f, b.recorder.log.getLast? = some f ∧ f.sequence = some s.blk.recorder.nextSequence ∧ f.cls = .annotation ∧ f.annotation = some kind ∧
            f.reel = reel ∧ f.span = span ∧ f.campaign = c.id ∧ f.lane = c.lane ∧ f.slot = c.slot ∧ f.frame = none ∧ f.verdict = none) ∧
          (logs = false → ∃ p, b.recorder.pending = s.blk.recorder.pending ++ [p] ∧ p.finding.annotation = some kind ∧ p.enqueued = false ∧ c'.pendingFinding = true)) ∧
        (d.outcome = .halt ∨ (d.recognised ≠ 0 ∧ logs = false) → c'.state = .held ∧ c'.heldCause = some (if logs then .finding else .logFull) ∧
          (b.lane c.lane).owner ≠ some (.campaign id) ∧ (c.lane = l → (b.lane l).session = none ∧ (b.lane l).exchange = .idle)))) ∧
  (∀ (s : State) (k : Fin 16), s.Idle →
    let c := s.blk.capture[k]
    (c.timer = none → exec (.freshnessTimerExpired k) s = .next s) ∧
    (∀ t, c.timer = some t → exec (.freshnessTimerExpired k) s = .next { s with blk := { s.blk with
      clock := max s.blk.clock t, capture := s.blk.capture.set k.val { c with seen := false, timer := none } k.isLt } }))

/-! ## Reads -/

/-- The reads change nothing but the queues of the port (R67, R90, R120, R144, R145, R176, R195): each is refused outside its ranges and otherwise answers the values that stand, in the order of its
rule. The layouts of composite values, the count before a list and the unit of a calibration's first-PAYLOAD time are log entry 9's, a number too large for its field is log entry 3's; the
highest acknowledged sequence of READ FINDINGS' summary is log entry 17's; in READ DUTY, the two values of a pacing record whose first exchange is in flight, and its gate, are log entry 4's,
and the two bytes of a frame count log entry 10's. Of a source fetch READ SUSPECTS gives the bytes written into the entry's extents, at most the recorded length, in both counts (log entry 9). -/
def Obligations.ReadsChangeNothing : Prop :=
  ∀ (s : State) (tag : Byte) (body : List Byte),
    let on := fun x : Bool => if x then (0x01 : Byte) else 0x00
    (s.Takes 0x0C tag body →
      (8 ≤ fieldAt body 0 1 → exec (.readLane tag body) s = .next (s.replied s.blk 0x0C tag (.refused .range))) ∧
      (∀ l, laneOf (fieldAt body 0 1) = some l →
        let ln := s.blk.lane l
        let values := [ln.state.code, ln.lastCause.code] ++ (match ln.state, ln.resumeTarget with | .lent, some t => [t.code] | _, _ => []) ++
          beBytes 2 ln.settings.settleWait ++ [BitVec.ofNat 8 ln.settings.stallLimit, on ln.settings.autoRestart, BitVec.ofNat 8 ln.settings.yieldAllowance,
            on ln.settings.keepAlive] ++ beBytes 2 ln.settings.ceiling ++ optBytes 5 (ln.caps.map (fun c => on c.rewritable :: beBytes 4 c.largest)) ++
          [BitVec.ofNat 8 ln.restarts] ++ beBytes 2 ln.stallEvents ++ beBytes 2 ln.yields ++
          (if ln.state = .settling then [on ln.helloTaken, on ln.settleExpired] else []) ++ optBytes 16 (ln.session.map Session.bytes) ++
          optBytes 32 (ln.item.map (fun it => it.bytes ++ ln.exchange.bytes)) ++ s.blk.pool.claimBytes l ++ [on ln.putDownByHold]
        exec (.readLane tag body) s = .next (s.replied s.blk 0x0C tag (.done values)))) ∧
    (s.Takes 0x0E tag body →
      let first := fieldAt body 0 1
      let count := fieldAt body 1 1
      let inRange := first ≤ 15 ∧ 1 ≤ count ∧ count ≤ 8 ∧ first + count ≤ 16
      let values := fun c : CaptureSlot => [laneByte c.selector, c.kind.getD 0x00, on c.keepFaulty, BitVec.ofNat 8 c.window, on c.notify, on c.seen, on c.faulty,
        laneByte c.lastLane, BitVec.ofNat 8 (secondsLeft s.blk.clock c.timer)] ++ (match c.content with | some bs => [0x01, BitVec.ofNat 8 bs.length] ++ bs | none => [0x00, 0x00])
      (¬inRange → exec (.readCapture tag body) s = .next (s.replied s.blk 0x0E tag (.refused .range))) ∧
      (inRange → ∃ items results, exec (.readCapture tag body) s = .next (s.replied s.blk 0x0E tag (.done results)) ∧ ListReply [] items results ∧ items.length = count ∧
        ∀ k : Fin 16, first ≤ k.val → k.val < first + count → items[k.val - first]? = some (values s.blk.capture[k]))) ∧
    (s.Takes 0x14 tag body →
      let answer := fun rep => exec (.readCampaign tag body) s = .next (s.replied s.blk 0x14 tag rep)
      let listed := s.blk.sched.table.map (fun c => beBytes 2 c.id ++ [BitVec.ofNat 8 c.lane.val, BitVec.ofNat 8 c.slot.val, c.state.code])
      (fieldAt body 0 2 = 0 → ∃ results, answer (.done results) ∧ ListReply [] listed results) ∧
      (fieldAt body 0 2 ≠ 0 → s.blk.campaign (fieldAt body 0 2) = none → answer (.refused .absent)) ∧
      (∀ c, fieldAt body 0 2 ≠ 0 → s.blk.campaign (fieldAt body 0 2) = some c →
        let item := (s.blk.lane c.lane).item.map Item.owner
        let values := beBytes 2 c.id ++ [BitVec.ofNat 8 c.lane.val, BitVec.ofNat 8 c.slot.val] ++ beBytes 4 c.windowFirst ++ beBytes 4 c.windowLast ++
          [BitVec.ofNat 8 c.step, c.profile.byte] ++ beBytes 2 c.disregard.toNat ++ [c.state.code] ++ resumeBytes c.resumePoint ++ beBytes 2 c.counts.sound ++
          beBytes 2 c.counts.damaged ++ beBytes 2 c.counts.missized ++ beBytes 2 c.counts.uncomparable ++ beBytes 2 c.counts.skipped ++
          [BitVec.ofNat 8 c.frameRestarts] ++ beBytes 2 c.noted.toNat ++
          optBytes 3 (c.haltCode.map (fun h => BitVec.ofNat 8 h.cls.number :: beBytes 2 h.recognised.toNat)) ++ optBytes 1 (c.heldCause.map (fun h => [h.cause.code])) ++
          optBytes 1 (c.endCause.map (fun e => [e.cause.code])) ++ [on c.pendingFinding, on c.waiver, on c.trailerChecked,
            BitVec.ofNat 8 (placeOf (fun d => d.id == c.id) (s.blk.sched.queue c.lane))] ++ beBytes 2 c.stillToVisit ++
          (if item = some (.campaign c.id) then (s.blk.lane c.lane).exchange else .idle).bytes
        answer (.done values))) ∧
    (s.Takes 0x18 tag body →
      let start := fieldAt body 0 4
      let count := fieldAt body 4 1
      let found := (s.blk.recorder.log.filter (fun f => decide (start ≤ f.seq))).take count
      let answer := fun rep => exec (.readFindings tag body) s = .next (s.replied s.blk 0x18 tag rep)
      (¬(1 ≤ count ∧ count ≤ 16) → answer (.refused .range)) ∧
      (1 ≤ count → count ≤ 16 → answer (.done (s.blk.recorder.summary found.length ++ (found.map Finding.bytes).flatten)))) ∧
    (s.Takes 0x1C tag body →
      let r := s.blk.recorder
      let profile := fun p : Profile => FindingClass.all.map (fun c => on (ClassSet.has p.halts c)) ++ [on p.enqueue, on p.rewrite]
      exec (.readFlags tag body) s = .next (s.replied s.blk 0x1C tag (.done
        (beBytes 2 r.flags.toNat ++ [BitVec.ofNat 8 r.defaultProfile.val] ++ (r.profiles.toList.map profile).flatten)))) ∧
    (s.Takes 0x22 tag body →
      let first := fieldAt body 0 1
      let count := fieldAt body 1 1
      let inRange := 1 ≤ first ∧ first ≤ 128 ∧ 1 ≤ count ∧ count ≤ 16
      let answer := fun rep => exec (.readSuspects tag body) s = .next (s.replied s.blk 0x22 tag rep)
      let list := s.blk.repair.list
      let contexts := s.blk.repair.freeContexts
      let summary := [BitVec.ofNat 8 list.length] ++
        [RepairPhase.waiting, .fetching, .staged, .rewriting, .readback].map (fun p => BitVec.ofNat 8 (list.countP (fun e => e.phase == p))) ++
        [BitVec.ofNat 8 contexts.length] ++ contexts.map (fun i => BitVec.ofNat 8 i.val) ++ [BitVec.ofNat 8 s.blk.repair.freeExtents.length, on s.blk.repair.rewriteEnabled]
      (¬inRange → answer (.refused .range)) ∧
      (inRange → ∃ items results, answer (.done results) ∧ ListReply summary items results ∧ items.length = min count (list.length - (first - 1)) ∧
        ∀ i e, i < count → list[first - 1 + i]? = some e → items[i]? = some (s.blk.entryBytes (first + i) e))) ∧
    (∀ (b : Block) (position : Nat) (e : Entry) (l : Fin 8) (i : Fin 4) (u : DigestUnit) (f : FrameExchange), e.phase = .fetching → e.stepLane = some l →
      b.pool.unitOf l = some i → b.pool.heldBy l = some u → (b.lane l).exchange = .frame f → b.store.recordedLength e.key.slot e.key.frame = u.claim.recLength →
      let written := min u.received u.claim.recLength
      let shown := Exchange.frame { f with soFar := min f.soFar u.claim.recLength }
      ∃ fields, b.entryBytes position e = fields ++ [0x01, BitVec.ofNat 8 l.val] ++ shown.bytes ++ [BitVec.ofNat 8 (b.entryNeed e)] ++
        [0x02, BitVec.ofNat 8 i.val, if u.running then 0x02 else 0x01, u.claim.kind.code] ++ beBytes 4 u.claim.frame ++ beBytes 4 u.claim.recLength ++
        beBytes 4 written ++ beBytes 4 (u.claim.recLength - u.received)) ∧
    (s.Takes 0x2D tag body →
      let b := s.blk
      let d := b.duty
      let time := fun t : Nat => beField 8 (t - b.epoch)
      let lane := fun l : Fin 8 =>
        let ln := b.lane l
        let gate := match ln.gate with | some t => if t ≤ b.clock then none else some (beField 4 ((t - b.clock + 999) / 1000)) | none => none
        let pacing := fun p : Pacing => time p.fetchAt ++ (match p.ended with
          | some (bytes, endAt) => beBytes 4 bytes ++ time endAt
          | none => beBytes 4 (Config.unendedPacing p.fetchAt).1 ++ beBytes 8 (Config.unendedPacing p.fetchAt).2)
        let run := fun c : Calibration => [BitVec.ofNat 8 c.session] ++ optBytes 4 (c.firstAt.map (fun t => beField 4 (t - b.epoch))) ++ beBytes 4 c.bytes
        let last := fun e : CalibrationEnd => match e with
          | .done t ceiling => [0x00] ++ beField 4 t ++ beBytes 2 ceiling ++ [0x00]
          | .aborted cause => [0x01, 0x00, 0x00, 0x00, 0x00, 0x00, 0x00, cause.code]
        beBytes 2 ln.settings.ceiling ++ optBytes 2 ((d.effectiveCeiling l ln.settings.ceiling).map (beBytes 2)) ++ optBytes 4 gate ++ optBytes 20 (ln.pacing.map pacing) ++
          [on (d.mayRun l), on ln.putDownByHold] ++ optBytes 10 ((d.calibration[l]).map run) ++ optBytes 8 ((d.lastCalibration[l]).map last)
      exec (.readDuty tag body) s = .next (s.replied b 0x2D tag (.done ([d.mode.code, d.wake.code] ++ beBytes 4 (secondsLeft b.clock d.holdTimer) ++
        [BitVec.ofNat 8 d.share] ++ d.eligible.toList.map on ++ [on d.repairsInShared] ++ (allLanes.map lane).flatten))))

/-! ## Campaigns -/

/-- VERIFY (R16, R92, R94, R95, R96): refused RANGE, ABSENT, STATE, RANGE, OVERLAP and ROOM in that order; accepted, the entry joins the table with the starting values, the next-id
counter moves past its id, the manifest takes a campaign pin, the reply gives the id and the place in the queue, and the head's arbiter is asked. -/
def Obligations.VerifyAccepts : Prop :=
  ∀ (s : State) (tag : Byte) (body : List Byte), s.Takes 0x10 tag body →
    let first := fieldAt body 2 4
    let last := fieldAt body 6 4
    let step := fieldAt body 10 1
    let profile := fieldAt body 11 1
    let disregard := fieldAt body 12 2
    let fieldsGood := fieldAt body 0 1 < 8 ∧ fieldAt body 1 1 < 16 ∧ 1 ≤ step ∧ step ≤ 16 ∧ (profile < 4 ∨ profile = 0xFF) ∧
      disregard < 512 ∧ ∀ c : FindingClass, ClassSet.has (BitVec.ofNat 9 disregard) c = true → c = .long ∨ c = .stray ∨ c = .missing ∨ c = .rollup ∨ c = .annotation
    let refused := fun r => exec (.verify tag body) s = .next (s.replied s.blk 0x10 tag (.refused r))
    (¬fieldsGood → refused .range) ∧
    (∀ l k, laneOf (fieldAt body 0 1) = some l → slotOf (fieldAt body 1 1) = some k → fieldsGood →
      (s.blk.store.manifest k = none → refused .absent) ∧
      (∀ m, s.blk.store.manifest k = some m →
        let window := first ≤ last ∧ m.first ≤ first ∧ last < m.first + m.count
        let overlap := ∃ d ∈ s.blk.sched.table, d.state.active = true ∧ d.slot = k ∧ first ≤ d.windowLast ∧ d.windowFirst ≤ last
        (m.state ≠ .ready → refused .state) ∧
        (m.state = .ready → ¬window → refused .range) ∧
        (m.state = .ready → window → overlap → refused .overlap) ∧
        (m.state = .ready → window → ¬overlap → 24 ≤ s.blk.sched.table.length → refused .room) ∧
        (m.state = .ready → window → ¬overlap → s.blk.sched.table.length < 24 →
          let id := s.blk.sched.freeId 25 s.blk.sched.nextId
          let c : Campaign :=
            { id := id, lane := l, slot := k, windowFirst := first, windowLast := last, step := step,
              profile := if profile = 0xFF then .current else .numbered (Fin.ofNat 4 profile), disregard := BitVec.ofNat 9 disregard, state := .waiting,
              resumePoint := some first, counts := { sound := 0, damaged := 0, missized := 0, uncomparable := 0, skipped := 0 }, frameRestarts := 0, noted := 0,
              haltCode := none, heldCause := none, endCause := none, pendingFinding := false, waiver := false, trailerChecked := false }
          let table := s.blk.sched.table ++ [c]
          let place := placeOf (fun d => d.id == id) (table.filter (fun d => d.lane == l && d.state.active))
          exec (.verify tag body) s = .next (s.answered { s.blk with
            sched := { table := table, nextId := if id < 65535 then id + 1 else 1 }
            store := { s.blk.store with slots := s.blk.store.slots.set k.val (some { m with campaignPins := m.campaignPins + 1 }) k.isLt }
            asks := if place = 1 then [l] else [] } 0x10 tag (.done (beBytes 2 id ++ beBytes 1 place))) ∧
          (s.blk.sched.find s.blk.sched.nextId = none → id = s.blk.sched.nextId))))

/-- RESUME CAMPAIGN (R97, R117): refused ABSENT, STATE and BUSY; a HELD campaign whose trailer is checked is DONE and gives its pin back, any other is WAITING, with the identity waiver
when an IDENTITY halt is released; CAMPAIGN_CHANGED is raised and the arbiter asked. -/
def Obligations.ResumeCampaignReleases : Prop :=
  ∀ (s : State) (tag : Byte) (body : List Byte), s.Takes 0x11 tag body →
    let refused := fun r => exec (.resumeCampaign tag body) s = .next (s.replied s.blk 0x11 tag (.refused r))
    (s.blk.campaign (fieldAt body 0 2) = none → refused .absent) ∧
    (∀ c, s.blk.campaign (fieldAt body 0 2) = some c →
      (c.state ≠ .held → refused .state) ∧
      (c.state = .held → c.heldCause = some .logFull → refused .busy) ∧
      (c.state = .held → c.heldCause ≠ some .logFull → c.trailerChecked = true →
        let b := { s.blk with
          sched := s.blk.sched.upd c.id (fun x => { x with state := .done, endCause := none, heldCause := none })
          store := s.blk.store.updManifest c.slot (fun m => { m with campaignPins := m.campaignPins - 1 }) }
        exec (.resumeCampaign tag body) s = .next (s.answered ((b.raise (.campaignChanged c.id c.lane c.slot .done .resumed c.resumePoint c.counts)).ask c.lane)
          0x11 tag (.done [CampaignState.done.code]))) ∧
      (c.state = .held → c.heldCause ≠ some .logFull → c.trailerChecked = false →
        let identity := c.heldCause = some .finding ∧ c.haltCode.map HaltCode.cls = some .identity
        let b := { s.blk with sched := s.blk.sched.upd c.id (fun x => { x with state := .waiting, heldCause := none, waiver := x.waiver || decide identity }) }
        exec (.resumeCampaign tag body) s = .next (s.answered ((b.raise (.campaignChanged c.id c.lane c.slot .waiting .resumed c.resumePoint c.counts)).ask c.lane)
          0x11 tag (.done [CampaignState.waiting.code]))))

/-- ABANDON CAMPAIGN and DISMISS CAMPAIGN (R97, R118, R119): an active campaign is ENDED with cause ABANDONED, its other values kept; it gives its campaign pin back (R16) and raises
CAMPAIGN_CHANGED with its values last (R121), its open session ended first; a dismissed entry leaves the table. -/
def Obligations.CampaignsLeaveTheTable : Prop :=
  (∀ (s : State) (tag : Byte) (body : List Byte), s.Takes 0x12 tag body →
    let refused := fun r => exec (.abandonCampaign tag body) s = .next (s.replied s.blk 0x12 tag (.refused r))
    (s.blk.campaign (fieldAt body 0 2) = none → refused .absent) ∧
    (∀ c, s.blk.campaign (fieldAt body 0 2) = some c →
      (c.state = .done ∨ c.state = .ended → refused .state) ∧
      (c.state ≠ .done → c.state ≠ .ended →
        let quietly := s.blk.campaignEndsSession c
        let ended := quietly.closeCampaign c.id .ended (some .abandoned) .abandoned
        exec (.abandonCampaign tag body) s = .next (s.answered ended 0x12 tag (.done [])) ∧
        ((s.blk.lane c.lane).owner ≠ some (.campaign c.id) → quietly = s.blk) ∧
        ((s.blk.lane c.lane).owner = some (.campaign c.id) → (ended.lane c.lane).session = none ∧ (ended.lane c.lane).exchange = .idle) ∧
        (∀ d, quietly.campaign c.id = some d → ended.campaign c.id = some { d with state := .ended, endCause := some .abandoned, heldCause := none }) ∧
        ended.campaign c.id = some { c with state := .ended, endCause := some .abandoned, heldCause := none } ∧
        (ended.store.manifest c.slot).map Manifest.campaignPins = (s.blk.store.manifest c.slot).map (fun m => m.campaignPins - 1) ∧
        ended.port.raised.getLast? = some (.campaignChanged c.id c.lane c.slot .ended .abandoned c.resumePoint c.counts)))) ∧
  (∀ (s : State) (tag : Byte) (body : List Byte), s.Takes 0x13 tag body →
    let refused := fun r => exec (.dismissCampaign tag body) s = .next (s.replied s.blk 0x13 tag (.refused r))
    (s.blk.campaign (fieldAt body 0 2) = none → refused .absent) ∧
    (∀ c, s.blk.campaign (fieldAt body 0 2) = some c →
      (c.pendingFinding = true → refused .busy) ∧
      (c.pendingFinding = false → c.state ≠ .done → c.state ≠ .ended → refused .state) ∧
      (c.pendingFinding = false → c.state = .done ∨ c.state = .ended →
        exec (.dismissCampaign tag body) s = .next (s.replied { s.blk with
          sched := { s.blk.sched with table := s.blk.sched.table.filter (fun d => d.id != c.id) } } 0x13 tag (.done [])))))

/-! ## Carriage units of an open session -/

/-- HEADER (R51, R73, R99, R159, R164, R169) of the open session: malformed when no opening exchange is in flight. A campaign whose manifest the header agrees with, or that has the
identity waiver, is RUNNING, and its item has its answer: the lane is READY, or gives the drive up if YIELDING, or ends the session if a duty change has stopped the item; otherwise
an IDENTITY event is made. A repair step that agrees claims a digest unit or sends REWRITE, and one that disagrees ends its session and counts a failed attempt. An IDENTITY event (R99, R100,
R115, R116) ends the campaign's session; under NOTE the campaign is ENDED with cause IDENTITY and gives its pin back, under HALT it is HELD with the halt code; it raises
CAMPAIGN_CHANGED. A step ended without its answer (R161, R162, R165, R167, R169, R173, R174): a source fetch counts a failed attempt after a stall or a put-down and goes back to WAITING after a yield
or a duty change; a rewrite in flight is interrupted and failed; a rewrite step before REWRITE goes back to STAGED and is tested at once; a read-back waits to be repeated. -/
def Obligations.HeaderOpens : Prop :=
  (∀ (s : State) (l : Fin 8) (session : Byte) (body : List Byte) (crc : Word32) (reel : Word64) (span : Word32) (first count : Nat),
    s.Hears l 0x20 session body crc → parseHeader body = some (reel, span, first, count) →
    let ln := s.blk.lane l
    let answer := exec (.header l session body crc) s
    let ended := s.blk.dropExchange l
    let agrees := fun m : Manifest => m.reel = reel ∧ m.span = span ∧ m.first = first ∧ m.count = count
    (ln.exchange ≠ .opening → answer = .next (s.after (s.blk.malformed l))) ∧
    (∀ id c m item, ln.exchange = .opening → ln.owner = some (.campaign id) → s.blk.campaign id = some c → s.blk.store.manifest c.slot = some m → ln.item = some item →
      let running := ended.updCampaign id (fun x => { x with state := .running, waiver := false })
      (c.waiver = true ∨ agrees m →
        (ln.state = .yielding → answer = .next (s.after ((running.haltSession l).toLent l .ready))) ∧
        (ln.state ≠ .yielding → item.stopping = true → answer = .next (s.after (((running.haltSession l).headTo l .waiting).toReady l))) ∧
        (ln.state ≠ .yielding → item.stopping = false → answer = .next (s.after ((running.toReady l).chooseNext id)))) ∧
      (c.waiver = false → ¬agrees m → answer = .next (s.after (ended.identityEvent id)))) ∧
    (∀ k e m, ln.exchange = .opening → ln.owner = some (.entry k) → s.blk.repair.find k = some e → s.blk.store.manifest k.slot = some m →
      (agrees m → ln.stopping = false →
        (e.phase = .fetching → answer = .next (s.after (ended.claimForEntry l k .sourceFetch))) ∧
        (e.phase = .readback → answer = .next (s.after (ended.claimForEntry l k .readback))) ∧
        (e.phase = .rewriting → answer = .next (s.after
          (ended.updLane l (fun x => { x with
            exchange := .rewrite k.frame false, sent := x.sent ++ [.rewrite ln.sessionNumber k.frame (s.blk.store.recordedLength k.slot k.frame)] }))))) ∧
      (agrees m → ln.stopping = true → answer = .next (s.after ((ended.endOwner l).stepEnded k .idle .duty))) ∧
      (¬agrees m → e.phase = .fetching → answer = .next (s.after ((s.blk.endOwner l).sourceFailed k))) ∧
      (¬agrees m → e.phase = .rewriting ∨ e.phase = .readback → answer = .next (s.after ((s.blk.endOwner l).rewriteFailed k))))) ∧
  (∀ (b : Block) (id : Nat) (c : Campaign), b.campaign id = some c →
    let d := b.recorder.judge c.profile c.disregard FindingClass.identity.set
    let after := b.identityEvent id
    let told := fun (st : CampaignState) (cause : CampaignCause) => after.port.raised.getLast? = some (.campaignChanged c.id c.lane c.slot st cause c.resumePoint c.counts)
    d.outcome ≠ .goOn → ∃ c', after.campaign id = some c' ∧ c'.counts = c.counts ∧ c'.resumePoint = c.resumePoint ∧ c'.noted = c.noted ||| d.noted ∧
      (after.lane c.lane).owner ≠ some (.campaign id) ∧ after.recorder.flags = b.recorder.flags ||| d.noted ∧
      (b.recorder.logsNow = true → after.recorder.nextSequence = b.recorder.nextSequence + 1 ∧ ∃ f, after.recorder.log.getLast? = some f ∧ f.sequence = some b.recorder.nextSequence ∧
        f.cls = .identity ∧ f.recognised = FindingClass.identity.set ∧ f.campaign = c.id ∧ f.lane = c.lane ∧ f.slot = c.slot ∧ f.frame = none ∧ f.verdict = none) ∧
      (b.recorder.logsNow = false → c'.pendingFinding = true ∧ ∃ p, after.recorder.pending = b.recorder.pending ++ [p] ∧ p.enqueued = false) ∧
      (d.outcome = .finish → c'.state = .ended ∧ c'.endCause = some .identity ∧ c'.heldCause = none ∧ c'.haltCode = c.haltCode ∧ told .ended .identity ∧
        (after.store.manifest c.slot).map Manifest.campaignPins = (b.store.manifest c.slot).map (fun m => m.campaignPins - 1)) ∧
      (d.outcome = .halt → c'.state = .held ∧ c'.heldCause = some (if b.recorder.logsNow then .finding else .logFull) ∧
        c'.haltCode = some { cls := .identity, recognised := FindingClass.identity.set } ∧ told .held (if b.recorder.logsNow then .finding else .logFull) ∧
        (after.store.manifest c.slot).map Manifest.campaignPins = (b.store.manifest c.slot).map Manifest.campaignPins)) ∧
  (∀ (b : Block) (k : EntryKey) (e : Entry) (x : Exchange) (why : Departure), b.repair.find k = some e →
    let after := b.stepEnded k x why
    (e.phase = .fetching → why = .stall ∨ why = .putDown → after = b.sourceFailed k) ∧
    (e.phase = .fetching → why = .yield ∨ why = .duty → after = b.entryToWaiting k) ∧
    (∀ frame sent, e.phase = .rewriting → x = .rewrite frame sent → after = (b.updEntry k (fun y => { y with interrupted := true })).rewriteFailed k) ∧
    (e.phase = .rewriting → (∀ frame sent, x ≠ .rewrite frame sent) → after = (b.updEntry k (fun y => { y with phase := .staged, stepLane := none })).rewriteTest k) ∧
    (e.phase = .readback → after = b.updEntry k (fun y => { y with stepLane := none })) ∧
    (e.phase = .waiting ∨ e.phase = .staged → after = b))

/-- MARK (R33, R36, R59, R71, R75) of the open session: in AWAITING_MARK, with a length the reader's largest frame admits (and of 1 to 268,435,456 bytes: log entry 8, DEDUCED), the fetched frame's number starts the frame and its digest
unit, and another number starts the draining, releases the unit and gives the owner a SUBSTITUTED result with the bytes the unit received; a longer frame, or a MARK at any other time, is malformed. -/
def Obligations.MarkBegins : Prop :=
  ∀ (s : State) (l : Fin 8) (session : Byte) (body : List Byte) (crc : Word32) (n length : Nat),
    s.Hears l 0x21 session body crc → parseMark body = some (n, length) →
    let ln := s.blk.lane l
    let answer := exec (.mark l session body crc) s
    let admitted := ∃ c, ln.caps = some c ∧ 1 ≤ length ∧ length ≤ 268435456 ∧ length ≤ c.largest
    let limit := some (s.blk.clock + ln.settings.stallLimit * 500000)
    ((∀ f, ln.exchange = .frame f → f.phase ≠ .awaitingMark) → answer = .next (s.after (s.blk.malformed l))) ∧
    (∀ f, ln.exchange = .frame f → f.phase = .awaitingMark →
      (¬admitted → answer = .next (s.after (s.blk.malformed l))) ∧
      (admitted → n = f.fetched →
        let frame := Exchange.frame { f with phase := .receiving, delivered := some n, announced := some length }
        answer = .next (s.after { s.blk.updLane l (fun x => { x with exchange := frame, stallTimer := limit }) with
          pool := s.blk.pool.updHeld l (fun u => { u with running := true }) })) ∧
      (admitted → n ≠ f.fetched →
        let frame := Exchange.frame { f with phase := .draining, delivered := some n, announced := some length }
        let draining := { s.blk.updLane l (fun x => { x with exchange := frame, stallTimer := limit }) with pool := s.blk.pool.release l }
        (∀ u id, s.blk.pool.heldBy l = some u → ln.owner = some (.campaign id) →
          answer = .next (s.after (draining.campaignResult id f.fetched (.substituted u.received n) true))) ∧
        (∀ u k, s.blk.pool.heldBy l = some u → ln.owner = some (.entry k) →
          answer = .next (s.after (draining.repairResult l k (.substituted u.received n))))))

/-- PAYLOAD (R33, R77, R79, R81, R155, R159, R193) of the open session: bytes that fit the announced length of the frame are counted, the unit digests those inside the recorded
length and a source fetch stages them; a draining only counts them; a calibration run counts them and keeps the time of the first. Each starts the stall timer again. More
bytes than announced, or a PAYLOAD at any other time, are malformed. -/
def Obligations.PayloadTaken : Prop :=
  ∀ (s : State) (l : Fin 8) (session : Byte) (body : List Byte) (crc : Word32), s.Hears l 0x10 session body crc → parsePayload body = some body →
    let ln := s.blk.lane l
    let n := body.length
    let answer := exec (.payload l session body crc) s
    let malformed := answer = .next (s.after (s.blk.malformed l))
    let limit := some (s.blk.clock + ln.settings.stallLimit * 500000)
    let taken := fun x : Exchange => s.blk.updLane l (fun ln => { ln with exchange := x, stallTimer := limit })
    let unit := fun u : DigestUnit => { u with
      received := u.received + n, remainder := l64Update u.remainder (body.take (u.claim.recLength - u.received)) }
    ((∀ f, ln.exchange ≠ .frame f) → (∀ size bytes, ln.exchange ≠ .calibration size bytes) → malformed) ∧
    (∀ f, ln.exchange = .frame f →
      let counted := taken (.frame { f with soFar := f.soFar + n })
      (f.phase = .awaitingMark → malformed) ∧
      (∀ a, f.announced = some a → f.phase ≠ .awaitingMark → a < f.soFar + n → malformed) ∧
      (∀ a, f.announced = some a → f.phase = .draining → f.soFar + n ≤ a → answer = .next (s.after counted)) ∧
      (∀ a u, f.announced = some a → f.phase = .receiving → f.soFar + n ≤ a → s.blk.pool.heldBy l = some u →
        (u.claim.kind ≠ .sourceFetch → answer = .next (s.after { counted with pool := s.blk.pool.updHeld l unit })) ∧
        (∀ k e, u.claim.kind = .sourceFetch → u.claim.owner = .entry k → s.blk.repair.find k = some e →
          answer = .next (s.after { counted with
            pool := s.blk.pool.updHeld l unit
            staging := stageBytes (e.extents.getD []) u.received (body.take (u.claim.recLength - u.received)) s.blk.staging })))) ∧
    (∀ size bytes, ln.exchange = .calibration size bytes →
      (size < bytes + n → malformed) ∧
      (bytes + n ≤ size →
        let run := (s.blk.duty.calibration[l]).map (fun c => { c with firstAt := some (c.firstAt.getD s.blk.clock), bytes := c.bytes + n })
        answer = .next (s.after { taken (.calibration size (bytes + n)) with
          duty := { s.blk.duty with calibration := s.blk.duty.calibration.set l.val run l.isLt } })))

/-- END, FAULT and NOT_FOUND in a frame exchange (R35, R36, R76, R78, R79): the result a frame comes to is the digest unit's count and digest at END, and its count with the cause, FAULT
and its reason or NOT_FOUND, at either that names the fetched frame; it is handed to the campaign or the repair step that owns the session, and the exchange ends. A draining ends at any of the three.
A repair step acts on its result's verdict (R160, R168): a sound source copy takes the entry to STAGED and its test, a damaged or missized one settles it LOST, code 3 counts a failed attempt; a sound
read-back settles it REPAIRED, any other counts a failed rewrite. A YIELDING lane gives the drive up after that (R62, R162), any other ends the step first (log entry 20, DEDUCED). A failed source attempt (R161) returns the entry to WAITING below three, and settles it LOST at three. An entry back in WAITING
(R23, R155, R162) has given back its extents and context, its record is SUSPECT again, and the start pass follows. -/
def Obligations.FrameEnds : Prop :=
  (∀ (s : State) (l : Fin 8) (session : Byte) (body : List Byte) (crc : Word32) (f : FrameExchange) (id : Nat) (k : EntryKey),
    let ln := s.blk.lane l
    let malformed := Host.Outcome.next (φ := Fault) (ρ := Refusal) (s.after (s.blk.malformed l))
    let hears := fun type => s.Hears l type session body crc
    let comes := fun (answer : Host.Outcome State Fault Refusal) (res : FrameResult) =>
      (ln.owner = some (.campaign id) → answer = .next (s.after (((s.blk.dropExchange l).campaignResult id f.fetched res true).finishItem l id))) ∧
      (ln.owner = some (.entry k) → answer = .next (s.after (s.blk.repairResult l k res)))
    let drains := fun (answer : Host.Outcome State Fault Refusal) =>
      (ln.owner = some (.campaign id) → answer = .next (s.after ((s.blk.dropExchange l).finishItem l id))) ∧
      (ln.owner = some (.entry k) → answer = .next (s.after (s.blk.endOwner l)))
    ln.exchange = .frame f →
    (hears 0x11 → body = [] →
      (f.phase = .awaitingMark → exec (.endUnit l session body crc) s = malformed) ∧
      (∀ u, f.phase = .receiving → s.blk.pool.heldBy l = some u → comes (exec (.endUnit l session body crc) s) (.complete u.received (u.remainder ^^^ 0xFFFFFFFFFFFFFFFF))) ∧
      (f.phase = .draining → drains (exec (.endUnit l session body crc) s))) ∧
    (∀ n reason, hears 0x24 → parseFault body = some (n, reason) →
      (∀ u, f.phase ≠ .draining → n = f.fetched → s.blk.pool.heldBy l = some u → comes (exec (.fault l session body crc) s) (.fault u.received reason)) ∧
      (f.phase ≠ .draining → n ≠ f.fetched → exec (.fault l session body crc) s = malformed) ∧
      (f.phase = .draining → n = f.fetched ∨ f.delivered = some n → drains (exec (.fault l session body crc) s)) ∧
      (f.phase = .draining → n ≠ f.fetched → f.delivered ≠ some n → exec (.fault l session body crc) s = malformed)) ∧
    (∀ n, hears 0x23 → parseNotFound body = some (.frame n) →
      (∀ u, f.phase = .awaitingMark → n = f.fetched → s.blk.pool.heldBy l = some u → comes (exec (.notFound l session body crc) s) (.notFound u.received)) ∧
      (f.phase = .awaitingMark → n ≠ f.fetched → exec (.notFound l session body crc) s = malformed) ∧
      (f.phase = .receiving → exec (.notFound l session body crc) s = malformed) ∧
      (f.phase = .draining → n = f.fetched ∨ f.delivered = some n → drains (exec (.notFound l session body crc) s)))) ∧
  (∀ (b : Block) (l : Fin 8) (k : EntryKey) (e : Entry) (r : FrameRecord) (length : Nat) (res : FrameResult),
    b.repair.find k = some e → b.store.record k.slot k.frame = some r → r.length = some length →
    let v := verdictOf length r.digest res
    let after := b.repairResult l k res
    let acts := fun act : Block → Block => after = if (b.lane l).state = .yielding then (act b).endOwner l else act (b.endOwner l)
    (e.phase = .fetching →
      (v = .sound → acts (fun y => (y.updEntry k (fun x => { x with phase := .staged, stepLane := none })).rewriteTest k)) ∧
      (v = .damaged ∨ v = .missized → acts (fun y => y.settleEntry k .lost (some .bothDamaged))) ∧
      (v = .uncomparable → acts (fun y => y.sourceFailed k))) ∧
    (e.phase = .readback →
      (v = .sound → after = (b.settleEntry k .repaired none).endOwner l) ∧
      (v ≠ .sound → acts (fun y => y.rewriteFailed k)))) ∧
  (∀ (b : Block) (k : EntryKey) (e : Entry), b.repair.find k = some e →
    let counted := b.updEntry k (fun x => { x with sourceAttempts := x.sourceAttempts + 1, stepLane := none })
    b.sourceFailed k = if e.sourceAttempts + 1 < 3 then counted.entryToWaiting k else counted.settleEntry k .lost (some .sourceUnreadable)) ∧
  (∀ (b : Block) (k : EntryKey) (e : Entry), b.repair.find k = some e →
    ∃ w : Block, b.entryToWaiting k = w.startPass ∧
      w.repair.find k = some { e with phase := .waiting, extents := none, context := none, stepLane := none } ∧
      (∀ j, j ≠ k → w.repair.find j = b.repair.find j) ∧ w.repair.list.map Entry.key = b.repair.list.map Entry.key ∧
      w.repair.freeExtents.Perm (e.extents.getD [] ++ b.repair.freeExtents) ∧
      (b.repair.freeExtents.Pairwise (fun i j => i ≤ j) → w.repair.freeExtents.Pairwise (fun i j => i ≤ j)) ∧
      w.store.record k.slot k.frame = (b.store.record k.slot k.frame).map (fun r => if r.state = .inRepair then { r with state := .suspect, detail := none } else r) ∧
      w.lanes = b.lanes ∧ w.pool = b.pool ∧ w.sched = b.sched ∧ w.recorder = b.recorder)

/-- What a campaign does with a frame's result (R21, R93, R101, R103, R104, R115, R116, R130, R134, R141): the verdict's count rises, the resume point moves by the step, to PAST when the window
has no next frame, and the frame restart count is 0. The record's last verdict is the code, its visiting mark is clear, and it is SUSPECT when a frame finding is recognised (IN_REPAIR where the
start pass that follows takes its entry up), and otherwise SOUND, its entry gone from the Suspect List. A result of code 0, and an event with no class recognised, change
nothing of the Finding Recorder and leave the campaign as it stands. A finding is logged or made pending with the frame and the number a wrong MARK carried (log entry 29); on CONTINUE, with
the finding logged, the campaign and its lane stay as they are; on HALT, or with the finding pending, the campaign is HELD. -/
def Obligations.ResultsAreCounted : Prop :=
  ∀ (b : Block) (id frame : Nat) (res : FrameResult) (c : Campaign) (r : FrameRecord) (length : Nat) (viaLane : Bool),
    b.campaign id = some c → b.store.record c.slot frame = some r → r.length = some length →
    let v := verdictOf length r.digest res
    let d := b.recorder.judge c.profile c.disregard (conditionsOf length r.digest res)
    let after := b.campaignResult id frame res viaLane
    let next := fun p => if 0 < c.step ∧ p + c.step ≤ c.windowLast then some (p + c.step) else none
    let count := fun (w : Verdict) (n : Nat) => if v = w then n + 1 else n
    let counts : Counts :=
      { sound := count .sound c.counts.sound, damaged := count .damaged c.counts.damaged, missized := count .missized c.counts.missized,
        uncomparable := count .uncomparable c.counts.uncomparable, skipped := c.counts.skipped }
    let frameFinding := ∃ k : FindingClass, 1 ≤ k.number ∧ k.number ≤ 5 ∧ ClassSet.has d.recognised k = true
    let frameNoted := ∃ k : FindingClass, 1 ≤ k.number ∧ k.number ≤ 5 ∧ ClassSet.has d.noted k = true
    let delivered := match res with | .substituted _ n => some n | _ => none
    (v = .sound ∨ d.recognised = 0 →
      after.campaign id = some { c with counts := counts, resumePoint := c.resumePoint.bind next, frameRestarts := 0 } ∧
      after.recorder = b.recorder ∧ after.lanes = b.lanes ∧ after.pool = b.pool) ∧
    (v = .sound → r.queued = false → after.store.record c.slot frame = some { r with state := .sound, detail := none, last := some .sound, visiting := false }) ∧
    (∃ r', after.store.record c.slot frame = some r' ∧ r'.last = some v ∧ r'.visiting = false ∧ r'.length = r.length ∧ r'.digest = r.digest ∧ r'.detail = none ∧
      (¬frameFinding → r'.state = .sound ∧ r'.queued = false ∧ (r.queued = true → after.repair.find { slot := c.slot, frame := frame } = none)) ∧
      (frameFinding → (r'.state = .suspect ∨ (r'.state = .inRepair ∧ r'.queued = true)) ∧ (r.queued = true → r'.queued = true) ∧
        (r.queued = false → ¬(frameNoted ∧ (b.recorder.profiles[d.profile]).enqueue = true) → r'.state = .suspect ∧ r'.queued = false))) ∧
    (v ≠ .sound → d.recognised ≠ 0 →
      (∃ c', after.campaign id = some c' ∧ c'.counts = counts ∧ c'.resumePoint = c.resumePoint.bind next ∧ c'.noted = c.noted ||| d.noted ∧
        (d.outcome = .halt → c'.state = .held ∧ c'.haltCode = d.haltCode ∧ c'.heldCause = some (if b.recorder.logsNow then .finding else .logFull)) ∧
        (d.outcome = .goOn → b.recorder.logsNow = false → c'.state = .held ∧ c'.heldCause = some .logFull) ∧
        (d.outcome = .goOn → b.recorder.logsNow = true → c'.state = c.state ∧ c'.heldCause = c.heldCause ∧ c'.haltCode = c.haltCode ∧ after.lanes = b.lanes ∧ after.pool = b.pool)) ∧
      after.recorder.flags = b.recorder.flags ||| d.noted ∧
      (b.recorder.logsNow = true → after.recorder.nextSequence = b.recorder.nextSequence + 1 ∧ after.recorder.pending = b.recorder.pending ∧
        ∃ f, after.recorder.log.getLast? = some f ∧ f.sequence = some b.recorder.nextSequence ∧ f.cls = (d.loggedClass).getD .annotation ∧ f.recognised = d.recognised ∧
          f.profile = d.profile ∧ f.campaign = c.id ∧ f.lane = c.lane ∧ f.slot = c.slot ∧ f.frame = some frame ∧ f.delivered = delivered ∧ f.verdict = some v ∧
          f.acknowledged = false) ∧
      (b.recorder.logsNow = false → after.recorder.log = b.recorder.log ∧ after.recorder.nextSequence = b.recorder.nextSequence ∧
        ∃ p, after.recorder.pending = b.recorder.pending ++ [p] ∧ p.finding.sequence = none ∧ p.finding.campaign = c.id ∧ p.finding.frame = some frame ∧
          p.finding.delivered = delivered ∧ p.finding.verdict = some v))

/-- TRAILER (R51, R74, R107, R108) of the open session: malformed when no closing exchange is in flight. The session ends with it; a trailer that gives the manifest's expected roll-up
and frame count ends the campaign DONE, any other is a ROLLUP event: not recognised, the campaign is DONE; disposed NOTE and logged, it is DONE and the manifest flagged; disposed
HALT, or not logged for want of room, the campaign is HELD. NOT_FOUND of the session's span (R73, R74, R99, R108) stands for a trailer that disagrees, and in an opening exchange
makes a campaign's IDENTITY event and ends a repair step, whose source fetch (R161), rewrite (R166) or read-back (R169) counts a failed attempt; of another span it is malformed, and so is one that
names a frame where no frame exchange is in flight, or a span where neither of these two exchanges is. -/
def Obligations.TrailerChecks : Prop :=
  (∀ (s : State) (l : Fin 8) (session : Byte) (body : List Byte) (crc : Word32) (id : Nat) (c : Campaign) (m : Manifest),
    let ln := s.blk.lane l
    let checked := ((s.blk.dropExchange l).updLane l (fun x => { x with session := none })).updCampaign id (fun x => { x with trailerChecked := true })
    let done := checked.closeCampaign id .done none .complete
    let d := s.blk.recorder.judge c.profile c.disregard FindingClass.rollup.set
    let disagrees := fun answer : Host.Outcome State Fault Refusal =>
      (d.recognised = 0 → ∃ b : Block, answer = .next (s.after (b.toReady l)) ∧ (b.campaign id).map Campaign.state = some .done ∧ b.recorder = s.blk.recorder) ∧
      (d.recognised ≠ 0 → ∃ (b : Block) (c' : Campaign), answer = .next (s.after (b.toReady l)) ∧ b.campaign id = some c' ∧ c'.trailerChecked = true ∧
        (d.outcome = .halt → c'.state = .held ∧ c'.heldCause = some (if s.blk.recorder.logsNow then .finding else .logFull)) ∧
        (d.outcome = .goOn → s.blk.recorder.logsNow = false → c'.state = .held ∧ c'.heldCause = some .logFull) ∧
        (d.outcome = .goOn → s.blk.recorder.logsNow = true → c'.state = .done) ∧
        (d.outcome = .goOn → m.state = .ready → (b.store.manifest c.slot).map Manifest.trailerDisagrees = some true))
    ln.owner = some (.campaign id) → s.blk.campaign id = some c → s.blk.store.manifest c.slot = some m →
    (∀ rollup count, s.Hears l 0x22 session body crc → parseTrailer body = some (rollup, count) →
      let answer := exec (.trailer l session body crc) s
      (ln.exchange ≠ .closing → answer = .next (s.after (s.blk.malformed l))) ∧
      (ln.exchange = .closing → m.expected = some rollup → m.count = count →
        answer = .next (s.after (done.toReady l)) ∧
        done.campaign id = some { c with trailerChecked := true, state := .done, endCause := none, heldCause := none } ∧ (done.lane l).session = none) ∧
      (ln.exchange = .closing → ¬(m.expected = some rollup ∧ m.count = count) → disagrees answer)) ∧
    (∀ reel span, s.Hears l 0x23 session body crc → parseNotFound body = some (.span reel span) →
      let answer := exec (.notFound l session body crc) s
      (ln.exchange = .closing → ln.span = some (reel, span) → disagrees answer) ∧
      (ln.exchange = .opening → ln.span = some (reel, span) → answer = .next (s.after ((s.blk.dropExchange l).identityEvent id))) ∧
      (ln.exchange = .opening ∨ ln.exchange = .closing → ln.span ≠ some (reel, span) → answer = .next (s.after (s.blk.malformed l))))) ∧
  (∀ (s : State) (l : Fin 8) (session : Byte) (body : List Byte) (crc : Word32), s.Hears l 0x23 session body crc →
    let ln := s.blk.lane l
    let answer := exec (.notFound l session body crc) s
    let malformed := Host.Outcome.next (φ := Fault) (ρ := Refusal) (s.after (s.blk.malformed l))
    (∀ reel span k e, parseNotFound body = some (.span reel span) → ln.exchange = .opening → ln.owner = some (.entry k) → s.blk.repair.find k = some e →
      (ln.span = some (reel, span) → e.phase = .fetching → answer = .next (s.after ((s.blk.endOwner l).sourceFailed k))) ∧
      (ln.span = some (reel, span) → e.phase = .rewriting ∨ e.phase = .readback → answer = .next (s.after ((s.blk.endOwner l).rewriteFailed k))) ∧
      (ln.span ≠ some (reel, span) → answer = malformed)) ∧
    (∀ n, parseNotFound body = some (.frame n) → (∀ f, ln.exchange ≠ .frame f) → answer = malformed) ∧
    (∀ reel span, parseNotFound body = some (.span reel span) → ln.exchange ≠ .opening → ln.exchange ≠ .closing → answer = malformed))

/-! ## Rewrites -/

/-- REWRITE_END_SENT (R52, R58): the staged frame has left in PAYLOAD units of 65,536 bytes, the last with the remainder, then END, and the stall timer starts; that the units enter the lane's
trace together at this row is log entry 11's (DESIGN CHOICE); with no rewrite being sent nothing changes (log entry 14). REWRITE_DONE (R80, R165) takes the entry to READBACK in the same session, and REWRITE_FAILED (R80, R166) ends the session and counts a failed attempt, which a YIELDING lane counts
before it goes on to HALT and RELEASE (otherwise the session ends first: log entry 20, DEDUCED): the first takes the
entry to STAGED to be tested again, the second settles it. Either is malformed when it is not awaited or names another frame. -/
def Obligations.RewritesAreAnswered : Prop :=
  (∀ (s : State) (l : Fin 8), s.Idle →
    let ln := s.blk.lane l
    let answer := exec (.rewriteEndSent l) s
    ((∀ frame, ln.exchange ≠ .rewrite frame false) → answer = .next s) ∧
    (∀ frame k e, ln.exchange = .rewrite frame false → ln.owner = some (.entry k) → s.blk.repair.find k = some e →
      ∃ bodies : List (List Byte), bodies.flatten = unstageBytes (e.extents.getD []) s.blk.staging 0 (s.blk.store.recordedLength k.slot k.frame) ∧
        (∀ body ∈ bodies, 1 ≤ body.length ∧ body.length ≤ 65536) ∧ (∀ body ∈ bodies.dropLast, body.length = 65536) ∧
        answer = .next { s with blk := s.blk.updLane l (fun x => { x with
          exchange := .rewrite frame true, stallTimer := some (s.blk.clock + ln.settings.stallLimit * 500000),
          sent := x.sent ++ bodies.map (SentUnit.payload ln.sessionNumber) ++ [.endUnit ln.sessionNumber] }) })) ∧
  (∀ (s : State) (l : Fin 8) (session : Byte) (body : List Byte) (crc : Word32) (n : Nat), parseFrameNumber body = some n →
    let ln := s.blk.lane l
    let read := (s.blk.dropExchange l)
    let malformed := Host.Outcome.next (φ := Fault) (ρ := Refusal) (s.after (s.blk.malformed l))
    (s.Hears l 0x28 session body crc →
      let answer := exec (.rewriteDone l session body crc) s
      (∀ k, ln.exchange = .rewrite n true → ln.owner = some (.entry k) →
        let readback := read.updEntry k (fun e => { e with interrupted := false, phase := .readback })
        (ln.state ≠ .yielding → ln.stopping = false → answer = .next (s.after (readback.claimForEntry l k .readback))) ∧
        (ln.state = .yielding ∨ ln.stopping = true → answer = .next (s.after ((readback.endOwner l).updEntry k (fun e => { e with stepLane := none }))))) ∧
      (ln.exchange ≠ .rewrite n true → answer = malformed)) ∧
    (s.Hears l 0x29 session body crc →
      let answer := exec (.rewriteFailed l session body crc) s
      (∀ k x, ln.exchange = .rewrite n x → ln.owner = some (.entry k) → answer = .next (s.after
        (if ln.state = .yielding then (s.blk.rewriteFailed k).endOwner l else (s.blk.endOwner l).rewriteFailed k))) ∧
      ((∀ x, ln.exchange ≠ .rewrite n x) → answer = malformed))) ∧
  (∀ (b : Block) (k : EntryKey) (e : Entry), b.repair.find k = some e →
    let again := b.updEntry k (fun x => { x with rewriteAttempts := x.rewriteAttempts + 1, phase := .staged, stepLane := none })
    b.rewriteFailed k = if e.rewriteAttempts + 1 < 2 then again.rewriteTest k else again.settleEntry k .sisterSound (some .rewriteUnreliable))

/-! ## Findings, flags and profiles -/

/-- ACKNOWLEDGE (R142, R143): refused RANGE for 0 or a number not yet assigned; taken, every finding up to the number is acknowledged, and pending findings are logged from the head of their FIFO
for as long as there is one, room and a sequence number: each with the next number, not acknowledged, behind the older findings, of which only acknowledged ones leave a full log (R140).
The campaign of a finding logged has no pending finding any more, and one HELD with LOG_FULL goes to HELD with FINDING when the event was halted, to DONE when its trailer is checked, and to
WAITING otherwise, with CAMPAIGN_CHANGED (R116). The entry that the finding's request created takes its number, and no other does (R152; log entry 30). One LOG_ADVANCED follows when any was logged. -/
def Obligations.AcknowledgeMarks : Prop :=
  ∀ (s : State) (tag : Byte) (body : List Byte), s.Takes 0x19 tag body →
    let n := fieldAt body 0 4
    let r := s.blk.recorder
    let marked := { r with log := r.log.map (fun f => if f.seq ≤ n then { f with acknowledged := true } else f) }
    let newly := r.log.countP (fun f => decide (f.seq ≤ n) && !f.acknowledged)
    (n = 0 ∨ r.nextSequence ≤ n → exec (.acknowledge tag body) s = .next (s.replied s.blk 0x19 tag (.refused .range))) ∧
    (1 ≤ n → n < r.nextSequence → r.pending = [] → exec (.acknowledge tag body) s = .next (s.replied { s.blk with recorder := marked } 0x19 tag
      (.done (beBytes 2 newly ++ [0x00, 0x00] ++ beBytes 4 (r.nextSequence - 1))))) ∧
    (1 ≤ n → n < r.nextSequence → ∃ (b : Block) (logged : Nat), exec (.acknowledge tag body) s = .next (s.answered b 0x19 tag
        (.done (beBytes 2 newly ++ beBytes 1 logged ++ beBytes 1 (r.pending.length - logged) ++ beBytes 4 (b.recorder.nextSequence - 1)))) ∧
      logged ≤ r.pending.length ∧ b.recorder.pending = r.pending.drop logged ∧ b.recorder.nextSequence = r.nextSequence + logged ∧
      (logged < r.pending.length → b.recorder.canAppend = false) ∧ b.recorder.flags = r.flags ∧ b.recorder.profiles = r.profiles ∧
      (∃ older, older.Sublist marked.log ∧ (∀ f ∈ marked.log, f.acknowledged = false → f ∈ older) ∧
        (r.log.length ≤ 256 → older.length = min r.log.length (256 - logged)) ∧
        b.recorder.log = older ++ (r.pending.take logged).zipIdx.map (fun p => { p.1.finding with sequence := some (r.nextSequence + p.2), acknowledged := false })) ∧
      (∀ id, (∀ p ∈ r.pending.take logged, p.finding.campaign ≠ id) → b.campaign id = s.blk.campaign id) ∧
      (∀ p c, (r.pending.take logged).filter (fun q => q.finding.campaign == c.id) = [p] → s.blk.campaign c.id = some c →
        let waits := c.state = .held ∧ c.heldCause = some .logFull
        let known := { c with pendingFinding := false }
        let released := if p.finding.halted then { known with heldCause := some .finding }
          else if c.trailerChecked then { known with state := .done, endCause := none, heldCause := none }
          else { known with state := .waiting, heldCause := none }
        b.campaign c.id = some (if waits then released else known) ∧
        (waits → .campaignChanged c.id c.lane c.slot released.state .logged c.resumePoint c.counts ∈ b.port.raised)) ∧
      (∀ key e, s.blk.repair.find key = some e →
        ((∀ i, i < logged → e.awaits ≠ some (r.nextSequence + i)) → b.repair.find key = some e) ∧
        (∀ i p, i < logged → r.pending[i]? = some p → p.enqueued = true → p.finding.slot = key.slot → p.finding.frame = some key.frame →
          e.awaits = some (r.nextSequence + i) → e.sequence = none → b.repair.find key = some { e with sequence := some (r.nextSequence + i), awaits := none })) ∧
      (logged = 0 → b.port.raised = []) ∧ (0 < logged → b.port.raised.getLast? = some (.logAdvanced (b.recorder.nextSequence - 1))))

/-- SET PROFILE (R136), SELECT PROFILE (R137) and CLEAR FLAGS (R146): each refused RANGE outside its values; taken, the profile has the nine dispositions and two options of the body,
the default profile is the one named and the reply gives the old one, and the flags named are cleared and the reply gives the flags as they stood. Nothing else changes.
That the reply sends the flags as one class set of two bytes is log entry 9's (PRESUMED). -/
def Obligations.ProfilesAndFlags : Prop :=
  ∀ (s : State) (tag : Byte) (body : List Byte),
    let r := s.blk.recorder
    (s.Takes 0x1A tag body →
      let inRange := ∀ i, 1 ≤ i → i ≤ 11 → fieldAt body i 1 ≤ 1
      (¬(fieldAt body 0 1 < 4 ∧ inRange) → exec (.setProfile tag body) s = .next (s.replied s.blk 0x1A tag (.refused .range))) ∧
      (∀ p, profileOf (fieldAt body 0 1) = some p → inRange → ∃ profile : Profile,
        exec (.setProfile tag body) s = .next (s.replied { s.blk with recorder := { r with profiles := r.profiles.set p.val profile p.isLt } } 0x1A tag (.done [])) ∧
        (∀ c, ClassSet.has profile.halts c = (fieldAt body (1 + c.number) 1 == 1)) ∧
        profile.enqueue = (fieldAt body 10 1 == 1) ∧ profile.rewrite = (fieldAt body 11 1 == 1))) ∧
    (s.Takes 0x1B tag body →
      (4 ≤ fieldAt body 0 1 → exec (.selectProfile tag body) s = .next (s.replied s.blk 0x1B tag (.refused .range))) ∧
      (∀ p, profileOf (fieldAt body 0 1) = some p → exec (.selectProfile tag body) s = .next (s.replied
        { s.blk with recorder := { r with defaultProfile := p } } 0x1B tag (.done [BitVec.ofNat 8 r.defaultProfile.val])))) ∧
    (s.Takes 0x1D tag body →
      let named := fieldAt body 0 2
      (512 ≤ named → exec (.clearFlags tag body) s = .next (s.replied s.blk 0x1D tag (.refused .range))) ∧
      (named < 512 → exec (.clearFlags tag body) s = .next (s.replied
        { s.blk with recorder := { r with flags := r.flags &&& ~~~(BitVec.ofNat 9 named) } } 0x1D tag (.done (beBytes 2 r.flags.toNat)))))

/-! ## The Suspect List -/

/-- ENQUEUE SUSPECTS (R149, R150, R153): refused RANGE, ABSENT, STATE and ROOM in that order; taken, the unqueued SUSPECT records join the list in index order until 128 entries stand,
each WAITING with cause HOST, and the reply counts those that joined and those left; the start pass follows. WITHDRAW SUSPECT (R172): refused RANGE, ABSENT and BUSY (in REWRITING and READBACK); in the
other phases the entry leaves the list, its step in hand ended first, and the reply gives the phase it had. The start pass (R23, R154 to R157) passes over entries that are not eligible: WAITING,
record not visiting, source lane in service, repairs permitted on both lanes. It stops at the first eligible entry when no context is free or the free extents are fewer than its need, and otherwise
starts it, where the repair-start claim is granted: record IN_REPAIR, FETCHING, the lowest free context, the first of the free extents (which stand in rising order), its source lane's
arbiter asked; and goes on. -/
def Obligations.EnqueueAndWithdraw : Prop :=
  (∀ (s : State) (tag : Byte) (body : List Byte), s.Takes 0x20 tag body →
    let fieldsGood := fieldAt body 0 1 < 16 ∧ fieldAt body 1 1 < 8 ∧ fieldAt body 2 1 ≤ 1
    let list := s.blk.repair.list
    let refused := fun r => exec (.enqueueSuspects tag body) s = .next (s.replied s.blk 0x20 tag (.refused r))
    (¬fieldsGood → refused .range) ∧
    (∀ k l, slotOf (fieldAt body 0 1) = some k → laneOf (fieldAt body 1 1) = some l → fieldsGood →
      (s.blk.store.manifest k = none → refused .absent) ∧
      (∀ m, s.blk.store.manifest k = some m →
        let other := if m.copyA = some l then m.copyB else if m.copyB = some l then m.copyA else none
        (m.state ≠ .ready ∨ other = none → refused .state) ∧
        (m.state = .ready → other ≠ none → 128 ≤ list.length → refused .room) ∧
        (∀ source, m.state = .ready → other = some source → list.length < 128 → m.records.length = m.count →
          let suspects := (List.range m.count).filter (fun i => m.records[i]?.any (fun r => r.state == .suspect && !r.queued))
          let joined := suspects.take (128 - list.length)
          let entry : Nat → Entry := fun i =>
            { key := { slot := k, frame := m.first + i }, cause := none, sequence := none, damaged := l, source := source, rewriteAllowed := fieldAt body 2 1 == 1 }
          ∃ store : Store, exec (.enqueueSuspects tag body) s = .next (s.answered
            (Block.startPass { s.blk with store := store, repair := { s.blk.repair with list := list ++ joined.map entry } }) 0x20 tag
            (.done (beBytes 1 joined.length ++ beBytes 2 (suspects.length - joined.length)))) ∧
          (∀ i, (store.record k (m.first + i)).map FrameRecord.queued = (m.record (m.first + i)).map (fun r => r.queued || decide (i ∈ joined))) ∧
          (store.manifest k).map Manifest.suspectPins = some (m.suspectPins + joined.length))))) ∧
  (∀ (s : State) (tag : Byte) (body : List Byte), s.Takes 0x21 tag body →
    let refused := fun r => exec (.withdrawSuspect tag body) s = .next (s.replied s.blk 0x21 tag (.refused r))
    (16 ≤ fieldAt body 0 1 → refused .range) ∧
    (∀ k, slotOf (fieldAt body 0 1) = some k →
      let key : EntryKey := { slot := k, frame := fieldAt body 1 4 }
      (s.blk.repair.find key = none → refused .absent) ∧
      (∀ e, s.blk.repair.find key = some e →
        let ended := match e.stepLane with | some l => s.blk.endOwner l | none => s.blk
        let leaves := fun b : Block => exec (.withdrawSuspect tag body) s = .next (s.answered b.startPass 0x21 tag (.done [e.phase.code])) ∧ b.repair.find key = none
        (e.phase = .rewriting ∨ e.phase = .readback → refused .busy) ∧
        (e.phase = .waiting → leaves (s.blk.dropEntry key)) ∧
        (e.phase = .fetching → leaves (ended.withdrawStarted key)) ∧
        (e.phase = .staged → leaves (s.blk.withdrawStarted key))))) ∧
  (∀ b : Block,
    let inService := fun l => (b.lane l).state = .ready ∨ (b.lane l).state = .engaged ∨ (b.lane l).state = .calibrating ∨ (b.lane l).state = .yielding
    let permitted := fun e : Entry => b.duty.mode = .full ∨
      (b.duty.mode = .shared ∧ b.duty.repairsInShared = true ∧ b.duty.eligible[e.source] = true ∧ b.duty.eligible[e.damaged] = true)
    let eligible := fun e : Entry => e.phase = .waiting ∧ (∃ r, b.store.record e.key.slot e.key.frame = some r ∧ r.visiting = false) ∧ inService e.source ∧ permitted e
    let free := fun i : Fin 4 => ∀ x ∈ b.repair.list, x.context ≠ some i
    ((∀ e ∈ b.repair.list, ¬eligible e) → b.startPass = b) ∧
    (∀ older e newer r length, b.repair.list = older ++ e :: newer → (∀ x ∈ older, ¬eligible x) → b.repair.find e.key = some e → eligible e →
      b.store.record e.key.slot e.key.frame = some r → r.length = some length →
      let need := (length + 16777215) / 16777216
      ((∀ i, ¬free i) ∨ b.repair.freeExtents.length < need → b.startPass = b) ∧
      (∀ i, free i → (∀ j, j < i → ¬free j) → need ≤ b.repair.freeExtents.length → r.state = .suspect → r.queued = true →
        let started := { b with
          store := b.store.updRecord e.key.slot e.key.frame (fun x => { x with state := .inRepair, detail := none })
          repair := { b.repair.upd e.key (fun x => { x with phase := .fetching, context := some i, extents := some (b.repair.freeExtents.take need) }) with
            freeExtents := b.repair.freeExtents.drop need } }
        b.startPass = (started.ask e.source).startPass)))

/-- SET REPAIR (R175): refused RANGE past 1; ON sets the policy and nothing else; OFF sets it and tests every STAGED entry in list order; the reply gives the policy before. The rewrite test
(R163) settles an entry REWRITE_OFF unless its mark and the policy both allow rewriting, then NOT_REWRITABLE for a reader that cannot rewrite or a frame past its largest, and
otherwise makes its rewrite step pending. An entry that settles (R24, R170) leaves the list, and its record takes the outcome and loses its queued mark. -/
def Obligations.SetRepairTests : Prop :=
  (∀ (s : State) (tag : Byte) (body : List Byte), s.Takes 0x23 tag body →
    let set := fun on => { s.blk with repair := { s.blk.repair with rewriteEnabled := on } }
    let before : List Byte := [if s.blk.repair.rewriteEnabled then 0x01 else 0x00]
    (2 ≤ fieldAt body 0 1 → exec (.setRepair tag body) s = .next (s.replied s.blk 0x23 tag (.refused .range))) ∧
    (fieldAt body 0 1 = 1 → exec (.setRepair tag body) s = .next (s.replied (set true) 0x23 tag (.done before))) ∧
    (fieldAt body 0 1 = 0 → exec (.setRepair tag body) s = .next (s.answered
      ((s.blk.repair.list.filter (fun e => e.phase == .staged)).foldl (fun b e => b.rewriteTest e.key) (set false)) 0x23 tag (.done before)))) ∧
  (∀ (b : Block) (k : EntryKey) (e : Entry), b.repair.find k = some e → e.phase = .staged →
    (e.rewriteAllowed = false ∨ b.repair.rewriteEnabled = false → b.rewriteTest k = b.settleEntry k .sisterSound (some .rewriteOff)) ∧
    (∀ c, e.rewriteAllowed = true → b.repair.rewriteEnabled = true → (b.lane e.damaged).caps = some c →
      b.rewriteTest k = if c.rewritable = false ∨ c.largest < b.store.recordedLength k.slot k.frame then b.settleEntry k .sisterSound (some .notRewritable)
        else b.ask e.damaged)) ∧
  (∀ (b : Block) (k : EntryKey) (e : Entry) (outcome : RecordState) (detail : Option Detail), b.repair.find k = some e →
    let settled := b.settleEntry k outcome detail
    settled.repair.find k = none ∧ settled.lanes = b.lanes ∧ settled.recorder = b.recorder ∧
    settled.store.record k.slot k.frame = (b.store.record k.slot k.frame).map (fun r => { r with state := outcome, detail := detail, queued := false }))

/-! ## Duty and pacing -/

/-- SET DUTY (R187), HOLD (R182, R184), WAKE (R183, R186) and HOLD_TIMER_EXPIRED (R185): what the Duty Controller holds after each, the DUTY_CHANGED that ends its notices (R188), the
lanes that HOLD leaves READY and those that leaving HELD settles again. The shares and marks of pacing stay. HOLD_TIMER_EXPIRED brings the clock to the timer's time (log entry 5, DESIGN
CHOICE), and with the timer stopped it changes nothing (log entry 14, DESIGN CHOICE). A change of permission (R181) tells the owners of what is lost, the lanes in rising order and the entries in
list order (log entry 21, DEDUCED), asks the arbiters concerned, computes gates again and makes the start pass. The head campaign of a lane that loses leave acts by its state (R114): with a frame
exchange in flight, or in OPENING, its item stops at the answer; otherwise RUNNING ends its session, a waiting claim or a unit granted going back, and is WAITING; any other state stays. An entry that loses
permission (R174) goes back to WAITING from FETCHING with no step in hand; with a claim waiting, a unit granted or no exchange in flight its step ends uncounted; with an exchange in flight its item stops
at the answer. An item stopped so ends its session at the answer, and its campaign is WAITING, or YIELDED where the lane is YIELDING (R114). -/
def Obligations.DutyChanges : Prop :=
  let mayRun := fun (d : Duty) (l : Fin 8) => d.mode == .full || (d.mode == .shared && d.eligible[l])
  let permits := fun (d : Duty) (e : Entry) => d.mode == .full || (d.mode == .shared && d.repairsInShared && d.eligible[e.source] && d.eligible[e.damaged])
  (∀ (s : State) (tag : Byte) (body : List Byte),
    let d := s.blk.duty
    let wakeMode := fun n => if n = 1 then some WakeMode.full else if n = 2 then some WakeMode.shared else none
    let pacingStays := fun b : Block => b.duty.share = d.share ∧ b.duty.eligible = d.eligible ∧ b.duty.repairsInShared = d.repairsInShared
    let tells := fun (b : Block) (n : Notice) => b.port.raised.getLast? = some n
    (s.Takes 0x28 tag body →
      (wakeMode (fieldAt body 0 1) = none → exec (.setDuty tag body) s = .next (s.replied s.blk 0x28 tag (.refused .range))) ∧
      (∀ w, wakeMode (fieldAt body 0 1) = some w →
        (d.mode = w.mode → exec (.setDuty tag body) s = .next (s.replied s.blk 0x28 tag (.done []))) ∧
        (d.mode ≠ w.mode → ∃ b : Block, exec (.setDuty tag body) s = .next (s.answered b 0x28 tag (.done [])) ∧
          b = (({ s.blk with duty := { d with mode := w.mode } } : Block).permissionChange d).dutyNotice d.mode .setDuty ∧
          b.duty.mode = w.mode ∧ b.duty.wake = d.wake ∧ b.duty.holdTimer = d.holdTimer ∧ pacingStays b ∧
          tells b (.dutyChanged w.mode d.mode .setDuty d.wake (secondsLeft s.blk.clock d.holdTimer))))) ∧
    (s.Takes 0x29 tag body →
      let minutes := fieldAt body 1 2
      let timer := if minutes = 0 then none else some (s.blk.clock + minutes * 60000000)
      (wakeMode (fieldAt body 0 1) = none ∨ 1440 < minutes → exec (.hold tag body) s = .next (s.replied s.blk 0x29 tag (.refused .range))) ∧
      (∀ w, wakeMode (fieldAt body 0 1) = some w → minutes ≤ 1440 → ∃ b : Block, exec (.hold tag body) s = .next (s.answered b 0x29 tag (.done [])) ∧
        b = ((({ s.blk with duty := { d with mode := .held, wake := w, holdTimer := timer } } : Block).permissionChange d).settleWork).dutyNotice d.mode .hold ∧
        b.duty.mode = .held ∧ b.duty.wake = w ∧ b.duty.holdTimer = timer ∧ pacingStays b ∧
        tells b (.dutyChanged .held d.mode .hold w (minutes * 60)) ∧
        (∀ l, (b.lane l).state = .ready → (b.lane l).item = none → (b.lane l).settings.keepAlive = true))) ∧
    (s.Takes 0x2A tag body →
      let target := if fieldAt body 0 1 = 0 then some d.wake else wakeMode (fieldAt body 0 1)
      (target = none → exec (.wake tag body) s = .next (s.replied s.blk 0x2A tag (.refused .range))) ∧
      (∀ w, target = some w → ∃ b : Block, exec (.wake tag body) s = .next (s.answered b 0x2A tag (.done [w.mode.code])) ∧
        b = (allLanes.foldl Block.wakeLane (({ s.blk with duty := { d with mode := w.mode, wake := w, holdTimer := none } } : Block).permissionChange d)).dutyNotice d.mode .wake ∧
        b.duty.mode = w.mode ∧ b.duty.wake = w ∧ b.duty.holdTimer = none ∧ pacingStays b ∧ tells b (.dutyChanged w.mode .held .wake w 0) ∧
        (∀ l, (s.blk.lane l).state = .off → (s.blk.lane l).putDownByHold = true → ∃ gate, b.lane l = { s.blk.lane l with
          state := .settling, putDownByHold := false, restarts := 0, item := none, session := none, helloTaken := false, settleExpired := false,
          settleTimer := some (s.blk.clock + (s.blk.lane l).settings.settleWait * 1000), stallTimer := none, resumeTarget := none, lastCause := .wake,
          sent := (s.blk.lane l).sent ++ [.hello], gate := gate })))) ∧
  (∀ s : State, s.Idle →
    (s.blk.duty.holdTimer = none → exec .holdTimerExpired s = .next s) ∧
    (∀ t, s.blk.duty.holdTimer = some t → ∃ b : Block, exec .holdTimerExpired s = .next (s.after b) ∧ b.clock = max s.blk.clock t ∧
      b = (allLanes.foldl Block.wakeLane (({ s.blk with
        clock := max s.blk.clock t, duty := { s.blk.duty with mode := s.blk.duty.wake.mode, holdTimer := none } } : Block).permissionChange s.blk.duty)).dutyNotice s.blk.duty.mode .expiry ∧
      b.duty.mode = s.blk.duty.wake.mode ∧ b.duty.wake = s.blk.duty.wake ∧ b.duty.holdTimer = none ∧
      b.port.raised.getLast? = some (.dutyChanged s.blk.duty.wake.mode s.blk.duty.mode .expiry s.blk.duty.wake 0))) ∧
  (∀ (b : Block) (before : Duty),
    let lanes := allLanes.filter (fun l => mayRun before l && !mayRun b.duty l)
    let entries := (b.repair.list.filter (fun e => permits before e && !permits b.duty e)).map Entry.key
    let told := entries.foldl Block.entryLoses (lanes.foldl Block.laneLoses b)
    ∃ asked : List (Fin 8), b.permissionChange before = ((asked.foldl Block.ask told).regateAll before).startPass ∧
      ∀ l, l ∈ asked ↔ before.mode ≠ b.duty.mode ∨ (mayRun before l = false ∧ mayRun b.duty l = true) ∨
        ∃ e ∈ told.repair.list, permits before e = false ∧ told.pendingLane e = some l) ∧
  (∀ (b : Block) (l : Fin 8),
    let ln := b.lane l
    let stopped := b.updLane l (fun x => { x with item := x.item.map (fun it => { it with stopping := true }) })
    let ended := fun t : Block =>
      t.lane l = { ln with
        state := .ready, item := if ln.state = .engaged then none else ln.item, exchange := .idle, session := none, stallTimer := none,
        sent := ln.sent ++ (ln.session.map (fun x => SentUnit.halt x.number)).toList, pacing := (t.lane l).pacing, gate := (t.lane l).gate } ∧
      (∀ j, j ≠ l → t.lane j = b.lane j) ∧ t.pool = (b.pool.withdraw l).release l ∧ t.recorder = b.recorder ∧ t.port = b.port
    (b.sched.head l = none → b.laneLoses l = b) ∧
    (∀ c, b.sched.head l = some c →
      let t := b.laneLoses l
      ((∃ f, c.state = .running ∧ ln.exchange = .frame f) ∨ c.state = .opening → t = stopped) ∧
      (c.state = .running → (∀ f, ln.exchange ≠ .frame f) → ln.owner = some (.campaign c.id) → ln.state = .ready ∨ ln.state = .engaged → b.campaign c.id = some c →
        ended t ∧ t.repair = b.repair ∧ t.store = b.store ∧ t.campaign c.id = some { c with state := .waiting } ∧ ∀ id, id ≠ c.id → t.campaign id = b.campaign id) ∧
      (c.state ≠ .running → c.state ≠ .opening → t = b)) ∧
    (∀ k e, b.repair.find k = some e →
      let t := b.entryLoses k
      (e.stepLane = none → e.phase = .fetching → t = b.entryToWaiting k) ∧
      (e.stepLane = none → e.phase ≠ .fetching → t = b) ∧
      (e.stepLane = some l → ln.exchange ≠ .idle → t = stopped) ∧
      (e.stepLane = some l → ln.exchange = .idle → ln.state = .engaged → ∃ w : Block, ended w ∧ w.repair = b.repair ∧ w.store = b.store ∧ w.sched = b.sched ∧
        (e.phase = .fetching → t = w.entryToWaiting k) ∧
        (e.phase = .rewriting → t = (w.updEntry k (fun x => { x with phase := .staged, stepLane := none })).rewriteTest k) ∧
        (e.phase = .readback → t = w.updEntry k (fun x => { x with stepLane := none })))) ∧
    (∀ id it, ln.item = some it →
      let t := b.finishItem l id
      (ln.state = .yielding → t = (b.haltSession l).toLent l .ready) ∧
      (ln.state ≠ .yielding → it.stopping = false → t = (b.toReady l).chooseNext id) ∧
      (ln.state ≠ .yielding → it.stopping = true →
        t.lane l = { ln with state := .ready, item := none, session := none, sent := ln.sent ++ (ln.session.map (fun x => SentUnit.halt x.number)).toList } ∧ l ∈ t.asks ∧
        ∀ c, b.sched.head l = some c → b.campaign c.id = some c →
          t.campaign c.id = some (if c.state = .opening ∨ c.state = .running ∨ c.state = .closing then { c with state := .waiting } else c))))

/-- SET PACING (R191): refused RANGE outside its values; taken, the share and the marks are replaced and the mode, the wake mode and the timer stay, and the change of permission that this makes is
taken at once (R181), with what DutyChanges states that it does to campaigns and entries. PACING_GATE_OPENS (R190) asks the
lane's arbiter at the gate's time, to which it brings the clock (log entry 5, DESIGN CHOICE), and with no gate changes nothing (log entry 14, DESIGN CHOICE). The effective ceiling is the lane's in FULL, that times the share in eighths, rounded down and at least 1, for an eligible lane in SHARED, and none
otherwise; the gate opens at the earliest time 4 ms after the exchange's end at which the FETCH's bytes are within the ceiling (R190). -/
def Obligations.PacingGate : Prop :=
  (∀ (s : State) (tag : Byte) (body : List Byte), s.Takes 0x2B tag body →
    let inRange := 1 ≤ fieldAt body 0 1 ∧ fieldAt body 0 1 ≤ 8 ∧ ∀ i, 1 ≤ i → i ≤ 9 → fieldAt body i 1 ≤ 1
    (¬inRange → exec (.setPacing tag body) s = .next (s.replied s.blk 0x2B tag (.refused .range))) ∧
    (inRange → ∃ b : Block, exec (.setPacing tag body) s = .next (s.answered b 0x2B tag (.done [])) ∧ b.duty.share = fieldAt body 0 1 ∧
      (∀ l : Fin 8, b.duty.eligible[l] = (fieldAt body (1 + l.val) 1 == 1)) ∧ b.duty.repairsInShared = (fieldAt body 9 1 == 1) ∧
      b = ({ s.blk with duty := { s.blk.duty with share := b.duty.share, eligible := b.duty.eligible, repairsInShared := b.duty.repairsInShared } } : Block).permissionChange s.blk.duty ∧
      b.duty.mode = s.blk.duty.mode ∧ b.duty.wake = s.blk.duty.wake ∧ b.duty.holdTimer = s.blk.duty.holdTimer)) ∧
  (∀ (s : State) (l : Fin 8), s.Idle →
    ((s.blk.lane l).gate = none → exec (.pacingGateOpens l) s = .next s) ∧
    (∀ t, (s.blk.lane l).gate = some t → exec (.pacingGateOpens l) s = .next (s.after (Block.ask { s.blk with clock := max s.blk.clock t } l)))) ∧
  (∀ (d : Duty) (l : Fin 8) (ceiling : Nat), d.effectiveCeiling l ceiling =
    if d.mode = .full then some ceiling else if d.mode = .shared ∧ d.eligible[l] = true then some (max 1 (ceiling * d.share / 8)) else none) ∧
  (∀ fetchAt bytes endAt ceiling : Nat, 1 ≤ ceiling →
    let within := fun t => endAt + 4000 ≤ t ∧ fetchAt ≤ t ∧ bytes * 1000000 ≤ (t - fetchAt) * (ceiling * 1048576)
    fetchAt ≤ endAt → within (gateTime fetchAt bytes endAt (some ceiling)) ∧ ∀ t, within t → gateTime fetchAt bytes endAt (some ceiling) ≤ t)

/-- CALIBRATE LANE (R81, R192): refused RANGE, STATE and BUSY in that order; taken, a session of 256 MiB is started under the next session number and the lane is CALIBRATING. Its END
(R81, R193) is malformed before every byte has come, and then sends HALT, sets the ceiling to seven eighths of the measured rate between 1 and 2,048 MiB/s and takes the lane to READY. -/
def Obligations.CalibrateLaneRuns : Prop :=
  (∀ (s : State) (tag : Byte) (body : List Byte), s.Takes 0x2C tag body →
    let refused := fun r => exec (.calibrateLane tag body) s = .next (s.replied s.blk 0x2C tag (.refused r))
    (8 ≤ fieldAt body 0 1 → refused .range) ∧
    (∀ l, laneOf (fieldAt body 0 1) = some l →
      let ln := s.blk.lane l
      let busy := ∃ c, s.blk.sched.head l = some c ∧ c.state ≠ .waiting
      (ln.state ≠ .ready → refused .state) ∧
      (ln.state = .ready → busy → refused .busy) ∧
      (ln.state = .ready → ¬busy →
        let n := ln.nextSession
        let run : Calibration := { session := n, firstAt := none, bytes := 0 }
        let calibrating := s.blk.updLane l (fun x => { x with
          state := .calibrating, item := some { kind := .calibrationRun, owner := .duty },
          session := some { number := n, kind := .calibration, span := none, owner := .duty }, nextSession := if n < 255 then n + 1 else 1,
          exchange := .calibration 268435456 0, stallTimer := some (s.blk.clock + ln.settings.stallLimit * 500000), sent := x.sent ++ [.calibrate n 268435456] })
        exec (.calibrateLane tag body) s = .next (s.replied { calibrating with
          duty := { s.blk.duty with calibration := s.blk.duty.calibration.set l.val (some run) l.isLt } } 0x2C tag (.done []))))) ∧
  (∀ (s : State) (l : Fin 8) (session : Byte) (crc : Word32) (size bytes : Nat), s.Hears l 0x11 session [] crc → (s.blk.lane l).exchange = .calibration size bytes →
    let ln := s.blk.lane l
    let answer := exec (.endUnit l session [] crc) s
    (bytes ≠ size → answer = .next (s.after (s.blk.malformed l))) ∧
    (∀ run t, bytes = size → s.blk.duty.calibration[l] = some run → run.firstAt = some t →
      let time := max 1 (s.blk.clock - t)
      let ceiling := min 2048 (max 1 (224000000 / time))
      ∃ b : Block, answer = .next (s.after b) ∧ b.duty.calibration[l] = none ∧ b.duty.lastCalibration[l] = some (.done time ceiling) ∧
        b.port.raised.getLast? = some (.calibrationDone l (.done time ceiling) ceiling ln.settings.ceiling) ∧
        b.lane l = { ln with
          state := .ready, item := none, session := none, exchange := .idle, stallTimer := none, settings := { ln.settings with ceiling := ceiling },
          sent := ln.sent ++ (ln.session.map (fun x => SentUnit.halt x.number)).toList, gate := (b.lane l).gate, pacing := (b.lane l).pacing } ∧
        (∀ j, j ≠ l → b.lane j = s.blk.lane j)))

/-! ## RESTART ENGINE -/

/-- RESTART ENGINE (R27, R42, R70, R91, R123, R148, R178, R196, R207, R208). The port keeps the frame being sent, the first of its outbound queue (log entry 6, DEDUCED), then come the reply, the
CALIBRATION_DONE of each run aborted in rising order of the lanes (log entry 21, DEDUCED), and ENGINE_UP with the values kept; gap marker, dropped count and the requests behind are gone, and the receiver stays. Campaigns, pending findings, loading
and closing manifests (their frames back in the pool), digest units and captured contents are gone; the log, the flags, the profiles, the READY and DISCORDANT manifests, the Suspect List, the
settings and the programming of the slots are kept; every entry is WAITING, and awaits no pending finding (log entry 30); the part is HELD with the mode it had to wake to. -/
def Obligations.RestartEngineKeeps : Prop :=
  ∀ (s : State) (tag : Byte) (body : List Byte), s.Takes 0x3F tag body →
    let b := s.blk
    let r := b.restarted
    let wake := match b.duty.mode with | .full => WakeMode.full | .shared => .shared | .held => b.duty.wake
    let aborted := (allLanes.filter (fun l => (b.duty.calibration[l]).isSome)).map (fun l =>
      Notice.calibrationDone l (.aborted .restart) (b.lane l).settings.ceiling (b.lane l).settings.ceiling)
    let kept := fun m : Manifest => m.state = .ready ∨ m.state = .discordant
    let up := Notice.engineUp .restart (b.recorder.nextSequence - 1) (allSlots.countP (fun k => (b.store.manifest k).any (fun m => decide (kept m)))) b.repair.list.length
      b.sched.nextId wake
    exec (.restartEngine tag body) s = .next (s.answered (r.raise (r.engineUp .restart)) 0x3F tag (.done [])) ∧
    (∃ t, exec (.restartEngine tag body) s = .next t ∧ t.blk = { r with port := { b.port with
      inbound := [], gap := false, dropped := 0,
      outbound := b.port.outbound.take 1 ++ .reply 0xBF tag (.done []) :: (aborted ++ [up]).map OutFrame.notice } }) ∧
    r.sched = { table := [], nextId := b.sched.nextId } ∧ r.recorder = { b.recorder with pending := [] } ∧ r.pool = { units := Vector.replicate 4 none, fifo := [] } ∧
    r.staging = b.staging ∧ r.clock = b.clock ∧ r.epoch = b.clock ∧
    (r.duty.mode = .held ∧ r.duty.holdTimer = none ∧ r.duty.wake = wake ∧
      r.duty.share = b.duty.share ∧ r.duty.eligible = b.duty.eligible ∧ r.duty.repairsInShared = b.duty.repairsInShared) ∧
    (∀ l : Fin 8, r.duty.calibration[l] = none ∧ r.duty.lastCalibration[l] = if (b.duty.calibration[l]).isSome then some (.aborted .restart) else b.duty.lastCalibration[l]) ∧
    (∀ k : Fin 16, r.capture[k] = { b.capture[k] with content := none, lastLane := none, seen := false, faulty := false, timer := none }) ∧
    (∀ k m, b.store.manifest k = some m →
      let records := m.records.map (fun x : FrameRecord => if x.state = .inRepair then { x with state := .suspect, detail := none, visiting := false } else { x with visiting := false })
      r.store.manifest k = if m.state = .loading ∨ m.state = .closing then none
        else some { m with records := records, campaignPins := 0, suspectPins := b.repair.list.countP (fun e => e.key.slot == k) }) ∧
    (∀ k, b.store.manifest k = none → r.store.manifest k = none) ∧
    r.store.free = b.store.free + (allSlots.map (fun k => match b.store.manifest k with | some m => if kept m then 0 else m.count | none => 0)).sum ∧
    (r.store.unit = none ∧ r.store.fifo = []) ∧
    (r.repair.freeExtents = List.range 64 ∧ r.repair.rewriteEnabled = b.repair.rewriteEnabled ∧
      r.repair.list = b.repair.list.map (fun e => { e with
        phase := .waiting, extents := none, context := none, stepLane := none, awaits := none,
        interrupted := e.interrupted || e.stepLane.any (fun l => (b.lane l).exchange.isRewrite) })) ∧
    (∀ l, let ln := b.lane l
      let up := if ln.settings.keepAlive then LaneState.ready else .off
      (r.lane l).settings = ln.settings ∧ (r.lane l).restarts = 0 ∧ (r.lane l).pacing = none ∧ (r.lane l).gate = none ∧ (r.lane l).nextSession = ln.nextSession ∧
      (ln.state = .engaged ∨ ln.state = .calibrating ∨ (ln.state = .ready ∧ ln.item = none) →
        (r.lane l).state = up ∧ (r.lane l).session = none ∧ (r.lane l).putDownByHold = (ln.putDownByHold || !ln.settings.keepAlive)) ∧
      (ln.state = .yielding → (r.lane l).state = .lent ∧ (r.lane l).resumeTarget = some .ready ∧ (r.lane l).session = none) ∧
      (ln.state = .off ∨ ln.state = .settling ∨ ln.state = .lent ∨ ln.state = .stalled → r.lane l = { ln with restarts := 0, pacing := none, gate := none }))

/-! ## The work arbiter -/

/-- The work arbiter's turn (R57, R98, R102, R107, R158, R182): a lane that is not READY, or has an item, is left alone; in HELD a lane without keep-alive is put down; otherwise the oldest
pending repair step starts, a head campaign whose session it ends going to WAITING with nothing else of it changed (R109), and with none pending the head campaign, where the duty mode permits it: WAITING, it opens its span; RUNNING, it claims a digest unit for the frame at its
resume point once the pacing gate is open, or closes its span when it has passed its window. While a digest unit is FREE, the head claim is granted before any arbiter acts (R31; log entry 13): it
takes the lowest FREE unit, every bit of the remainder set. A repair step's lane then sends FETCH. A campaign's makes the visit claim (R20, R102): granted, the record is marked visiting and the
lane sends FETCH and notes its time (R189); refused, the unit is released unused (R32), the lane is READY, and the frame is skipped with the run of IN_REPAIR records behind it (R101). -/
def Obligations.ArbiterTakesTurn : Prop :=
  (∀ (b : Block) (l : Fin 8),
    let ln := b.lane l
    let n := ln.nextSession
    let stays := (b.duty.mode = .held → ln.settings.keepAlive = true)
    let limit := some (b.clock + ln.settings.stallLimit * 500000)
    (¬(ln.state = .ready ∧ ln.item = none) → b.arbiter l = b) ∧
    (ln.state = .ready → ln.item = none →
      (¬stays → b.arbiter l = b.putDownByHold l false) ∧
      (∀ e m, stays → b.pendingStep l = some e → b.store.manifest e.key.slot = some m →
        let t := b.arbiter l
        t.lane l = { ln with
          state := .engaged, item := some { kind := .repairStep, owner := .entry e.key }, exchange := .opening, stallTimer := limit,
          session := some { number := n, kind := .repair, span := some (m.reel, m.span), owner := .entry e.key }, nextSession := if n < 255 then n + 1 else 1,
          sent := ln.sent ++ (ln.session.map (fun x => SentUnit.halt x.number)).toList ++ [.openSpan n m.reel m.span] } ∧
        t.repair = b.repair.upd e.key (fun x => { x with stepLane := some l, phase := if x.phase = .staged then .rewriting else x.phase }) ∧
        (b.sched.head l = none → t.sched = b.sched) ∧
        (∀ c, b.sched.head l = some c → b.campaign c.id = some c →
          t.campaign c.id = some (if c.state = .opening ∨ c.state = .running ∨ c.state = .closing then { c with state := .waiting } else c) ∧
          ∀ id, id ≠ c.id → t.campaign id = b.campaign id)) ∧
      (stays → b.pendingStep l = none → b.sched.head l = none ∨ b.duty.mayRun l = false → b.arbiter l = b) ∧
      (∀ c, stays → b.pendingStep l = none → b.sched.head l = some c → b.duty.mayRun l = true →
        (∀ m, c.state = .waiting → b.store.manifest c.slot = some m →
          b.arbiter l = ({ b with sched := b.sched.upd c.id (fun x => { x with state := .opening }) } : Block).updLane l (fun x => { x with
            state := .engaged, item := some { kind := .campaignAction, owner := .campaign c.id }, exchange := .opening, stallTimer := limit,
            session := some { number := n, kind := .campaign, span := some (m.reel, m.span), owner := .campaign c.id }, nextSession := if n < 255 then n + 1 else 1,
            sent := x.sent ++ [.openSpan n m.reel m.span] })) ∧
        (c.state = .running → c.resumePoint = none →
          b.arbiter l = ({ b with sched := b.sched.upd c.id (fun x => { x with state := .closing }) } : Block).updLane l (fun x => { x with
            state := .engaged, item := some { kind := .campaignAction, owner := .campaign c.id }, exchange := .closing, stallTimer := limit,
            sent := x.sent ++ [.close ln.sessionNumber] })) ∧
        (∀ frame, c.state = .running → c.resumePoint = some frame →
          let open_ := ∀ t, ln.gate = some t → t ≤ b.clock
          let claim : Claim := { lane := l, kind := .campaignFrame, owner := .campaign c.id, slot := c.slot, frame := frame, recLength := b.store.recordedLength c.slot frame }
          (¬open_ → b.arbiter l = b) ∧
          (open_ → b.arbiter l = { b.updLane l (fun x => { x with state := .engaged, item := some { kind := .campaignAction, owner := .campaign c.id } }) with
            pool := { b.pool with fifo := b.pool.fifo ++ [claim] } }))))) ∧
  (∀ (b : Block) (c : Claim) (rest : List Claim) (i : Fin 4) (turns : Nat), b.pool.fifo = c :: rest → b.pool.units[i] = none → (∀ j, j < i → b.pool.units[j] ≠ none) →
    let l := c.lane
    let limit := some (b.clock + (b.lane l).settings.stallLimit * 500000)
    let unit : DigestUnit := { claim := c, running := false, received := 0, remainder := 0xFFFFFFFFFFFFFFFF }
    let granted := { b with pool := { units := b.pool.units.set i.val (some unit) i.isLt, fifo := rest } }
    let frame : FrameExchange := { phase := .awaitingMark, fetched := c.frame, delivered := none, announced := none, soFar := 0 }
    let fetching := fun ln : Lane => { ln with exchange := .frame frame, stallTimer := limit, sent := ln.sent ++ [.fetch ln.sessionNumber c.frame] }
    let after := b.grant i c rest
    Block.settleFrom (turns + 1) b = Block.settleFrom turns after ∧
    (∀ k, c.owner = .entry k → after = granted.updLane l fetching) ∧
    (∀ id r, c.owner = .campaign id → b.store.record c.slot c.frame = some r →
      (r.state ≠ .inRepair → after = { granted.updLane l (fun ln => { fetching ln with pacing := some { fetchAt := b.clock, ended := ln.pacing.bind Pacing.ended } }) with
        store := b.store.updRecord c.slot c.frame (fun x => { x with visiting := true }) }) ∧
      (∀ d first, r.state = .inRepair → b.campaign id = some d → d.state = .running → d.resumePoint = some first → 0 < d.step →
        let point := fun n => if first + n * d.step ≤ d.windowLast then some (first + n * d.step) else none
        let skips := fun f => ∀ x, b.store.record d.slot f = some x → x.state = .inRepair
        ∃ n, 1 ≤ n ∧ after.campaign id = some { d with
            resumePoint := point n, frameRestarts := 0, counts := { d.counts with skipped := d.counts.skipped + n } } ∧
          after.lanes = (b.updLane l (fun ln => { ln with state := .ready, item := none })).lanes ∧ after.pool = granted.pool.release l ∧ after.store = b.store ∧
          after.repair = b.repair ∧ after.recorder = b.recorder ∧ after.port = b.port ∧ l ∈ after.asks ∧
          (∀ j f, 1 ≤ j → j < n → point j = some f → skips f) ∧ (∀ f, point n = some f → ∃ x, b.store.record d.slot f = some x ∧ x.state ≠ .inRepair))))
end

