-- ==== Sys2Proof/Laws/PerInstr.lean ====
section
/-! SUPPORT. What every well-formed command carries, one lemma for each constructor: the family Shape of LAWS.json. -/
namespace Sys2Proof.Machine

/-- The kinds the port gives a body length are the kinds of R202. -/
theorem requestLength_isSome (kind : Byte) (body : List Byte) : (requestLength kind body).isSome = true ↔ kind ∈ requestKinds := by
  have empty : (requestLength kind body).isSome = (requestLength kind []).isSome := by
    unfold requestLength
    split <;> rfl
  rw [empty]
  have all : ∀ n : Fin 256, (requestLength (BitVec.ofNat 8 n.val) []).isSome = true ↔ BitVec.ofNat 8 n.val ∈ requestKinds := by decide +kernel
  have e : kind = BitVec.ofNat 8 (⟨kind.toNat, kind.isLt⟩ : Fin 256).val := by simp
  rw [e]
  exact all _

end Sys2Proof.Machine

namespace Sys2Proof.Laws.Shape
open Sys2Proof.Machine

/-- A well-formed command that stands for a request has a tag other than 0 and at most 1,024 body bytes (R197), and the port knows its kind unless the command is
NOT_A_REQUEST_KIND (R202). -/
def Statement (c : Instr) : Prop :=
  c.wellFormed = true → ∀ r, requestOf c = some r →
    r.tag ≠ 0 ∧ r.body.length ≤ 1024 ∧ ((requestLength r.kind r.body).isSome = true ↔ ∀ kind tag body, c ≠ .notARequestKind kind tag body)

/-- A command that stands for no request. -/
theorem of_none {c : Instr} (h : requestOf c = none) : Statement c := by
  intro _ r hr
  rw [h] at hr
  cases hr

/-- A command that stands for a request of a kind of R202. -/
theorem of_request {c : Instr} {kind tag : Byte} {body : List Byte} (h : requestOf c = some { kind := kind, tag := tag, body := body })
    (hw : c.wellFormed = requestFits tag body) (hk : kind ∈ requestKinds) (hn : ∀ kind tag body, c ≠ .notARequestKind kind tag body) : Statement c := by
  intro w r hr
  rw [h] at hr
  cases hr
  rw [hw, requestFits, Bool.and_eq_true, bne_iff_ne, decide_eq_true_eq] at w
  exact ⟨w.1, w.2, fun _ => hn, fun _ => (requestLength_isSome _ _).2 hk⟩

theorem powerUp : Statement .powerUp := of_none rfl
theorem resetLineAsserted : Statement .resetLineAsserted := of_none rfl
theorem resetLineReleased : Statement .resetLineReleased := of_none rfl
theorem controlLinkFrame (bytes : List Byte) : Statement (.controlLinkFrame bytes) := of_none rfl
theorem frameGapExpired : Statement .frameGapExpired := of_none rfl
theorem frameSent : Statement .frameSent := of_none rfl
theorem notARequestKind (kind tag : Byte) (body : List Byte) : Statement (.notARequestKind kind tag body) := by
  intro w r hr
  cases hr
  simp only [Instr.wellFormed, requestFits, Bool.and_eq_true, bne_iff_ne, decide_eq_true_eq, Bool.not_eq_true', List.contains_eq_mem,
    decide_eq_false_iff_not] at w
  exact ⟨w.1.1, w.1.2, fun e => absurd ((requestLength_isSome _ _).1 e) w.2, fun e => absurd rfl (e kind tag body)⟩
theorem openManifest (tag : Byte) (body : List Byte) : Statement (.openManifest tag body) := of_request rfl rfl (by decide) (by intro _ _ _ e; cases e)
theorem loadRecords (tag : Byte) (body : List Byte) : Statement (.loadRecords tag body) := of_request rfl rfl (by decide) (by intro _ _ _ e; cases e)
theorem completeManifest (tag : Byte) (body : List Byte) : Statement (.completeManifest tag body) := of_request rfl rfl (by decide) (by intro _ _ _ e; cases e)
theorem eraseManifest (tag : Byte) (body : List Byte) : Statement (.eraseManifest tag body) := of_request rfl rfl (by decide) (by intro _ _ _ e; cases e)
theorem bindCopies (tag : Byte) (body : List Byte) : Statement (.bindCopies tag body) := of_request rfl rfl (by decide) (by intro _ _ _ e; cases e)
theorem readManifest (tag : Byte) (body : List Byte) : Statement (.readManifest tag body) := of_request rfl rfl (by decide) (by intro _ _ _ e; cases e)
theorem readRecords (tag : Byte) (body : List Byte) : Statement (.readRecords tag body) := of_request rfl rfl (by decide) (by intro _ _ _ e; cases e)
theorem bringUpLane (tag : Byte) (body : List Byte) : Statement (.bringUpLane tag body) := of_request rfl rfl (by decide) (by intro _ _ _ e; cases e)
theorem putDownLane (tag : Byte) (body : List Byte) : Statement (.putDownLane tag body) := of_request rfl rfl (by decide) (by intro _ _ _ e; cases e)
theorem restartLane (tag : Byte) (body : List Byte) : Statement (.restartLane tag body) := of_request rfl rfl (by decide) (by intro _ _ _ e; cases e)
theorem setLane (tag : Byte) (body : List Byte) : Statement (.setLane tag body) := of_request rfl rfl (by decide) (by intro _ _ _ e; cases e)
theorem readLane (tag : Byte) (body : List Byte) : Statement (.readLane tag body) := of_request rfl rfl (by decide) (by intro _ _ _ e; cases e)
theorem setCapture (tag : Byte) (body : List Byte) : Statement (.setCapture tag body) := of_request rfl rfl (by decide) (by intro _ _ _ e; cases e)
theorem readCapture (tag : Byte) (body : List Byte) : Statement (.readCapture tag body) := of_request rfl rfl (by decide) (by intro _ _ _ e; cases e)
theorem verify (tag : Byte) (body : List Byte) : Statement (.verify tag body) := of_request rfl rfl (by decide) (by intro _ _ _ e; cases e)
theorem resumeCampaign (tag : Byte) (body : List Byte) : Statement (.resumeCampaign tag body) := of_request rfl rfl (by decide) (by intro _ _ _ e; cases e)
theorem abandonCampaign (tag : Byte) (body : List Byte) : Statement (.abandonCampaign tag body) := of_request rfl rfl (by decide) (by intro _ _ _ e; cases e)
theorem dismissCampaign (tag : Byte) (body : List Byte) : Statement (.dismissCampaign tag body) := of_request rfl rfl (by decide) (by intro _ _ _ e; cases e)
theorem readCampaign (tag : Byte) (body : List Byte) : Statement (.readCampaign tag body) := of_request rfl rfl (by decide) (by intro _ _ _ e; cases e)
theorem readFindings (tag : Byte) (body : List Byte) : Statement (.readFindings tag body) := of_request rfl rfl (by decide) (by intro _ _ _ e; cases e)
theorem acknowledge (tag : Byte) (body : List Byte) : Statement (.acknowledge tag body) := of_request rfl rfl (by decide) (by intro _ _ _ e; cases e)
theorem setProfile (tag : Byte) (body : List Byte) : Statement (.setProfile tag body) := of_request rfl rfl (by decide) (by intro _ _ _ e; cases e)
theorem selectProfile (tag : Byte) (body : List Byte) : Statement (.selectProfile tag body) := of_request rfl rfl (by decide) (by intro _ _ _ e; cases e)
theorem readFlags (tag : Byte) (body : List Byte) : Statement (.readFlags tag body) := of_request rfl rfl (by decide) (by intro _ _ _ e; cases e)
theorem clearFlags (tag : Byte) (body : List Byte) : Statement (.clearFlags tag body) := of_request rfl rfl (by decide) (by intro _ _ _ e; cases e)
theorem enqueueSuspects (tag : Byte) (body : List Byte) : Statement (.enqueueSuspects tag body) := of_request rfl rfl (by decide) (by intro _ _ _ e; cases e)
theorem withdrawSuspect (tag : Byte) (body : List Byte) : Statement (.withdrawSuspect tag body) := of_request rfl rfl (by decide) (by intro _ _ _ e; cases e)
theorem readSuspects (tag : Byte) (body : List Byte) : Statement (.readSuspects tag body) := of_request rfl rfl (by decide) (by intro _ _ _ e; cases e)
theorem setRepair (tag : Byte) (body : List Byte) : Statement (.setRepair tag body) := of_request rfl rfl (by decide) (by intro _ _ _ e; cases e)
theorem setDuty (tag : Byte) (body : List Byte) : Statement (.setDuty tag body) := of_request rfl rfl (by decide) (by intro _ _ _ e; cases e)
theorem hold (tag : Byte) (body : List Byte) : Statement (.hold tag body) := of_request rfl rfl (by decide) (by intro _ _ _ e; cases e)
theorem wake (tag : Byte) (body : List Byte) : Statement (.wake tag body) := of_request rfl rfl (by decide) (by intro _ _ _ e; cases e)
theorem setPacing (tag : Byte) (body : List Byte) : Statement (.setPacing tag body) := of_request rfl rfl (by decide) (by intro _ _ _ e; cases e)
theorem calibrateLane (tag : Byte) (body : List Byte) : Statement (.calibrateLane tag body) := of_request rfl rfl (by decide) (by intro _ _ _ e; cases e)
theorem readDuty (tag : Byte) (body : List Byte) : Statement (.readDuty tag body) := of_request rfl rfl (by decide) (by intro _ _ _ e; cases e)
theorem restartEngine (tag : Byte) (body : List Byte) : Statement (.restartEngine tag body) := of_request rfl rfl (by decide) (by intro _ _ _ e; cases e)
theorem hello (lane : Fin 8) (session : Byte) (body : List Byte) (crc : Word32) : Statement (.hello lane session body crc) := of_none rfl
theorem header (lane : Fin 8) (session : Byte) (body : List Byte) (crc : Word32) : Statement (.header lane session body crc) := of_none rfl
theorem mark (lane : Fin 8) (session : Byte) (body : List Byte) (crc : Word32) : Statement (.mark lane session body crc) := of_none rfl
theorem payload (lane : Fin 8) (session : Byte) (body : List Byte) (crc : Word32) : Statement (.payload lane session body crc) := of_none rfl
theorem endUnit (lane : Fin 8) (session : Byte) (body : List Byte) (crc : Word32) : Statement (.endUnit lane session body crc) := of_none rfl
theorem trailer (lane : Fin 8) (session : Byte) (body : List Byte) (crc : Word32) : Statement (.trailer lane session body crc) := of_none rfl
theorem notFound (lane : Fin 8) (session : Byte) (body : List Byte) (crc : Word32) : Statement (.notFound lane session body crc) := of_none rfl
theorem fault (lane : Fin 8) (session : Byte) (body : List Byte) (crc : Word32) : Statement (.fault lane session body crc) := of_none rfl
theorem annotation (lane : Fin 8) (session : Byte) (body : List Byte) (crc : Word32) : Statement (.annotation lane session body crc) := of_none rfl
theorem yield (lane : Fin 8) (session : Byte) (body : List Byte) (crc : Word32) : Statement (.yield lane session body crc) := of_none rfl
theorem resume (lane : Fin 8) (session : Byte) (body : List Byte) (crc : Word32) : Statement (.resume lane session body crc) := of_none rfl
theorem rewriteDone (lane : Fin 8) (session : Byte) (body : List Byte) (crc : Word32) : Statement (.rewriteDone lane session body crc) := of_none rfl
theorem rewriteFailed (lane : Fin 8) (session : Byte) (body : List Byte) (crc : Word32) : Statement (.rewriteFailed lane session body crc) := of_none rfl
theorem unknownUnitType (lane : Fin 8) (type : Byte) (session : Byte) (body : List Byte) (crc : Word32) : Statement (.unknownUnitType lane type session body crc) := of_none rfl
theorem rewriteEndSent (lane : Fin 8) : Statement (.rewriteEndSent lane) := of_none rfl
theorem settleWaitExpired (lane : Fin 8) : Statement (.settleWaitExpired lane) := of_none rfl
theorem stallTimerExpired (lane : Fin 8) : Statement (.stallTimerExpired lane) := of_none rfl
theorem freshnessTimerExpired (slot : Fin 16) : Statement (.freshnessTimerExpired slot) := of_none rfl
theorem holdTimerExpired : Statement .holdTimerExpired := of_none rfl
theorem pacingGateOpens (lane : Fin 8) : Statement (.pacingGateOpens lane) := of_none rfl
theorem rollupCompletes : Statement .rollupCompletes := of_none rfl

end Sys2Proof.Laws.Shape
end

