-- ==== Sys2Proof/Tests/Slice0.lean ====
section
/-! SUPPORT. Tests on small states: well-formedness, the checks, one step of each command, and states that meet the hypotheses of the statements. -/
namespace Sys2Proof.Tests
open Sys2Proof.Machine
set_option Elab.async false

/-! ## Helpers -/

/-- The CRC-32 of a unit. -/
def crcOf (type : Byte) (session : Byte) (body : List Byte) : Word32 := crc32 (unitBytes type session body)

/-- A state whose port holds one request, at the head of its queue, and nothing else. -/
def asked (b : Block) (kind : Byte) (body : List Byte) : State :=
  { blk := { b with port := { b.port with inbound := [{ kind := kind, tag := 1, body := body }], outbound := [] } }, pending := [] }

/-- What the port and the blocks need to take the request. -/
def takeable (b : Block) (kind : Byte) (body : List Byte) : Bool :=
  !b.resetLine && b.asks.isEmpty && b.pool.fifo.isEmpty && b.port.raised.isEmpty && requestLength kind body == some body.length &&
    requestModes kind b.duty.mode

theorem takes {b : Block} {kind : Byte} {body : List Byte} (h : takeable b kind body = true) : (asked b kind body).Takes kind 1 body := by
  simp only [takeable, Bool.and_eq_true, Bool.not_eq_true', List.isEmpty_iff, beq_iff_eq] at h
  obtain ⟨⟨⟨⟨⟨h1, h2⟩, h3⟩, h4⟩, h5⟩, h6⟩ := h
  exact { live := h1, head := rfl, place := Nat.zero_lt_succ 3, quiet := ⟨h2, Or.inl h3⟩, told := h4, form := h5, mode := h6 }

/-- A state with nothing to do. -/
def still (b : Block) : State := { blk := b, pending := [] }

theorem idle {b : Block} (h : (!b.resetLine && b.asks.isEmpty && b.pool.fifo.isEmpty && b.port.raised.isEmpty) = true) : (still b).Idle := by
  simp only [Bool.and_eq_true, Bool.not_eq_true', List.isEmpty_iff] at h
  exact ⟨h.1.1.1, ⟨h.1.1.2, Or.inl h.1.2⟩, h.2⟩

/-- The part that a step leaves, where it answers a next state. -/
def left (o : Host.Outcome State Fault Refusal) : Option Block :=
  match o with
  | .next s => some s.blk
  | .fault _ => none
  | .refused _ => none

/-- The part after a request that the port takes. -/
def ran (c : Byte → List Byte → Instr) (b : Block) (kind : Byte) (body : List Byte) : Option Block := left (exec (c 1 body) (asked b kind body))

/-- The part after a unit of lane 0's open session, or after a link unit (session 0), with its CRC-32 right. -/
def heard (c : Fin 8 → Byte → List Byte → Word32 → Instr) (type session : Byte) (b : Block) (body : List Byte) : Option Block :=
  left (exec (c 0 session body (crcOf type session body)) (still b))

/-- The part after a command that is no request and no unit. -/
def taken (c : Instr) (b : Block) : Option Block := left (exec c (still b))

/-- The reply that stands first in the outbound queue. -/
def replyOf (b : Option Block) : Option Reply :=
  match b with
  | some b => match b.port.outbound with
    | .reply _ _ r :: _ => some r
    | _ => none
  | none => none

theorem hears {b : Block} {l : Fin 8} {type session : Byte} {body : List Byte} (h1 : b.resetLine = false) (h2 : session ≠ 0)
    (h3 : (b.lane l).sessionNumber = session.toNat) : (still b).Hears l type session body (crcOf type session body) :=
  ⟨h1, by simp [unitCrcGood, crcOf], h2, h3⟩

/-! ## States -/

/-- The part after power-up, HELD. -/
def held : Block := State.reset.blk

/-- The same in FULL. -/
def full : Block := { held with duty := { held.duty with mode := .full } }

/-- A manifest of two frames of three bytes, proved READY. -/
def reelOne : Manifest :=
  { state := .ready, reel := 1, span := 2, first := 100, count := 2,
    records := [{ length := some 3, digest := l64 [1, 2, 3] }, { length := some 3, digest := l64 [4, 5, 6] }],
    expected := some 7, computed := some 7, copyA := some 0, copyB := some 1 }

/-- The part with a manifest in slot 0. -/
def stored (b : Block) (m : Manifest) : Block := { b with store := { b.store.put 0 (some m) with free := 16384 - m.count } }

/-- Lane 0 in a state, with a reader that can rewrite frames of up to 1,024 bytes. -/
def laned (b : Block) (st : LaneState) : Block := b.updLane 0 (fun ln => { ln with state := st, caps := some { rewritable := true, largest := 1024 } })

/-- A campaign on lane 0 over the manifest in slot 0. -/
def visit : Campaign :=
  { id := 1, lane := 0, slot := 0, windowFirst := 100, windowLast := 101, step := 1, profile := .numbered 0, disregard := 0, state := .running, resumePoint := some 100 }

/-- The part with a campaign. -/
def campaigning (b : Block) (c : Campaign) : Block := { b with sched := { table := [c], nextId := 2 }, store := b.store.pinCampaign 0 }

/-- Lane 0 ENGAGED for the campaign, with its session open and an exchange in flight. -/
def engaged (b : Block) (x : Exchange) : Block := (laned b .engaged).updLane 0 (fun ln => { ln with
    item := some { kind := .campaignAction, owner := .campaign 1 }, exchange := x, nextSession := 2, stallTimer := some 10000000,
    session := some { number := 1, kind := .campaign, span := some (1, 2), owner := .campaign 1 } })

/-- A repair entry for frame 100 of slot 0, damaged on lane 0 with its source on lane 1. -/
def mending (phase : RepairPhase) : Entry :=
  { key := { slot := 0, frame := 100 }, cause := none, sequence := none, damaged := 0, source := 1, rewriteAllowed := true, phase := phase,
    extents := some [0], context := some 0, stepLane := some 0 }

/-- The part with the entry, its record IN_REPAIR, and its step in hand on lane 0. -/
def repairing (b : Block) (e : Entry) (x : Exchange) : Block :=
  ({ b with repair := { b.repair with list := [e], freeExtents := b.repair.freeExtents.drop 1 },
            store := (b.store.queueClaim 0 100).repairStart 0 100 } : Block).updLane 0 (fun ln => { ln with
    state := .engaged, caps := some { rewritable := true, largest := 1024 }, item := some { kind := .repairStep, owner := .entry e.key }, exchange := x,
    nextSession := 2, session := some { number := 1, kind := .repair, span := some (1, 2), owner := .entry e.key } })

/-- A digest unit held by lane 0 for frame 100. -/
def digesting (b : Block) (kind : ClaimKind) (owner : Owner) : Block := { b with pool := b.pool.setUnit 0 (some
  { claim := { lane := 0, kind := kind, owner := owner, slot := 0, frame := 100, recLength := 3 }, running := true, received := 0, remainder := l64Start }) }

/-- A frame exchange for frame 100. -/
def frame (phase : FramePhase) (announced : Option Nat) : Exchange :=
  .frame { phase := phase, fetched := 100, delivered := announced.map (fun _ => 100), announced := announced, soFar := 0 }

/-- A finding with a sequence number. -/
def noted (n : Nat) : Finding :=
  { sequence := some n, cls := .short, recognised := 8, halted := false, profile := 0, campaign := 1, lane := 0, slot := 0, reel := 1, span := 2, frame := some 100,
    delivered := none, verdict := some .missized, annotation := none, acknowledged := false }

/-! ## Well-formedness -/

theorem test_tag_zero_refused : (Instr.openManifest 0 []).wellFormed = false ∧ (Instr.restartEngine 0 []).wellFormed = false := by decide
theorem test_tag_one_taken : (Instr.openManifest 1 []).wellFormed = true ∧ (Instr.openManifest 255 []).wellFormed = true := by decide
theorem test_long_body_refused (n : Nat) (h : 1025 ≤ n) : (Instr.loadRecords 1 (List.replicate n 0)).wellFormed = false := by
  have : ¬ n ≤ 1024 := by omega
  simp [Instr.wellFormed, requestFits, this]
theorem test_longest_body_taken (n : Nat) (h : n ≤ 1024) : (Instr.loadRecords 1 (List.replicate n 0)).wellFormed = true := by
  simp [Instr.wellFormed, requestFits, h]
theorem test_listed_kind_refused : (Instr.notARequestKind 0x01 1 []).wellFormed = false ∧ (Instr.notARequestKind 0x0F 1 []).wellFormed = true ∧
    (Instr.notARequestKind 0x0F 0 []).wellFormed = false := by decide
theorem test_huge_unit_refused (n : Nat) (h : 16777216 ≤ n) : (Instr.payload 0 1 (List.replicate n 0) 0).wellFormed = false := by
  have : ¬ n < 16777216 := by omega
  simp [Instr.wellFormed, unitFits, this]
theorem test_known_type_refused : (Instr.unknownUnitType 0 0x10 0 [] 0).wellFormed = false ∧ (Instr.unknownUnitType 0 0x02 0 [] 0).wellFormed = true := by decide

/-! ## The checks on the text 123456789 -/

theorem test_crc32_of_text : crc32 [0x31, 0x32, 0x33, 0x34, 0x35, 0x36, 0x37, 0x38, 0x39] = 0xFC891918 := by decide +kernel
theorem test_crc16_of_text : crc16 [0x31, 0x32, 0x33, 0x34, 0x35, 0x36, 0x37, 0x38, 0x39] = 0x29B1 := by decide +kernel
theorem test_l64_of_text : l64 [0x31, 0x32, 0x33, 0x34, 0x35, 0x36, 0x37, 0x38, 0x39] = 0x62EC59E3F1A4F00A := by decide +kernel

/-! ## Resets, the queue and the control link -/

theorem test_power_up : left (exec .powerUp (asked full 0x2D [])) = some held := by decide +kernel
theorem test_reset_line : (taken .resetLineAsserted full).map (fun b => (b.resetLine, b.port.inbound)) = some (true, []) ∧
    (taken .resetLineReleased { full with resetLine := true }).map (fun b => (b.resetLine, b.duty.mode)) = some (false, .held) := by decide +kernel
theorem test_step_queue : left (step { still held with pending := [.frameSent, .frameSent] }) = left (exec .frameSent (still held)) ∧
    left (step (still held)) = some { held with clock := 1 } := by decide +kernel
theorem test_control_link_frame : (taken (.controlLinkFrame ([0x00, 0xA5] ++ linkFrame 0x2D 9 [])) held).map (fun b => b.port.inbound) =
    some [{ kind := 0x2D, tag := 9, body := [] }] := by decide +kernel
theorem test_frame_gap : (taken .frameGapExpired { held with port := { held.port with receiver := [0xA5, 0x5A, 0, 0, 0x2D] } }).map
    (fun b => (b.port.receiver, b.port.outbound.getLast?)) = some ([], some (.notice (.frameRejected .gap 0x2D 0))) := by decide +kernel
theorem test_frame_sent : (taken .frameSent held).map (fun b => b.port.outbound) = some [] := by decide +kernel
theorem test_not_a_request_kind : replyOf (left (exec (.notARequestKind 0x0F 1 [7]) (asked held 0x0F [7]))) = some (.refused .kind) := by decide +kernel

/-! ## Requests, one step each -/

/-- The body of OPEN MANIFEST. -/
def opening (slot first count : Nat) : List Byte := beBytes 1 slot ++ beBytes 8 5 ++ beBytes 4 6 ++ beBytes 4 first ++ beBytes 2 count

/-- The body of LOAD RECORDS with one record. -/
def loading (slot start length : Nat) : List Byte := beBytes 1 slot ++ beBytes 2 start ++ [1] ++ beBytes 4 length ++ beBytes 8 9

/-- The manifest in LOADING, its second record unloaded. -/
def half : Manifest := { reelOne with state := .loading, expected := none, computed := none, records := [{ length := some 3 }, {}] }

/-- The manifest in CLOSING, all records loaded. -/
def closing : Manifest := { reelOne with state := .closing, computed := none }

/-- The part with the manifest in the roll-up unit. -/
def rolling (b : Block) (m : Manifest) : Block := { stored b m with store := { (stored b m).store with unit := some 0 } }

theorem test_open_manifest : (ran .openManifest held 0x01 (opening 15 100 2)).map (fun b => (b.store.free, b.store.reserved 15)) = some (16382, 2) := by decide +kernel
theorem test_load_records : replyOf (ran .loadRecords (stored held half) 0x02 (loading 0 1 4)) = some (.done [0, 2]) := by decide +kernel
theorem test_complete_manifest : (ran .completeManifest (stored held { half with records := reelOne.records }) 0x03 (beBytes 1 0 ++ beBytes 8 7)).map
    (fun b => (b.store.unit, (b.store.manifest 0).map Manifest.state)) = some (some 0, some .closing) := by decide +kernel
theorem test_erase_manifest : (ran .eraseManifest (rolling held closing) 0x04 [0]).map (fun b => (b.store.free, b.store.unit, b.store.manifest 0)) =
    some (16384, none, none) := by decide +kernel
theorem test_bind_copies : (ran .bindCopies (stored held reelOne) 0x05 [0, 7, 0xFF]).map (fun b => (b.store.manifest 0).map (fun m => (m.copyA, m.copyB))) =
    some (some (some 7, none)) := by decide +kernel
theorem test_read_manifest : replyOf (ran .readManifest held 0x06 [3]) = some (.done [0x40, 0x00, 0x00]) := by decide +kernel
theorem test_read_records : replyOf (ran .readRecords (stored held reelOne) 0x07 [0, 0, 1, 2]) = some (.refused .range) := by decide +kernel
/-- The list of a reply stands behind one byte with its number of items. -/
theorem test_list_count : (match replyOf (ran .readRecords (stored held reelOne) 0x07 [0, 0, 0, 2]) with | some (.done bs) => bs.head? | _ => none) = some 2 ∧
    (match replyOf (ran .readCapture held 0x0E [8, 8]) with | some (.done bs) => some (bs.take 12) | _ => none) = some [8, 0xFF, 0, 0, 0, 0, 0, 0, 0xFF, 0, 0, 0] := by decide +kernel
theorem test_bring_up_lane : (ran .bringUpLane held 0x08 [7]).map (fun b => ((b.lane 7).state, (b.lane 7).sent)) = some (.settling, [.hello]) := by decide +kernel
theorem test_put_down_lane : (ran .putDownLane (engaged (campaigning (stored full reelOne) visit) .opening) 0x09 [0]).map
    (fun b => ((b.lane 0).state, (b.lane 0).sent, (b.campaign 1).map Campaign.heldCause)) = some (.off, [.halt 1], some (some .laneDown)) := by decide +kernel
theorem test_restart_lane : (ran .restartLane (laned held .stalled) 0x0A [0]).map (fun b => ((b.lane 0).state, (b.lane 0).sent)) =
    some (.settling, [.restart]) := by decide +kernel
theorem test_set_lane : (ran .setLane held 0x0B [0, 0x0C, 0x80, 120, 0, 64, 1, 0x08, 0x00]).map (fun b => (b.lane 0).settings) =
    some { settleWait := 3200, stallLimit := 120, autoRestart := false, yieldAllowance := 64, keepAlive := true, ceiling := 2048 } := by decide +kernel
theorem test_read_lane : replyOf (ran .readLane held 0x0C [8]) = some (.refused .range) := by decide +kernel
theorem test_set_capture : (ran .setCapture held 0x0D [15, 0xFF, 0xFE, 1, 30, 1]).map (fun b => b.capture[15]) =
    some { kind := some 0xFE, keepFaulty := true, window := 30, notify := true } := by decide +kernel
theorem test_read_capture : replyOf (ran .readCapture held 0x0E [15, 2]) = some (.refused .range) := by decide +kernel
theorem test_verify : (ran .verify (stored (laned full .ready) reelOne) 0x10 ([0, 0] ++ beBytes 4 100 ++ beBytes 4 101 ++ [1, 0, 0, 0])).map
    (fun b => ((b.lane 0).state, (b.lane 0).sent, b.sched.nextId)) = some (.engaged, [.openSpan 1 1 2], 2) := by decide +kernel
theorem test_resume_campaign : (ran .resumeCampaign (campaigning (stored held reelOne) { visit with state := .held, heldCause := some .stall }) 0x11 [0, 1]).map
    (fun b => (b.campaign 1).map (fun c => (c.state, c.heldCause))) = some (some (.waiting, none)) := by decide +kernel
theorem test_abandon_campaign : (ran .abandonCampaign (engaged (campaigning (stored full reelOne) visit) .opening) 0x12 [0, 1]).map
    (fun b => ((b.lane 0).state, (b.campaign 1).map Campaign.endCause, (b.store.manifest 0).map Manifest.campaignPins)) =
    some (.ready, some (some .abandoned), some 0) := by decide +kernel
theorem test_dismiss_campaign : (ran .dismissCampaign (campaigning (stored held reelOne) { visit with state := .done }) 0x13 [0, 1]).map (fun b => b.sched.table) =
    some [] := by decide +kernel
theorem test_read_campaign : replyOf (ran .readCampaign held 0x14 [0, 0]) = some (.done [0]) := by decide +kernel
theorem test_read_findings : replyOf (ran .readFindings held 0x18 [0, 0, 0, 1, 17]) = some (.refused .range) := by decide +kernel
theorem test_acknowledge : replyOf (ran .acknowledge held 0x19 [0, 0, 0, 1]) = some (.refused .range) := by decide +kernel
/-- The entry that the pending finding's own request created takes its number; one made by the host does not (log entry 30). -/
theorem test_acknowledge_pending : let b (awaits : Option Nat) : Block := { stored held reelOne with
      recorder := { held.recorder with log := [noted 1], nextSequence := 2, pending := [{ finding := { noted 1 with sequence := none }, enqueued := true }] }
      repair := { held.repair with list := [{ mending .waiting with awaits := awaits }] } }
    (ran .acknowledge (b (some 2)) 0x19 [0, 0, 0, 1]).map (fun b => (b.repair.list.map Entry.sequence, b.recorder.log.map Finding.acknowledged)) =
      some ([some 2], [true, false]) ∧
    (ran .acknowledge (b none) 0x19 [0, 0, 0, 1]).map (fun b => b.repair.list.map Entry.sequence) = some [none] := by decide +kernel
theorem test_set_profile : (ran .setProfile held 0x1A [3, 1, 0, 0, 0, 0, 0, 0, 0, 1, 0, 1]).map (fun b => b.recorder.profiles[3]) =
    some { halts := 0x101, enqueue := false, rewrite := true } := by decide +kernel
theorem test_select_profile : (ran .selectProfile held 0x1B [2]).map (fun b => b.recorder.defaultProfile) = some 2 := by decide +kernel
theorem test_read_flags : (replyOf (ran .readFlags held 0x1C [])).isSome = true := by decide +kernel
theorem test_clear_flags : (ran .clearFlags { held with recorder := { held.recorder with flags := 0x103 } } 0x1D [0x01, 0x01]).map (fun b => b.recorder.flags) =
    some 0x002 := by decide +kernel
theorem test_enqueue_suspects : (ran .enqueueSuspects (stored held { reelOne with records := [{ length := some 3, state := .suspect }, { length := some 3 }] }) 0x20
    [0, 0, 1]).map (fun b => b.repair.list.map (fun e => (e.key.frame, e.source))) = some [(100, 1)] := by decide +kernel
theorem test_withdraw_suspect : (ran .withdrawSuspect (repairing (stored held reelOne) { mending .staged with stepLane := none } .idle) 0x21 [0, 0, 0, 0, 100]).map
    (fun b => (b.repair.list, b.repair.freeExtents.length, (b.store.record 0 100).map FrameRecord.state)) = some ([], 64, some .suspect) := by decide +kernel
theorem test_read_suspects : replyOf (ran .readSuspects held 0x22 [0, 1]) = some (.refused .range) := by decide +kernel
theorem test_set_repair : (ran .setRepair (repairing (stored held reelOne) { mending .staged with stepLane := none } .idle) 0x23 [0]).map
    (fun b => (b.repair.rewriteEnabled, b.repair.list, (b.store.record 0 100).map FrameRecord.detail)) = some (false, [], some (some .rewriteOff)) := by decide +kernel
theorem test_set_duty : (ran .setDuty full 0x28 [2]).map (fun b => b.duty.mode) = some .shared := by decide +kernel
theorem test_hold : (ran .hold (laned full .ready) 0x29 [2, 0x05, 0xA0]).map (fun b => (b.duty.mode, b.duty.holdTimer, (b.lane 0).state)) =
    some (.held, some 86400000000, .off) := by decide +kernel
theorem test_wake : (ran .wake (held.updLane 3 (fun ln => { ln with putDownByHold := true })) 0x2A [0]).map (fun b => (b.duty.mode, (b.lane 3).state)) =
    some (.full, .settling) := by decide +kernel
theorem test_set_pacing : (ran .setPacing held 0x2B [8, 1, 0, 0, 0, 0, 0, 0, 1, 1]).map (fun b => (b.duty.share, b.duty.eligible[7], b.duty.repairsInShared)) =
    some (8, true, true) := by decide +kernel
theorem test_calibrate_lane : (ran .calibrateLane (laned full .ready) 0x2C [0]).map (fun b => ((b.lane 0).state, (b.lane 0).sent)) =
    some (.calibrating, [.calibrate 1 268435456]) := by decide +kernel
theorem test_read_duty : (replyOf (ran .readDuty held 0x2D [])).isSome = true := by decide +kernel
theorem test_restart_engine : (ran .restartEngine (engaged (campaigning (stored full reelOne) visit) .opening) 0x3F []).map
    (fun b => (b.sched.table, (b.lane 0).state, b.duty.mode, (b.store.manifest 0).map Manifest.campaignPins)) = some ([], .off, .held, some 0) := by decide +kernel

/-- Lane 0 in a calibration run of five bytes, of which some have come. -/
def calibrating (firstAt : Option Nat) (bytes : Nat) : Block :=
  let b : Block := { full with duty := { full.duty with calibration := full.duty.calibration.set 0 (some { session := 1, firstAt := firstAt, bytes := bytes }) } }
  b.updLane 0 (fun ln => { ln with state := .calibrating, exchange := .calibration 5 bytes, session := some { number := 1, kind := .calibration, span := none, owner := .duty } })

/-- A calibration run in hand is aborted, and its notice stands before ENGINE_UP (R196, R207). -/
theorem test_restart_in_calibration : (ran .restartEngine (calibrating none 0) 0x3F []).map (fun b => (b.port.outbound, (b.lane 0).sent)) =
    some ([.reply 0xBF 1 (.done []), .notice (.calibrationDone 0 (.aborted .restart) 256 256), .notice (.engineUp .restart 0 0 0 1 .full)], [.halt 1]) := by decide +kernel

/-! ## Reader units, one step each -/

theorem test_hello : (heard .hello 0x01 0 (laned held .settling) ([1] ++ beBytes 4 4096)).map (fun b => ((b.lane 0).helloTaken, (b.lane 0).caps)) =
    some (true, some { rewritable := true, largest := 4096 }) := by decide +kernel
theorem test_header : (heard .header 0x20 1 (engaged (campaigning (stored full reelOne) { visit with state := .opening }) .opening)
    (beBytes 8 1 ++ beBytes 4 2 ++ beBytes 4 100 ++ beBytes 4 2)).map (fun b => ((b.campaign 1).map Campaign.state, (b.lane 0).sent)) =
    some (some .running, [.fetch 1 100]) := by decide +kernel
theorem test_mark : (heard .mark 0x21 1 (digesting (engaged (campaigning (stored full reelOne) visit) (frame .awaitingMark none)) .campaignFrame (.campaign 1))
    (beBytes 4 100 ++ beBytes 4 3)).map (fun b => (b.lane 0).exchange) = some (frame .receiving (some 3)) := by decide +kernel
theorem test_payload : (heard .payload 0x10 1 (digesting (engaged (campaigning (stored full reelOne) visit) (frame .receiving (some 3))) .campaignFrame (.campaign 1))
    [1, 2, 3]).map (fun b => (b.pool.heldBy 0).map DigestUnit.received) = some (some 3) := by decide +kernel
theorem test_end : (heard .endUnit 0x11 1 (digesting (engaged (campaigning (stored full reelOne) visit) (frame .receiving (some 3))) .campaignFrame (.campaign 1))
    []).map (fun b => ((b.campaign 1).map (fun c => c.counts.missized), b.recorder.log.length)) = some (some 1, 1) := by decide +kernel
theorem test_trailer : (heard .trailer 0x22 1 (engaged (campaigning (stored full reelOne) { visit with state := .closing, resumePoint := none }) .closing)
    (beBytes 8 7 ++ beBytes 4 2)).map (fun b => ((b.campaign 1).map Campaign.state, (b.lane 0).state)) = some (some .done, .ready) := by decide +kernel
theorem test_not_found : (heard .notFound 0x23 1 (digesting (engaged (campaigning (stored full reelOne) visit) (frame .awaitingMark none)) .campaignFrame (.campaign 1))
    ([0] ++ beBytes 8 0 ++ beBytes 4 100)).map (fun b => b.recorder.flags) = some FindingClass.missing.set := by decide +kernel
theorem test_fault : (heard .fault 0x24 1 (digesting (engaged (campaigning (stored full reelOne) visit) (frame .awaitingMark none)) .campaignFrame (.campaign 1))
    (beBytes 4 100 ++ [9])).map (fun b => b.recorder.flags) = some FindingClass.unreadable.set := by decide +kernel
theorem test_annotation : (heard .annotation 0x25 1 { engaged (campaigning (stored full reelOne) visit) .opening with
    capture := held.capture.set 4 { kind := some 0x21 } } ([0x21, 1, 5] ++ beBytes 2 (annotationCheck 0x21 [5]).toNat)).map
    (fun b => (b.capture[4].content, b.capture[4].seen)) = some (some [5], true) := by decide +kernel
theorem test_yield : (heard .yield 0x26 0 (laned full .ready) []).map (fun b => ((b.lane 0).state, (b.lane 0).sent)) = some (.lent, [.release]) := by decide +kernel
theorem test_resume : (heard .resume 0x27 0 ((laned full .lent).updLane 0 (fun ln => { ln with resumeTarget := some .ready })) []).map (fun b => (b.lane 0).state) =
    some .ready := by decide +kernel
theorem test_rewrite_done : (heard .rewriteDone 0x28 1 (repairing (stored full reelOne) (mending .rewriting) (.rewrite 100 true)) (beBytes 4 100)).map
    (fun b => (b.repair.list.map Entry.phase, (b.lane 0).sent)) = some ([.readback], [.fetch 1 100]) := by decide +kernel
theorem test_rewrite_failed : (heard .rewriteFailed 0x29 1 (repairing (stored full reelOne) (mending .rewriting) (.rewrite 100 false)) (beBytes 4 100)).map
    (fun b => b.repair.list.map (fun e => (e.phase, e.rewriteAttempts))) = some [(.rewriting, 1)] := by decide +kernel
theorem test_unknown_unit_type : (taken (.unknownUnitType 0 0x02 0 [] 0) (laned full .ready)).map (fun b => ((b.lane 0).state, (b.lane 0).stallEvents)) =
    some (.settling, 1) := by decide +kernel

/-- A stale MARK is stale whatever its length (R72), and a rewrite step that a stall ends before REWRITE is tested at once (R163, R167). -/
theorem test_stale_mark : (heard .mark 0x21 2 (engaged (campaigning (stored full reelOne) visit) (frame .awaitingMark none)) (beBytes 4 100 ++ beBytes 4 0)).map
      (fun b => (b.lane 0).stallEvents) = some 0 ∧
    (heard .mark 0x21 1 (engaged (campaigning (stored full reelOne) visit) (frame .awaitingMark none)) (beBytes 4 100 ++ beBytes 4 0)).map
      (fun b => (b.lane 0).stallEvents) = some 1 := by decide +kernel
theorem test_rewrite_stalled : (taken (.stallTimerExpired 0) (let b := repairing (stored full reelOne) (mending .rewriting) .opening
      ({ b with repair := { b.repair with rewriteEnabled := false } } : Block).updLane 0 (fun ln => { ln with stallTimer := some 5 }))).map
    (fun b => (b.repair.list, (b.store.record 0 100).map FrameRecord.detail)) = some ([], some (some .rewriteOff)) := by decide +kernel

/-- A second REWRITE_FAILED on a YIELDING lane settles the entry before the lane is LENT (R62, R166). -/
theorem test_rewrite_failed_yielding : (heard .rewriteFailed 0x29 1
      ((repairing (stored full reelOne) { mending .rewriting with rewriteAttempts := 1 } (.rewrite 100 true)).updLane 0 (fun ln => { ln with state := .yielding }))
      (beBytes 4 100)).map (fun b => (b.port.outbound.drop 1, (b.lane 0).sent)) =
    some ([.notice (.repairSettled { slot := 0, frame := 100 } 1 2 .sisterSound (some .rewriteUnreliable) 0 1 none none 0 2 false),
      .notice (.laneChanged 0 .lent .yield 0)], [.halt 1, .release]) := by decide +kernel

/-- A FAULT after payload hands its owner the bytes received (R36), and READ SUSPECTS gives those written to the extents (R176). -/
theorem test_bytes_received :
    let e := mending .fetching
    let b := digesting (repairing (stored full reelOne) e (frame .receiving (some 9))) .sourceFetch (.entry e.key)
    let past : Block := (b.updPool (fun p => p.updHeld 0 (fun u => u.take [1, 2, 3, 4, 5]))).setFrame 0
      { phase := .receiving, fetched := 100, delivered := some 100, announced := some 9, soFar := 5 }
    past.pool.receivedBy 0 = 5 ∧ ((past.poolShown e 0).heldBy 0).map DigestUnit.received = some 3 ∧
    past.exchangeShown e 0 = .frame { phase := .receiving, fetched := 100, delivered := some 100, announced := some 9, soFar := 3 } ∧
    past.faultTaken 0 (100, 9) = past.repairResult 0 e.key (.fault 5 9) := by
  exact ⟨by decide +kernel, by decide +kernel, by decide +kernel, rfl⟩

/-! ## Timers and the part's own events, one step each -/

theorem test_rewrite_end_sent : (taken (.rewriteEndSent 0) { repairing (stored full reelOne) (mending .rewriting) (.rewrite 100 false) with staging := [(1, 5)] }).map
    (fun b => (b.lane 0).sent) = some [.payload 1 [0, 5, 0], .endUnit 1] := by decide +kernel
theorem test_settle_wait_expired : (taken (.settleWaitExpired 0) ((laned full .settling).updLane 0 (fun ln => { ln with settleTimer := some 800000, helloTaken := true }))).map
    (fun b => ((b.lane 0).state, b.clock)) = some (.ready, 800000) := by decide +kernel
theorem test_stall_timer_expired : (taken (.stallTimerExpired 0) (engaged (campaigning (stored full reelOne) visit) .opening)).map
    (fun b => ((b.lane 0).state, (b.lane 0).restarts, b.clock)) = some (.settling, 1, 10000000) := by decide +kernel
theorem test_freshness_timer_expired : (taken (.freshnessTimerExpired 4) { held with capture := held.capture.set 4 { seen := true, timer := some 9 } }).map
    (fun b => b.capture[4]) = some {} := by decide +kernel
theorem test_hold_timer_expired : (taken .holdTimerExpired { held with duty := { held.duty with holdTimer := some 60000000, wake := .shared } }).map
    (fun b => b.duty.mode) = some .shared := by decide +kernel
theorem test_pacing_gate_opens : (taken (.pacingGateOpens 0) ((laned (campaigning (stored full reelOne) visit) .ready).updLane 0 (fun ln => { ln with
    gate := some 50, session := some { number := 1, kind := .campaign, span := some (1, 2), owner := .campaign 1 } }))).map (fun b => (b.lane 0).sent) =
    some [.fetch 1 100] := by decide +kernel
theorem test_rollup_completes : (taken .rollupCompletes (rolling held { closing with expected := none })).map (fun b => (b.store.manifest 0).map Manifest.state) = some (some .discordant) := by decide +kernel

/-! ## States that meet the hypotheses of the statements, clause by clause -/

theorem meets_StepTakesFrontCommand : ({ still held with pending := [.frameSent] } : State).pending = .frameSent :: [] ∧ (still held).pending = [] := ⟨rfl, rfl⟩

theorem meets_ResetValues : exec .powerUp (still full) = .next (still held) ∧ ({ full with resetLine := true } : Block).resetLine = true ∧
    exec .resetLineReleased (still { full with resetLine := true }) = .next (still (Block.started .resetLine)) := ⟨rfl, rfl, rfl⟩

theorem meets_PowerUpAndResetLine : (still { full with resetLine := true }).blk.resetLine = true ∧ Instr.frameSent ≠ .powerUp ∧ Instr.frameSent ≠ .resetLineAsserted ∧
    Instr.frameSent ≠ .resetLineReleased := by decide

/-- What the statements about every step ask of the state before, and a step from it. -/
theorem meets_invariants : let s := asked (stored full reelOne) 0x2D []
    (s.blk.quiet ∧ s.blk.told) ∧ Memory.wf s.blk.staging = true ∧ s.blk.port.fits ∧ s.blk.store.balanced ∧ s.blk.recorder.Sound ∧
    (∀ l, (s.blk.lane l).Sound) ∧ s.blk.sched.table.length ≤ 24 ∧ s.blk.repair.list.length ≤ 128 ∧
    ∃ t, step { s with pending := [.readDuty 1 []] } = .next t := by
  refine ⟨⟨⟨rfl, Or.inl rfl⟩, rfl⟩, rfl, ?_, ?_, ⟨Nat.zero_le _, List.Pairwise.nil, fun f h => by cases h⟩, fun l => ?_, Nat.zero_le _, Nat.zero_le _, _, rfl⟩
  · unfold Port.fits; decide +kernel
  · unfold Store.balanced; decide +kernel
  · have e : (asked (stored full reelOne) 0x2D []).blk.lane l = {} := by
      revert l; show ∀ l : Fin 8, (Vector.replicate 8 ({} : Lane))[l] = {}; decide
    rw [e]
    exact ⟨by decide, by decide, by intro x h; cases h⟩

theorem meets_StagedFrameReadsBack : Memory.wf [(5, 1)] = true ∧ [3, 0].Nodup ∧ 33554430 + [1, 2].length ≤ [3, 0].length * extentBytes := by decide

theorem meets_VerdictRows : (0 : Word64) = 0 ∧ (1 : Word64) ≠ 0 ∧ 2 < 3 := by decide

theorem meets_PortChecksInOrder :
    (requestOf (.notARequestKind 0x0F 1 []) = some ⟨0x0F, 1, []⟩ ∧ (Instr.notARequestKind 0x0F 1 []).wellFormed = true ∧ (asked held 0x0F []).Ready ⟨0x0F, 1, []⟩ ∧
      requestLength 0x0F [] = none ∧ (0x0F : Byte) ∉ requestKinds) ∧
    (requestOf (.openManifest 1 [0]) = some ⟨0x01, 1, [0]⟩ ∧ (asked held 0x01 [0]).Ready ⟨0x01, 1, [0]⟩ ∧ requestLength 0x01 [0] = some 19) ∧
    ((asked full 0x2A [1]).Ready ⟨0x2A, 1, [1]⟩ ∧ requestLength 0x2A [1] = some 1 ∧ requestModes 0x2A full.duty.mode = false) := by
  have ready : ∀ (b : Block) (k : Byte) (bd : List Byte), b.resetLine = false → b.quiet → b.told → (asked b k bd).Ready ⟨k, 1, bd⟩ :=
    fun b k bd h1 h2 h3 => ⟨h1, rfl, Nat.zero_lt_succ 3, h2, h3⟩
  exact ⟨⟨rfl, by decide, ready held _ _ rfl ⟨rfl, Or.inl rfl⟩ rfl, rfl, by decide⟩, ⟨rfl, ready held _ _ rfl ⟨rfl, Or.inl rfl⟩ rfl, rfl⟩,
    ready full _ _ rfl ⟨rfl, Or.inl rfl⟩ rfl, rfl, rfl⟩

theorem meets_RefusedRequestChangesNothing : (asked held 0x0C [8]).Takes 0x0C 1 [8] ∧
    replyOf (left (exec (.readLane 1 [8]) (asked held 0x0C [8]))) = some (.refused .range) := ⟨takes (by decide +kernel), by decide +kernel⟩

theorem meets_RequestsWaitOrAreDropped :
    let r : Request := { kind := 0x2D, tag := 1, body := [] }
    let other : Request := { kind := 0x1C, tag := 2, body := [] }
    requestOf (.readDuty 1 []) = some r ∧ (Instr.readDuty 1 []).wellFormed = true ∧ [r].head? = some r ∧ 4 ≤ [1, 2, 3, 4].length ∧
    [other].head? ≠ some r ∧ [other, r, other].length < 4 ∧ 4 ≤ [other, other, r, other].length := by decide

theorem meets_a_request_alone : held.port.inbound = [] ∧ held.told ∧ held.port.repliesUsed < 4 ∧
    4 ≤ ({ held.port with outbound := List.replicate 4 (.reply 0x81 1 (.done [])) } : Port).repliesUsed := ⟨rfl, rfl, by decide, by decide⟩

theorem meets_FrameSentFreesItsPlace : (still held).Idle ∧ held.port.outbound = .notice (.engineUp .powerUp 0 0 0 1 .full) :: [] := ⟨idle rfl, rfl⟩

theorem meets_NoticesArePlacedOrDropped :
    let n : Notice := .manifestSettled 0 0 0 .ready 0
    let p : Port := { held.port with outbound := List.replicate 12 (.notice n) }
    (∀ last, n ≠ .logAdvanced last) ∧ held.port.noticesUsed < 12 ∧ 12 ≤ p.noticesUsed ∧
    ({ held.port with outbound := [.notice (.logAdvanced 1), .notice (.logAdvanced 2)] } : Port).outbound =
      .notice (.logAdvanced 1) :: ([] ++ .notice (.logAdvanced 2) :: []) := ⟨fun _ h => (by cases h), by decide, by decide, rfl⟩

theorem meets_ReceiverTakesFrames : (still held).Idle ∧ held.port.receiver = [] ∧ held.port.inbound.length < 4 ∧ (1 : Byte) ≠ 0 ∧ ([] : List Byte).length ≤ 1024 ∧
    (still { held with port := { held.port with receiver := [0xA5, 0x5A] } }).Idle ∧ ([0x5A] : List Byte).all (fun x => x != 0xA5) = true :=
  ⟨idle rfl, rfl, by decide, by decide, by decide, idle rfl, by decide⟩

/-- A length of 1,025 is past the limit; a check of 0 does not match; a tag 0 stands under a good check. -/
theorem meets_rejections : ([0x5A, 0x04, 0x01] : List Byte).head? = some 0x5A ∧ 1024 < fieldAt [0x5A, 0x04, 0x01] 1 2 ∧
    (0 : Word16) ≠ crc16 (beBytes 2 0 ++ [0x2D, 1]) ∧
    (taken (.controlLinkFrame [0xA5, 0x5A, 0x04, 0x01]) held).map (fun b => b.port.outbound.getLast?) = some (some (.notice (.frameRejected .length 0 0))) ∧
    (taken (.controlLinkFrame [0xA5, 0x5A, 0, 0, 0x2D, 1, 0, 0]) held).map (fun b => b.port.outbound.getLast?) = some (some (.notice (.frameRejected .check 0x2D 1))) ∧
    (taken (.controlLinkFrame (linkFrame 0x2D 0 [])) held).map (fun b => b.port.outbound.getLast?) = some (some (.notice (.frameRejected .tag 0x2D 0))) := by decide +kernel

theorem meets_OpenManifestReserves :
    ((asked held 0x01 (opening 16 0 1)).Takes 0x01 1 (opening 16 0 1) ∧ 16 ≤ fieldAt (opening 16 0 1) 0 1) ∧
    ((asked (stored held reelOne) 0x01 (opening 0 0 1)).Takes 0x01 1 (opening 0 0 1) ∧ (stored held reelOne).store.manifest 0 ≠ none) ∧
    ((asked held 0x01 (opening 15 0 4097)).Takes 0x01 1 (opening 15 0 4097) ∧ slotOf (fieldAt (opening 15 0 4097) 0 1) = some 15 ∧ held.store.manifest 15 = none ∧
      ¬ fieldAt (opening 15 0 4097) 17 2 ≤ 4096) ∧
    ((asked held 0x01 (opening 0 4294967295 1)).Takes 0x01 1 (opening 0 4294967295 1) ∧
      fieldAt (opening 0 4294967295 1) 13 4 + fieldAt (opening 0 4294967295 1) 17 2 - 1 ≤ 4294967295 ∧ fieldAt (opening 0 4294967295 1) 17 2 ≤ held.store.free ∧
      ({ held.store with free := 0 } : Store).free < fieldAt (opening 0 4294967295 1) 17 2) := by
  exact ⟨⟨takes (by decide +kernel), by decide +kernel⟩, ⟨takes (by decide +kernel), by decide +kernel⟩, ⟨takes (by decide +kernel), by decide +kernel⟩,
    takes (by decide +kernel), by decide +kernel⟩

theorem meets_LoadRecordsWrites :
    ((asked held 0x02 (loading 16 0 1)).Takes 0x02 1 (loading 16 0 1) ∧ 16 ≤ fieldAt (loading 16 0 1) 0 1 ∧ held.store.manifest 15 = none) ∧
    ((asked (campaigning (stored held reelOne) visit) 0x02 (loading 0 1 1)).Takes 0x02 1 (loading 0 1 1) ∧
      ((campaigning (stored held reelOne) visit).store.manifest 0).map (fun m => (m.state, m.campaignPins)) = some (.ready, 1)) ∧
    ((asked (stored held half) 0x02 (loading 0 2 1)).Takes 0x02 1 (loading 0 2 1) ∧ half.count < fieldAt (loading 0 2 1) 1 2 + fieldAt (loading 0 2 1) 3 1) ∧
    ((asked (rolling held closing) 0x02 (loading 0 1 268435456)).Takes 0x02 1 (loading 0 1 268435456) ∧ (rolling held closing).store.unit = some 0 ∧
      fieldAt (loading 0 1 268435456) 1 2 + 1 ≤ closing.count ∧ fieldAt (loading 0 1 268435456) 4 4 ≤ 268435456) := by
  exact ⟨⟨takes (by decide +kernel), by decide +kernel⟩, ⟨takes (by decide +kernel), by decide +kernel⟩, ⟨takes (by decide +kernel), by decide +kernel⟩,
    takes (by decide +kernel), by decide +kernel⟩

theorem meets_CompleteManifestCloses :
    ((asked held 0x03 (beBytes 1 16 ++ beBytes 8 7)).Takes 0x03 1 (beBytes 1 16 ++ beBytes 8 7) ∧ held.store.manifest 0 = none) ∧
    ((asked (stored held half) 0x03 (beBytes 1 0 ++ beBytes 8 7)).Takes 0x03 1 (beBytes 1 0 ++ beBytes 8 7) ∧ half.loaded ≠ half.count) ∧
    (asked (stored held { half with records := reelOne.records }) 0x03 (beBytes 1 0 ++ beBytes 8 7)).Takes 0x03 1 (beBytes 1 0 ++ beBytes 8 7) ∧
    ({ half with records := reelOne.records } : Manifest).loaded = 2 := by
  exact ⟨⟨takes (by decide +kernel), by decide +kernel⟩, ⟨takes (by decide +kernel), by decide +kernel⟩, takes (by decide +kernel), by decide +kernel⟩

theorem meets_RollupCompletes : (still held).Idle ∧ held.store.unit = none ∧ (still (rolling held closing)).Idle ∧ (rolling held closing).store.unit = some 0 ∧
    (rolling held closing).store.manifest 0 = some closing := by
  exact ⟨idle rfl, by decide +kernel, idle rfl, by decide +kernel⟩

theorem meets_EraseManifestReturns :
    ((asked held 0x04 [16]).Takes 0x04 1 [16] ∧ held.store.manifest 0 = none) ∧
    ((asked (campaigning (stored held reelOne) visit) 0x04 [0]).Takes 0x04 1 [0] ∧ ((campaigning (stored held reelOne) visit).store.manifest 0).map Manifest.pins = some 1) ∧
    ((asked (rolling held closing) 0x04 [0]).Takes 0x04 1 [0] ∧ (rolling held closing).store.manifest 0 = some closing ∧ closing.campaignPins + closing.suspectPins = 0) := by
  exact ⟨⟨takes (by decide +kernel), by decide +kernel⟩, ⟨takes (by decide +kernel), by decide +kernel⟩, takes (by decide +kernel), by decide +kernel⟩

theorem meets_BindCopiesReplaces :
    ((asked (stored held { reelOne with suspectPins := 1 }) 0x05 [0, 0, 1]).Takes 0x05 1 [0, 0, 1] ∧ 0 < ({ reelOne with suspectPins := 1 } : Manifest).suspectPins) ∧
    ((asked (stored held reelOne) 0x05 [0, 8, 0xFF]).Takes 0x05 1 [0, 8, 0xFF] ∧ 8 ≤ fieldAt [0, 8, 0xFF] 1 1 ∧ fieldAt [0, 8, 0xFF] 1 1 ≠ 0xFF) ∧
    ((asked (stored held reelOne) 0x05 [0, 7, 0xFF]).Takes 0x05 1 [0, 7, 0xFF] ∧ fieldAt [0, 7, 0xFF] 1 1 < 8) := by
  exact ⟨⟨takes (by decide +kernel), by decide +kernel⟩, ⟨takes (by decide +kernel), by decide +kernel⟩, takes (by decide +kernel), by decide +kernel⟩

theorem meets_StoreReads :
    ((asked held 0x06 [16]).Takes 0x06 1 [16] ∧ (asked held 0x06 [0]).Takes 0x06 1 [0] ∧ (asked (stored held reelOne) 0x06 [0]).Takes 0x06 1 [0]) ∧
    ((asked (stored held reelOne) 0x07 [0, 0, 1, 2]).Takes 0x07 1 [0, 0, 1, 2] ∧ reelOne.count < 1 + 2) ∧
    ((asked (stored held reelOne) 0x07 [0, 0, 1, 1]).Takes 0x07 1 [0, 0, 1, 1] ∧ 1 + 1 ≤ reelOne.count ∧ reelOne.records.length = reelOne.count) := by
  exact ⟨⟨takes (by decide +kernel), takes (by decide +kernel), takes (by decide +kernel)⟩, ⟨takes (by decide +kernel), by decide +kernel⟩,
    takes (by decide +kernel), by decide +kernel⟩

theorem meets_LanesSettle :
    ((asked held 0x08 [8]).Takes 0x08 1 [8] ∧ (asked (laned held .ready) 0x08 [0]).Takes 0x08 1 [0] ∧ ((laned held .ready).lane 0).state ≠ .off) ∧
    ((asked held 0x08 [7]).Takes 0x08 1 [7] ∧ (held.lane 7).state = .off) ∧
    ((asked (laned held .stalled) 0x0A [0]).Takes 0x0A 1 [0] ∧ ((laned held .stalled).lane 0).state = .stalled ∧ (held.lane 0).state ≠ .stalled) := by
  exact ⟨⟨takes (by decide +kernel), takes (by decide +kernel), by decide +kernel⟩, ⟨takes (by decide +kernel), by decide +kernel⟩, takes (by decide +kernel), by decide +kernel⟩

theorem meets_HelloSettles : (∀ st, (still (laned held st)).Idle ∧ ((laned held st).lane 0).state = st) ∧
    unitCrcGood 0x01 0 [1, 0x10, 0, 0, 0] (crcOf 0x01 0 [1, 0x10, 0, 0, 0]) = true ∧ parseHello [1, 0x10, 0, 0, 0] = some { rewritable := true, largest := 268435456 } ∧
    (((laned held .settling).updLane 0 (fun ln => { ln with settleExpired := true })).lane 0).settleExpired = true := by
  exact ⟨fun st => ⟨idle rfl, by cases st <;> decide +kernel⟩, by decide +kernel⟩

theorem meets_SettleWaitExpires : (still held).Idle ∧ (held.lane 0).settleTimer = none ∧
    (∀ h, let b := (laned held .settling).updLane 0 (fun ln => { ln with settleTimer := some 5, helloTaken := h });
      (still b).Idle ∧ (b.lane 0).settleTimer = some 5 ∧ (b.lane 0).helloTaken = h) := by
  exact ⟨idle rfl, by decide +kernel, fun h => ⟨idle rfl, by cases h <;> decide +kernel⟩⟩

theorem meets_SetLaneReplacesSettings :
    ((asked held 0x0B [8, 0, 50, 1, 1, 0, 0, 0, 1]).Takes 0x0B 1 [8, 0, 50, 1, 1, 0, 0, 0, 1] ∧ (asked held 0x0B [0, 0, 50, 121, 1, 0, 0, 0, 1]).Takes 0x0B 1 [0, 0, 50, 121, 1, 0, 0, 0, 1]) ∧
    ((asked (laned held .ready) 0x0B [0, 0, 50, 1, 1, 0, 0, 0, 1]).Takes 0x0B 1 [0, 0, 50, 1, 1, 0, 0, 0, 1] ∧ ((laned held .ready).lane 0).state = .ready ∧
      ((laned held .ready).lane 0).item = none ∧ (held.lane 0).state ≠ .ready) := by
  exact ⟨⟨takes (by decide +kernel), takes (by decide +kernel)⟩, takes (by decide +kernel), by decide +kernel⟩

theorem meets_PutDownLane :
    let rewriting := repairing (stored full reelOne) (mending .rewriting) (.rewrite 100 true)
    ((asked rewriting 0x09 [0]).Takes 0x09 1 [0] ∧ (rewriting.lane 0).exchange.isRewrite = true) ∧
    ((asked held 0x09 [7]).Takes 0x09 1 [7] ∧ (held.lane 7).state = .off ∧ (held.lane 7).exchange.isRewrite = false) ∧
    ((asked (laned held .lent) 0x09 [0]).Takes 0x09 1 [0] ∧ ((laned held .lent).lane 0).state ≠ .off) := by
  exact ⟨⟨takes (by decide +kernel), by decide +kernel⟩, ⟨takes (by decide +kernel), by decide +kernel⟩, takes (by decide +kernel), by decide +kernel⟩

theorem meets_YieldLendsTheDrive : (∀ st, (still (laned held st)).Idle ∧ ((laned held st).lane 0).state = st) ∧ unitCrcGood 0x26 0 [] (crcOf 0x26 0 []) = true ∧
    (let b := digesting (engaged (campaigning (stored full reelOne) visit) (frame .receiving (some 3))) .campaignFrame (.campaign 1);
      (b.pool.heldBy 0).map (fun u => u.claim.recLength - u.received) = some 3 ∧ 3 ≤ (b.lane 0).settings.yieldAllowance * 1048576 ∧
      (b.lane 0).exchange.openVisit ≠ none) := by
  exact ⟨fun st => ⟨idle rfl, by cases st <;> decide +kernel⟩, by decide +kernel⟩

/-- Lane 0 receiving a frame for its head campaign, the record marked visiting. -/
def visiting (c : Campaign) : Block :=
  let b := digesting (engaged (campaigning (stored full reelOne) c) (frame .receiving (some 3))) .campaignFrame (.campaign 1)
  { b with store := b.store.markVisiting 0 100 }

/-- A head campaign whose lane departs, for `Block.Departs`: a visit open, none open, in each lane state, at the ends of the frame restart count and of each outcome. -/
theorem meets_a_departure :
    let c (r : Nat) (p : Fin 4) : Campaign := { visit with frameRestarts := r, profile := .numbered p }
    let d (p : Fin 4) (s : ClassSet) : Decision := full.recorder.judge (.numbered p) s FindingClass.unreadable.set
    (∀ r p st, let b := (visiting (c r p)).updLane 0 (fun ln => { ln with state := st });
      (still b).Idle ∧ b.sched.head 0 = some (c r p) ∧ b.campaign 1 = some (c r p) ∧ (b.lane 0).visitOf (c r p) = some 100 ∧
      (b.lane 0).item = some { kind := .campaignAction, owner := .campaign 1 } ∧ (b.lane 0).state = st) ∧
    (∀ st, ((laned (campaigning (stored full reelOne) visit) st).lane 0).visitOf visit = none ∧ ((laned (campaigning (stored full reelOne) visit) st).lane 0).item = none) ∧
    (asked (visiting visit) 0x09 [0]).Takes 0x09 1 [0] ∧
    ((visiting visit).store.record 0 100).map FrameRecord.visiting = some true ∧ ((visiting visit).lane 0).settings.autoRestart = true ∧
    (d 0 0).outcome = .goOn ∧ (d 0 0).recognised ≠ 0 ∧ (d 2 0).outcome = .halt ∧ (d 0 0x1FF).recognised = 0 := by
  refine ⟨fun r p st => ⟨idle rfl, rfl, rfl, rfl, rfl, rfl⟩, fun st => ⟨rfl, rfl⟩, takes (by decide +kernel), ?_⟩
  decide +kernel

/-- What a departure shows of campaign 1 and of the record of frame 100. -/
def shows (b : Block) : Option (CampaignState × Option HeldCause × Nat × Nat) × Option Bool :=
  ((b.campaign 1).map (fun c => (c.state, c.heldCause, c.frameRestarts, c.counts.uncomparable)), (b.store.record 0 100).map FrameRecord.visiting)

/-- The head follows its lane, and the third stall on a frame counts it UNREADABLE. -/
theorem test_head_follows_its_lane :
    shows ((visiting visit).putDown 0) = (some (.held, some .laneDown, 0, 0), some false) ∧ shows ((visiting visit).yieldDrive 0) = (some (.yielded, none, 0, 0), some false) ∧
    shows ((visiting visit).stallEvent 0) = (some (.waiting, none, 1, 0), some false) ∧
    shows ((visiting { visit with frameRestarts := 2 }).stallEvent 0) = (some (.waiting, none, 0, 1), some false) ∧
    shows ((visiting { visit with frameRestarts := 2, profile := .numbered 2 }).stallEvent 0) = (some (.held, some .finding, 0, 1), some false) := by
  refine ⟨?_, ?_, ?_, ?_, ?_⟩ <;> decide +kernel

theorem meets_ResumeEndsTheLoan : (∀ t, let b := (laned held .lent).updLane 0 (fun ln => { ln with resumeTarget := some t });
      (still b).Idle ∧ (b.lane 0).state = .lent ∧ (b.lane 0).resumeTarget = some t) ∧ unitCrcGood 0x27 0 [] (crcOf 0x27 0 []) = true ∧ (held.lane 0).state ≠ .lent ∧
    (campaigning (stored full reelOne) { visit with state := .yielded }).sched.head 0 = some { visit with state := .yielded } := by
  exact ⟨fun t => ⟨idle rfl, by cases t <;> decide +kernel⟩, by decide +kernel⟩

theorem meets_StallEvents : (still held).Idle ∧ (held.lane 0).stallTimer = none ∧
    (let b := engaged (campaigning (stored full reelOne) visit) .opening;
      (still b).Idle ∧ (b.lane 0).stallTimer = some 10000000 ∧ (b.lane 0).state ≠ .yielding ∧ (b.lane 0).settings.autoRestart = true ∧ (b.lane 0).restarts < 3) ∧
    ((laned held .yielding).lane 0).state = .yielding ∧ 3 ≤ ((held.updLane 0 (fun ln => { ln with restarts := 3 })).lane 0).restarts := by
  exact ⟨idle rfl, by decide +kernel, ⟨idle rfl, by decide +kernel⟩, by decide +kernel⟩

/-- Every reader unit's type with a body of its form and one that is not, at the ends of their ranges. -/
def unitBodies : List (Byte × List Byte × List Byte) :=
  [(0x01, [1, 0, 0, 0, 1], [1, 0, 0, 0, 0]), (0x26, [], [0]), (0x27, [], [0]), (0x20, List.replicate 20 0, []), (0x21, List.replicate 8 0, []), (0x10, [1], []), (0x11, [], [0]),
   (0x22, List.replicate 12 0, []), (0x23, 1 :: List.replicate 12 0, 2 :: List.replicate 12 0), (0x24, List.replicate 5 0, []), (0x25, [0xFE, 0, 0, 0], [0xFF, 0, 0, 0]),
   (0x28, List.replicate 4 0, []), (0x29, List.replicate 4 0, [])]

theorem meets_UnitsTurnedAway : (still held).Idle ∧ (0x02 : Byte) ∉ readerTypes ∧ (held.lane 0).sessionNumber ≠ (5 : Byte).toNat ∧ (5 : Byte) ≠ 0 ∧
    (∀ u ∈ unitBodies, unitCrcGood u.1 5 u.2.1 (crcOf u.1 5 u.2.1) = true ∧ unitCrcGood u.1 5 u.2.1 (crcOf u.1 5 u.2.1 + 1) = false ∧ u.2.1 ≠ u.2.2) ∧
    fieldAt [1, 0, 0, 0, 1] 1 4 = 1 ∧ fieldAt [1, 0, 0, 0, 0] 1 4 = 0 ∧ fieldAt [0xFE, 0, 0, 0] 0 1 = 0xFE ∧ ¬ fieldAt [0xFF, 0, 0, 0] 0 1 ≤ 0xFE := by
  exact ⟨idle rfl, by decide +kernel⟩

theorem meets_SetCaptureReplaces :
    ((asked held 0x0D [16, 0, 0, 0, 0, 0]).Takes 0x0D 1 [16, 0, 0, 0, 0, 0] ∧ (asked held 0x0D [0, 8, 0, 0, 0, 0]).Takes 0x0D 1 [0, 8, 0, 0, 0, 0] ∧
      ¬(fieldAt [0, 8, 0, 0, 0, 0] 1 1 < 8 ∨ fieldAt [0, 8, 0, 0, 0, 0] 1 1 = 0xFF)) ∧
    ((asked held 0x0D [15, 0xFF, 0x10, 1, 255, 1]).Takes 0x0D 1 [15, 0xFF, 0x10, 1, 255, 1] ∧ slotOf (fieldAt [15, 0xFF, 0x10, 1, 255, 1] 0 1) = some 15) := by
  exact ⟨⟨takes (by decide +kernel), takes (by decide +kernel), by decide +kernel⟩, takes (by decide +kernel), by decide +kernel⟩

theorem meets_AnnotationsAreCaptured :
    (let b := engaged (campaigning (stored full reelOne) visit) .opening;
      (still b).Hears 0 0x25 1 [0xFE, 0, 0, 0] (crcOf 0x25 1 [0xFE, 0, 0, 0]) ∧ parseAnnotation [0xFE, 0, 0, 0] = some (0xFE, [], 0)) ∧
    (let b := { held with capture := held.capture.set 4 { seen := true, timer := some 9 } };
      (still b).Idle ∧ b.capture[4].timer = some 9 ∧ b.capture[5].timer = none) := by
  exact ⟨⟨hears rfl (by decide) (by decide +kernel), by decide +kernel⟩, idle rfl, by decide +kernel⟩

/-- An annotation with a wrong check in a campaign's session: recognised under CONTINUE and HALT, disregarded, and with no sequence number left. -/
theorem meets_annotation_events :
    let b (p : Fin 4) : Block := engaged (campaigning (stored full reelOne) { visit with profile := .numbered p }) .opening
    (∀ p, ((b p).lane 0).owner = some (.campaign 1) ∧ ((b p).lane 0).span = some (1, 2) ∧ (b p).campaign 1 = some { visit with profile := .numbered p }) ∧
    annotationCheck 0xFE [] ≠ 0 ∧ (full.recorder.judge (.numbered 0) 0 FindingClass.annotation.set).outcome = .goOn ∧
    (full.recorder.judge (.numbered 0) 0 FindingClass.annotation.set).recognised ≠ 0 ∧ (full.recorder.judge (.numbered 2) 0 FindingClass.annotation.set).outcome = .halt ∧
    (full.recorder.judge (.numbered 0) FindingClass.annotation.set FindingClass.annotation.set).recognised = 0 ∧ full.recorder.logsNow = true ∧
    ({ full.recorder with nextSequence := 4294967296 } : Recorder).logsNow = false := by
  refine ⟨fun p => ⟨rfl, rfl, rfl⟩, ?_⟩
  decide +kernel

theorem meets_ReadsChangeNothing :
    ((asked held 0x0C [8]).Takes 0x0C 1 [8] ∧ (asked held 0x0C [7]).Takes 0x0C 1 [7]) ∧
    ((asked held 0x0E [15, 2]).Takes 0x0E 1 [15, 2] ∧ (asked held 0x0E [8, 8]).Takes 0x0E 1 [8, 8]) ∧
    ((asked held 0x14 [0, 0]).Takes 0x14 1 [0, 0] ∧ (asked held 0x14 [0, 9]).Takes 0x14 1 [0, 9] ∧ held.campaign 9 = none ∧
      (campaigning (stored held reelOne) visit).campaign 1 = some { visit with } ∧ (asked (campaigning (stored held reelOne) visit) 0x14 [0, 1]).Takes 0x14 1 [0, 1]) ∧
    ((asked held 0x18 [0, 0, 0, 0, 17]).Takes 0x18 1 [0, 0, 0, 0, 17] ∧ (asked held 0x18 [0, 0, 0, 0, 16]).Takes 0x18 1 [0, 0, 0, 0, 16]) ∧
    (asked held 0x1C []).Takes 0x1C 1 [] ∧ ((asked held 0x22 [129, 1]).Takes 0x22 1 [129, 1] ∧ (asked held 0x22 [128, 16]).Takes 0x22 1 [128, 16]) ∧
    (asked held 0x2D []).Takes 0x2D 1 [] := by
  exact ⟨⟨takes (by decide +kernel), takes (by decide +kernel)⟩, ⟨takes (by decide +kernel), takes (by decide +kernel)⟩,
    ⟨takes (by decide +kernel), takes (by decide +kernel), by decide +kernel, by decide +kernel, takes (by decide +kernel)⟩,
    ⟨takes (by decide +kernel), takes (by decide +kernel)⟩, takes (by decide +kernel), ⟨takes (by decide +kernel), takes (by decide +kernel)⟩, takes (by decide +kernel)⟩

/-- The body of VERIFY on lane 0 and slot 0. -/
def verifying (first last : Nat) : List Byte := [0, 0] ++ beBytes 4 first ++ beBytes 4 last ++ [16, 3, 0x01, 0xD4]

theorem meets_VerifyAccepts :
    let table (n : Nat) : Block := { stored held reelOne with sched := { table := List.replicate n { visit with state := .done }, nextId := 2 } }
    ((asked held 0x10 [8, 0, 0, 0, 0, 0, 0, 0, 0, 0, 1, 0, 0, 0]).Takes 0x10 1 [8, 0, 0, 0, 0, 0, 0, 0, 0, 0, 1, 0, 0, 0]) ∧
    ((asked held 0x10 (verifying 100 101)).Takes 0x10 1 (verifying 100 101) ∧ held.store.manifest 0 = none) ∧
    ((asked (stored held half) 0x10 (verifying 100 101)).Takes 0x10 1 (verifying 100 101) ∧ half.state ≠ .ready) ∧
    ((asked (stored held reelOne) 0x10 (verifying 100 102)).Takes 0x10 1 (verifying 100 102) ∧ ¬ fieldAt (verifying 100 102) 6 4 < reelOne.first + reelOne.count) ∧
    ((asked (campaigning (stored held reelOne) visit) 0x10 (verifying 101 101)).Takes 0x10 1 (verifying 101 101) ∧ visit.state.active = true ∧ 101 ≤ visit.windowLast) ∧
    ((asked (table 24) 0x10 (verifying 100 101)).Takes 0x10 1 (verifying 100 101) ∧ 24 ≤ (table 24).sched.table.length) ∧
    ((asked (table 23) 0x10 (verifying 100 101)).Takes 0x10 1 (verifying 100 101) ∧ (table 23).sched.table.length < 24 ∧
      (parseVerify (verifying 100 101)).isSome = true ∧ (table 23).sched.find 2 = none) := by
  exact ⟨takes (by decide +kernel), ⟨takes (by decide +kernel), by decide +kernel⟩, ⟨takes (by decide +kernel), by decide +kernel⟩, ⟨takes (by decide +kernel), by decide +kernel⟩,
    ⟨takes (by decide +kernel), by decide +kernel⟩, ⟨takes (by decide +kernel), by decide +kernel⟩, takes (by decide +kernel), by decide +kernel⟩

/-- For ResumeCampaignReleases and CampaignsLeaveTheTable. -/
theorem meets_campaign_requests :
    let b (c : Campaign) : Block := campaigning (stored held reelOne) c
    let bodies : List (Byte × List Byte) := [(0x11, [0, 1]), (0x12, [0, 1]), (0x13, [0, 1])]
    (∀ c : Campaign, ∀ x ∈ bodies, (asked (b c) x.1 x.2).Takes x.1 1 x.2) ∧ held.campaign 1 = none ∧
    (∀ st : CampaignState, (b { visit with state := st }).campaign 1 = some { visit with state := st }) ∧
    (∀ cause checked, (b { visit with state := .held, heldCause := cause, trailerChecked := checked }).campaign 1 =
      some { visit with state := .held, heldCause := cause, trailerChecked := checked }) ∧
    (b { visit with pendingFinding := true }).campaign 1 = some { visit with pendingFinding := true } ∧
    ((engaged (b visit) .opening).lane 0).owner = some (.campaign 1) := by
  refine ⟨fun c x h => ?_, by decide +kernel, fun st => rfl, fun _ _ => rfl, rfl, rfl⟩
  simp only [List.mem_cons, List.not_mem_nil, or_false] at h
  rcases h with h | h | h <;> subst h <;> exact takes rfl

/-- The body of HEADER for the manifest. -/
def heading : List Byte := beBytes 8 1 ++ beBytes 4 2 ++ beBytes 4 100 ++ beBytes 4 2

theorem meets_HeaderOpens :
    let b := engaged (campaigning (stored full reelOne) { visit with state := .opening }) .opening
    let r (p : RepairPhase) : Block := repairing (stored full reelOne) (mending p) .opening
    (still b).Hears 0 0x20 1 heading (crcOf 0x20 1 heading) ∧ parseHeader heading = some (1, 2, 100, 2) ∧ (b.lane 0).exchange = .opening ∧
    (b.lane 0).owner = some (.campaign 1) ∧ b.campaign 1 = some { visit with state := .opening } ∧ (b.lane 0).item = some { kind := .campaignAction, owner := .campaign 1 } ∧
    (∀ p, (still (r p)).Hears 0 0x20 1 heading (crcOf 0x20 1 heading) ∧ ((r p).lane 0).owner = some (.entry (mending p).key) ∧
      (r p).repair.find (mending p).key = some (mending p) ∧ ((r p).lane 0).stopping = false) ∧
    ((engaged b .closing).lane 0).exchange ≠ .opening := by
  refine ⟨hears rfl (by decide) (by decide +kernel), by decide +kernel, rfl, rfl, rfl, rfl, fun p => ⟨hears rfl (by decide) rfl, rfl, by cases p <;> decide +kernel, rfl⟩, ?_⟩
  decide +kernel

/-- For HeaderOpens' IDENTITY event and its steps ended without an answer, and for FrameEnds' repair results. -/
theorem meets_events_and_steps :
    (full.recorder.judge (.numbered 0) 0 FindingClass.identity.set).outcome = .finish ∧ (full.recorder.judge (.numbered 1) 0 FindingClass.identity.set).outcome = .halt ∧
    (∀ p, let b := repairing (stored full reelOne) (mending p) (.rewrite 100 false)
      b.repair.find (mending p).key = some (mending p) ∧ (b.store.record 0 100).map FrameRecord.length = some (some 3)) ∧
    verdictOf 3 5 (.complete 3 5) = .sound ∧ verdictOf 3 5 (.complete 3 6) = .damaged ∧ verdictOf 3 5 (.complete 4 5) = .missized ∧ verdictOf 3 5 (.fault 0 9) = .uncomparable ∧
    ({ mending .fetching with sourceAttempts := 1 } : Entry).sourceAttempts + 1 < 3 ∧ ¬ ({ mending .fetching with sourceAttempts := 2 } : Entry).sourceAttempts + 1 < 3 := by
  refine ⟨by decide +kernel, by decide +kernel, fun p => ?_, by decide +kernel⟩
  cases p <;> decide +kernel

/-- For MarkBegins, PayloadTaken and FrameEnds. -/
theorem meets_frames :
    let b (f : Exchange) : Block := digesting (engaged (campaigning (stored full reelOne) visit) f) .campaignFrame (.campaign 1)
    (∀ f type body, (still (b f)).Hears 0 type 1 body (crcOf type 1 body)) ∧ parseMark [0, 0, 0, 100, 0, 0, 4, 0] = some (100, 1024) ∧
    ((b .opening).lane 0).caps = some { rewritable := true, largest := 1024 } ∧ parsePayload [1, 2, 3] = some [1, 2, 3] ∧ parsePayload [] = none ∧
    ((b .opening).pool.heldBy 0).map (fun u => (u.claim.kind, u.received)) = some (.campaignFrame, 0) ∧ ((b .opening).lane 0).owner = some (.campaign 1) ∧
    parseFault [0, 0, 0, 100, 9] = some (100, 9) ∧ parseNotFound ([0] ++ beBytes 8 0 ++ beBytes 4 100) = some (.frame 100) ∧
    frame .receiving (some 3) = .frame { phase := .receiving, fetched := 100, delivered := some 100, announced := some 3, soFar := 0 } := by
  refine ⟨fun f type body => hears rfl (by decide) rfl, ?_⟩
  decide +kernel

/-- For PayloadTaken's source fetch, and the one READ SUSPECTS gives. -/
theorem meets_source_fetch :
    let b := digesting (repairing (stored full reelOne) (mending .fetching) (frame .receiving (some 3))) .sourceFetch (.entry (mending .fetching).key);
    (still b).Hears 0 0x10 1 [1] (crcOf 0x10 1 [1]) ∧ b.repair.find (mending .fetching).key = some (mending .fetching) ∧
    (b.pool.heldBy 0).map (fun u => (u.claim.kind, u.claim.owner)) = some (.sourceFetch, .entry (mending .fetching).key) ∧
    (mending .fetching).stepLane = some 0 ∧ b.pool.unitOf 0 = some 0 ∧ (b.lane 0).exchange = frame .receiving (some 3) ∧
    b.store.recordedLength 0 100 = 3 ∧ (b.pool.heldBy 0).map (fun u => u.claim.recLength) = some 3 := by
  exact ⟨hears rfl (by decide) rfl, by decide +kernel⟩

theorem meets_ResultsAreCounted :
    let b (p : ProfileChoice) : Block := campaigning (stored full reelOne) { visit with profile := p }
    let d (p : Fin 4) (s : ClassSet) : Decision := full.recorder.judge (.numbered p) 0 s
    (∀ p, (b p).campaign 1 = some { visit with profile := p }) ∧ ((b .current).store.record 0 100).map FrameRecord.length = some (some 3) ∧
    verdictOf 3 5 (.complete 3 5) = .sound ∧ verdictOf 3 5 (.complete 2 5) ≠ .sound ∧ (d 0 FindingClass.short.set).recognised ≠ 0 ∧
    (d 2 FindingClass.short.set).outcome = .halt ∧ (d 0 FindingClass.short.set).outcome = .goOn ∧ full.recorder.logsNow = true ∧
    ({ full.recorder with nextSequence := 4294967296 } : Recorder).logsNow = false ∧ (full.recorder.judge .current 0x010 0x010).recognised = 0 := by
  exact ⟨fun p => rfl, by decide +kernel⟩

theorem meets_TrailerChecks :
    let b (p : Fin 4) (x : Exchange) : Block := engaged (campaigning (stored full reelOne) { visit with state := .closing, profile := .numbered p }) x
    let good := beBytes 8 7 ++ beBytes 4 2
    (∀ p x type body, (still (b p x)).Hears 0 type 1 body (crcOf type 1 body)) ∧ parseTrailer good = some (7, 2) ∧ parseTrailer (beBytes 8 8 ++ beBytes 4 2) = some (8, 2) ∧
    (∀ p x, ((b p x).lane 0).owner = some (.campaign 1) ∧ ((b p x).lane 0).span = some (1, 2) ∧ ((b p x).lane 0).exchange = x) ∧
    ((b 0 .closing).store.manifest 0).map Manifest.expected = some (some 7) ∧
    parseNotFound ([1] ++ beBytes 8 1 ++ beBytes 4 2) = some (.span 1 2) ∧ parseNotFound ([1] ++ beBytes 8 1 ++ beBytes 4 3) = some (.span 1 3) ∧
    (full.recorder.judge (.numbered 1) 0 FindingClass.rollup.set).outcome = .halt ∧ (full.recorder.judge (.numbered 0) 0 FindingClass.rollup.set).outcome = .goOn ∧
    (full.recorder.judge (.numbered 0) 0x040 FindingClass.rollup.set).recognised = 0 := by
  refine ⟨fun p x type body => hears rfl (by decide) rfl, by decide +kernel, by decide +kernel, fun p x => ⟨rfl, rfl, rfl⟩, ?_⟩
  decide +kernel

/-- NOT_FOUND in a repair step's opening exchange, of its span, of another and of a frame, and of a span while the lane has no exchange. -/
theorem meets_a_span_not_found :
    let b (p : RepairPhase) (x : Exchange) : Block := repairing (stored full reelOne) (mending p) x
    (∀ p x body, (still (b p x)).Hears 0 0x23 1 body (crcOf 0x23 1 body) ∧ ((b p x).lane 0).owner = some (.entry (mending p).key) ∧ ((b p x).lane 0).exchange = x ∧
      ((b p x).lane 0).span = some (1, 2) ∧ (b p x).repair.find (mending p).key = some (mending p)) ∧
    parseNotFound ([1] ++ beBytes 8 1 ++ beBytes 4 2) = some (.span 1 2) ∧ parseNotFound ([1] ++ beBytes 8 1 ++ beBytes 4 3) = some (.span 1 3) ∧
    parseNotFound ([0] ++ beBytes 8 0 ++ beBytes 4 100) = some (.frame 100) := by
  refine ⟨fun p x body => ⟨hears rfl (by decide) rfl, rfl, rfl, rfl, rfl⟩, ?_⟩
  decide +kernel

theorem meets_RewritesAreAnswered :
    let b (sent : Bool) : Block := repairing (stored full reelOne) (mending .rewriting) (.rewrite 100 sent)
    (∀ sent type body, (still (b sent)).Idle ∧ (still (b sent)).Hears 0 type 1 body (crcOf type 1 body) ∧ ((b sent).lane 0).exchange = .rewrite 100 sent ∧
      ((b sent).lane 0).owner = some (.entry (mending .rewriting).key) ∧ ((b sent).lane 0).state ≠ .yielding ∧ ((b sent).lane 0).stopping = false ∧
      (still ((b sent).updLane 0 (fun ln => { ln with state := .yielding }))).Hears 0 type 1 body (crcOf type 1 body)) ∧
    (b true).repair.find (mending .rewriting).key = some (mending .rewriting) ∧ parseFrameNumber (beBytes 4 100) = some 100 ∧ parseFrameNumber (beBytes 4 101) = some 101 := by
  refine ⟨fun sent type body => ⟨idle rfl, hears rfl (by decide) rfl, rfl, rfl, fun h => (by cases h), rfl, hears rfl (by decide) rfl⟩, ?_⟩
  decide +kernel

theorem meets_AcknowledgeMarks :
    let b : Block := { held with recorder := { held.recorder with log := [noted 1], nextSequence := 2 } }
    ((asked b 0x19 [0, 0, 0, 0]).Takes 0x19 1 [0, 0, 0, 0] ∧ (asked b 0x19 [0, 0, 0, 2]).Takes 0x19 1 [0, 0, 0, 2] ∧ b.recorder.nextSequence ≤ fieldAt [0, 0, 0, 2] 0 4) ∧
    (asked b 0x19 [0, 0, 0, 1]).Takes 0x19 1 [0, 0, 0, 1] ∧ 1 ≤ fieldAt [0, 0, 0, 1] 0 4 ∧ fieldAt [0, 0, 0, 1] 0 4 < b.recorder.nextSequence ∧ b.recorder.pending = [] := by
  exact ⟨⟨takes (by decide +kernel), takes (by decide +kernel), by decide +kernel⟩, takes (by decide +kernel), by decide +kernel⟩

/-- A pending finding on a full log, which the marking of its oldest finding makes room for: its campaign is HELD with LOG_FULL, and its entry awaits its number. -/
theorem meets_a_pending_finding :
    let p : PendingFinding := { finding := { noted 1 with sequence := none }, enqueued := true }
    let c : Campaign := { visit with state := .held, heldCause := some .logFull, pendingFinding := true }
    let b : Block := { campaigning (stored held reelOne) c with
      recorder := { held.recorder with log := (List.range 256).map (fun i => noted (i + 1)), nextSequence := 257, pending := [p] }
      repair := { held.repair with list := [{ mending .waiting with awaits := some 257 }] } }
    (asked b 0x19 [0, 0, 0, 1]).Takes 0x19 1 [0, 0, 0, 1] ∧ b.recorder.canAppend = false ∧ (b.recorder.mark 1).canAppend = true ∧
    (b.recorder.pending.take 1).filter (fun q => q.finding.campaign == c.id) = [p] ∧ b.campaign 1 = some c ∧ p.finding.slot = 0 ∧ p.finding.frame = some 100 ∧
    (b.repair.find (mending .waiting).key).map (fun e => (e.awaits, e.sequence)) = some (some 257, none) := by
  exact ⟨takes (by decide +kernel), by decide +kernel⟩

theorem meets_ProfilesAndFlags :
    let good : List Byte := [3, 1, 1, 1, 1, 1, 1, 1, 1, 1, 1, 1]
    ((asked held 0x1A good).Takes 0x1A 1 good ∧ profileOf (fieldAt good 0 1) = some 3 ∧ (∀ i : Fin 12, 1 ≤ i.val → fieldAt good i.val 1 ≤ 1)) ∧
    ((asked held 0x1A (4 :: good.tail)).Takes 0x1A 1 (4 :: good.tail) ∧ ¬ fieldAt (4 :: good.tail) 0 1 < 4) ∧
    ((asked held 0x1B [4]).Takes 0x1B 1 [4] ∧ (asked held 0x1B [3]).Takes 0x1B 1 [3]) ∧
    ((asked held 0x1D [2, 0]).Takes 0x1D 1 [2, 0] ∧ 512 ≤ fieldAt [2, 0] 0 2 ∧ (asked held 0x1D [1, 0xFF]).Takes 0x1D 1 [1, 0xFF] ∧ fieldAt [1, 0xFF] 0 2 < 512) := by
  exact ⟨⟨takes (by decide +kernel), by decide +kernel⟩, ⟨takes (by decide +kernel), by decide +kernel⟩, ⟨takes (by decide +kernel), takes (by decide +kernel)⟩,
    takes (by decide +kernel), by decide +kernel, takes (by decide +kernel), by decide +kernel⟩

theorem meets_EnqueueAndWithdraw :
    let suspect : Manifest := { reelOne with records := [{ length := some 3, state := .suspect }, { length := some 3 }] }
    let crowd (n : Nat) : Block := { stored held suspect with repair := { held.repair with list := List.replicate n (mending .waiting) } }
    let b (p : RepairPhase) : Block := repairing (stored held reelOne) (mending p) .idle
    ((asked held 0x20 [0, 8, 1]).Takes 0x20 1 [0, 8, 1] ∧ (asked held 0x20 [0, 0, 1]).Takes 0x20 1 [0, 0, 1] ∧ held.store.manifest 0 = none) ∧
    ((asked (stored held suspect) 0x20 [0, 7, 1]).Takes 0x20 1 [0, 7, 1] ∧ suspect.otherCopy 7 = none) ∧
    ((asked (crowd 128) 0x20 [0, 0, 1]).Takes 0x20 1 [0, 0, 1] ∧ 128 ≤ (crowd 128).repair.list.length) ∧
    ((asked (crowd 127) 0x20 [0, 0, 1]).Takes 0x20 1 [0, 0, 1] ∧ (crowd 127).repair.list.length < 128 ∧ suspect.state = .ready ∧ suspect.otherCopy 0 = some 1 ∧
      suspect.records.length = suspect.count) ∧
    ((asked held 0x21 [16, 0, 0, 0, 100]).Takes 0x21 1 [16, 0, 0, 0, 100] ∧ held.repair.find (mending .waiting).key = none) ∧
    (∀ p, (asked (b p) 0x21 [0, 0, 0, 0, 100]).Takes 0x21 1 [0, 0, 0, 0, 100] ∧ (b p).repair.find (mending p).key = some (mending p)) := by
  refine ⟨⟨takes (by decide +kernel), takes (by decide +kernel), by decide +kernel⟩, ⟨takes (by decide +kernel), by decide +kernel⟩,
    ⟨takes (by decide +kernel), by decide +kernel⟩, ⟨takes (by decide +kernel), by decide +kernel⟩, ⟨takes (by decide +kernel), by decide +kernel⟩, fun p => ⟨takes rfl, ?_⟩⟩
  cases p <;> decide +kernel

/-- The start pass: an entry that is eligible, with a context and an extent free, with no extent free, and with every context held. -/
theorem meets_start_pass :
    let e : Entry := { mending .waiting with extents := none, context := none, stepLane := none }
    let suspect : Manifest := { reelOne with records := [{ length := some 3, state := .suspect, queued := true }, { length := some 3 }] }
    let b (list : List Entry) (free : List Nat) : Block :=
      ({ stored full suspect with repair := { full.repair with list := list, freeExtents := free } } : Block).updLane 1 (fun ln => { ln with state := .ready })
    let busy := allFour.map (fun i => { mending .staged with key := { slot := 0, frame := 200 + i.val }, context := some i })
    (∀ free, (b [e] free).repair.find e.key = some e ∧ ((b [e] free).lane e.source).state = .ready ∧ (b [e] free).duty.mode = .full) ∧
    ((b [e] [0]).store.record 0 100) = some { length := some 3, state := .suspect, queued := true } ∧ (3 + 16777215) / 16777216 ≤ [0].length ∧
    (∀ x ∈ (b [e] [0]).repair.list, x.context ≠ some 0) ∧ ([] : List Nat).length < (3 + 16777215) / 16777216 ∧
    (∀ x ∈ busy, x.phase ≠ .waiting) ∧ (∀ i : Fin 4, ∃ x ∈ (b (busy ++ [e]) [0]).repair.list, x.context = some i) := by
  refine ⟨fun free => ⟨rfl, rfl, rfl⟩, ?_⟩
  decide +kernel

theorem meets_SetRepairTests :
    ((asked held 0x23 [2]).Takes 0x23 1 [2] ∧ (asked held 0x23 [1]).Takes 0x23 1 [1] ∧ (asked held 0x23 [0]).Takes 0x23 1 [0]) ∧
    (let b := repairing (stored full reelOne) (mending .staged) .idle;
      b.repair.find (mending .staged).key = some (mending .staged) ∧ (mending .staged).rewriteAllowed = true ∧ b.repair.rewriteEnabled = true ∧
      (b.lane (mending .staged).damaged).caps = some { rewritable := true, largest := 1024 }) := by
  exact ⟨⟨takes (by decide +kernel), takes (by decide +kernel), takes (by decide +kernel)⟩, by decide +kernel⟩

theorem meets_DutyChanges :
    ((asked full 0x28 [3]).Takes 0x28 1 [3] ∧ (asked full 0x28 [1]).Takes 0x28 1 [1] ∧ (asked full 0x28 [2]).Takes 0x28 1 [2] ∧ full.duty.mode = .full) ∧
    ((asked full 0x29 [1, 0x05, 0xA1]).Takes 0x29 1 [1, 0x05, 0xA1] ∧ 1440 < fieldAt [1, 0x05, 0xA1] 1 2 ∧ (asked full 0x29 [2, 0x05, 0xA0]).Takes 0x29 1 [2, 0x05, 0xA0] ∧
      fieldAt [2, 0x05, 0xA0] 1 2 ≤ 1440) ∧
    ((asked held 0x2A [3]).Takes 0x2A 1 [3] ∧ (asked held 0x2A [0]).Takes 0x2A 1 [0] ∧ (asked held 0x2A [2]).Takes 0x2A 1 [2] ∧
      (let b := held.updLane 3 (fun ln => { ln with putDownByHold := true });
        (b.lane 3).state = .off ∧ (b.lane 3).putDownByHold = true)) ∧
    ((still held).Idle ∧ held.duty.holdTimer = none ∧ (still { held with duty := { held.duty with holdTimer := some 7 } }).Idle) := by
  exact ⟨⟨takes (by decide +kernel), takes (by decide +kernel), takes (by decide +kernel), rfl⟩, ⟨takes (by decide +kernel), by decide +kernel, takes (by decide +kernel), by decide +kernel⟩,
    ⟨takes (by decide +kernel), takes (by decide +kernel), takes (by decide +kernel), by decide +kernel⟩, idle rfl, rfl, idle rfl⟩

/-- What a duty change takes leave from: a head campaign in each state, with and without a frame in flight, and an entry with a step in hand or none. -/
theorem meets_a_loss_of_leave :
    (∀ c x, let b := engaged (campaigning (stored full reelOne) { visit with state := c }) x;
      (b.lane 0).exchange = x ∧ (b.lane 0).owner = some (.campaign 1) ∧ (b.lane 0).state = .engaged ∧ b.campaign 1 = some { visit with state := c }) ∧
    (∀ x, (engaged (campaigning (stored full reelOne) visit) x).sched.head 0 = some visit ∧
      (engaged (campaigning (stored full reelOne) { visit with state := .opening }) x).sched.head 0 = some { visit with state := .opening } ∧
      (engaged (campaigning (stored full reelOne) { visit with state := .closing }) x).sched.head 0 = some { visit with state := .closing }) ∧
    (laned full .ready).sched.head 0 = none ∧
    (∀ p x, let b := repairing (stored full reelOne) (mending p) x;
      b.repair.find (mending p).key = some (mending p) ∧ (mending p).stepLane = some 0 ∧ (b.lane 0).exchange = x ∧ (b.lane 0).state = .engaged) ∧
    (∀ p, (repairing (stored full reelOne) { mending p with stepLane := none } .idle).repair.find (mending p).key = some { mending p with stepLane := none }) ∧
    (∀ stop st, let b := (engaged (campaigning (stored full reelOne) visit) .idle).updLane 0 (fun ln => { ln with state := st, item := some { kind := .campaignAction, owner := .campaign 1, stopping := stop } });
      (b.lane 0).state = st ∧ (b.lane 0).item = some { kind := .campaignAction, owner := .campaign 1, stopping := stop } ∧ b.sched.head 0 = some visit ∧ b.campaign 1 = some visit) := by
  exact ⟨fun c x => ⟨rfl, rfl, rfl, rfl⟩, fun x => ⟨rfl, rfl, rfl⟩, by decide +kernel, fun p x => ⟨rfl, rfl, rfl, rfl⟩, fun p => rfl, fun stop st => ⟨rfl, rfl, rfl, rfl⟩⟩

/-- SET DUTY to SHARED on an ineligible lane: with a frame in flight the item stops at the answer; with none, the session ends and the campaign is WAITING. -/
theorem test_duty_change_stops_a_campaign :
    let after := fun x => ran .setDuty (engaged (campaigning (stored full reelOne) visit) x) 0x28 [2]
    (after (frame .receiving (some 3))).map (fun b => ((b.campaign 1).map Campaign.state, (b.lane 0).item.map Item.stopping)) = some (some .running, some true) ∧
    (after .idle).map (fun b => ((b.campaign 1).map Campaign.state, (b.lane 0).state, (b.lane 0).sent)) = some (some .waiting, .ready, [.halt 1]) := by
  decide +kernel

theorem meets_PacingGate :
    ((asked held 0x2B [9, 0, 0, 0, 0, 0, 0, 0, 0, 0]).Takes 0x2B 1 [9, 0, 0, 0, 0, 0, 0, 0, 0, 0] ∧ ¬ fieldAt [9, 0, 0, 0, 0, 0, 0, 0, 0, 0] 0 1 ≤ 8) ∧
    ((asked held 0x2B [8, 1, 1, 1, 1, 1, 1, 1, 1, 1]).Takes 0x2B 1 [8, 1, 1, 1, 1, 1, 1, 1, 1, 1] ∧ (∀ i : Fin 10, 1 ≤ i.val → fieldAt [8, 1, 1, 1, 1, 1, 1, 1, 1, 1] i.val 1 ≤ 1)) ∧
    ((still held).Idle ∧ (held.lane 0).gate = none ∧ ((held.updLane 0 (fun ln => { ln with gate := some 50 })).lane 0).gate = some 50) ∧
    gateTime 0 100663296 300000 (some 256) = 375000 ∧ gateTime 0 100663296 500000 (some 256) = 504000 := by
  exact ⟨⟨takes (by decide +kernel), by decide +kernel⟩, ⟨takes (by decide +kernel), by decide +kernel⟩, ⟨idle rfl, by decide +kernel⟩, by decide +kernel⟩

theorem meets_CalibrateLaneRuns :
    ((asked full 0x2C [8]).Takes 0x2C 1 [8] ∧ (asked full 0x2C [0]).Takes 0x2C 1 [0] ∧ (full.lane 0).state ≠ .ready) ∧
    (let b := laned (campaigning (stored full reelOne) visit) .ready;
      (asked b 0x2C [0]).Takes 0x2C 1 [0] ∧ b.sched.head 0 = some visit ∧ visit.state ≠ .waiting) ∧
    ((asked (laned full .ready) 0x2C [0]).Takes 0x2C 1 [0] ∧ (laned full .ready).sched.head 0 = none) ∧
    (let b := calibrating (some 0) 5;
      (still b).Hears 0 0x11 1 [] (crcOf 0x11 1 []) ∧ (b.lane 0).exchange = .calibration 5 5 ∧ (b.duty.calibration[0]).map Calibration.firstAt = some (some 0)) := by
  exact ⟨⟨takes (by decide +kernel), takes (by decide +kernel), by decide +kernel⟩, ⟨takes (by decide +kernel), by decide +kernel⟩, ⟨takes (by decide +kernel), by decide +kernel⟩,
    hears rfl (by decide) rfl, by decide +kernel⟩

theorem meets_RestartEngineKeeps : (asked (stored full reelOne) 0x3F []).Takes 0x3F 1 [] ∧ (stored full reelOne).store.manifest 0 = some reelOne ∧
    (∀ st, ((laned full st).lane 0).state = st ∧ ((laned full st).lane 0).item = none) := by
  exact ⟨takes (by decide +kernel), by decide +kernel, fun st => ⟨rfl, rfl⟩⟩

/-- A waiting claim beside a FREE unit: of a campaign whose record may be visited, of one whose record is IN_REPAIR, and of a repair step. -/
theorem meets_grants :
    let claim (o : Owner) : Claim := { lane := 0, kind := .campaignFrame, owner := o, slot := 0, frame := 100, recLength := 3 }
    let b (o : Owner) (st : RecordState) : Block := { campaigning (stored full { reelOne with records := [{ length := some 3, state := st }, { length := some 3 }] }) visit with
      pool := { held.pool with fifo := [claim o] } }
    (∀ o st, (b o st).pool.fifo = claim o :: [] ∧ (b o st).pool.units[(0 : Fin 4)] = none ∧ (b o st).campaign 1 = some visit) ∧ visit.state = .running ∧ visit.resumePoint = some 100 ∧
    ((b (.campaign 1) .suspect).store.record 0 100).map FrameRecord.state = some .suspect ∧ ((b (.campaign 1) .inRepair).store.record 0 100).map FrameRecord.state = some .inRepair := by
  refine ⟨fun o st => ⟨rfl, rfl, rfl⟩, ?_⟩
  decide +kernel

theorem meets_ArbiterTakesTurn :
    let ready (c : Campaign) : Block := laned (campaigning (stored full reelOne) c) .ready
    let r := laned (repairing (stored full reelOne) { mending .staged with stepLane := none } .idle) .ready
    (∀ c, ((ready c).lane 0).state = .ready ∧ ((ready c).lane 0).item = none) ∧ (held.lane 0).state ≠ .ready ∧
    ((laned held .ready).duty.mode = .held ∧ ((laned held .ready).lane 0).settings.keepAlive = false) ∧
    (∀ st, (ready { visit with state := st }).pendingStep 0 = none) ∧ (ready { visit with state := .waiting }).sched.head 0 = some { visit with state := .waiting } ∧
    (ready { visit with resumePoint := none }).sched.head 0 = some { visit with resumePoint := none } ∧ (ready visit).duty.mayRun 0 = true ∧
    ((ready visit).store.manifest 0).map Manifest.state = some .ready ∧ ((ready visit).lane 0).gate = none ∧ (held.sched.head 0 = none) ∧
    ((r.updLane 0 (fun ln => { ln with item := none })).updLane 1 (fun ln => { ln with state := .ready })).pendingStep 0 = some { mending .staged with stepLane := none } := by
  refine ⟨fun c => ⟨rfl, rfl⟩, by decide +kernel, by decide +kernel, fun st => rfl, ?_⟩
  decide +kernel

/-- A repair step pending on a lane with a campaign session open: its head goes to WAITING, its resume point and counts kept. -/
theorem meets_a_step_before_a_campaign :
    let e : Entry := { mending .staged with stepLane := none }
    let c : Campaign := { visit with resumePoint := some 101, counts := { visit.counts with sound := 1 } }
    let b := (repairing (campaigning (stored full reelOne) c) e .idle).updLane 0 (fun ln => { ln with
      state := .ready, item := none, session := some { number := 1, kind := .campaign, span := some (1, 2), owner := .campaign 1 } })
    (b.lane 0).state = .ready ∧ (b.lane 0).item = none ∧ b.pendingStep 0 = some e ∧ b.sched.head 0 = some c ∧ b.campaign 1 = some c ∧
    ((b.arbiter 0).campaign 1) = some { c with state := .waiting } ∧ ((b.arbiter 0).lane 0).sent = [.halt 1, .openSpan 2 1 2] := by
  decide +kernel

end Sys2Proof.Tests
end

section
/-! SUPPORT. What every command and every step keeps, said once over the 64 commands (R2 among it), and the values after reset. -/
namespace Sys2Proof.Machine

/-! ## Every command keeps the bounds -/

/-- The move of a step that is no request, made from lanes, pool and tables alone, keeps the bounds. -/
theorem Stays.inner {f : Block → Block} (h : ∀ b, Inner b (f b)) {s t : State} (e : s.event f = .next t) : Stays s.blk t.blk :=
  Keeps.event f (fun b => (h b).keeps) e

/-- The move of a timer that runs out, which may bring the clock forward, keeps the bounds. -/
theorem Stays.timer {f : Block → Block} (h : ∀ b, ∃ t, b.clock ≤ t ∧ Inner { b with clock := t } (f b)) {s t : State} (e : s.event f = .next t) :
    Stays s.blk t.blk :=
  Keeps.event f (fun b => Keeps.clocked (h b)) e

/-- A session unit that is taken by moves alone keeps the bounds. -/
theorem Stays.sessionUnit {α : Type} {type session : Byte} {l : Fin 8} {body : List Byte} {crc : Word32} {parsed : Option α} {f : α → Block → Block}
    (h : ∀ x b, Keeps b (f x b)) {s t : State} (e : s.event (Block.sessionUnit type l session body crc parsed f) = .next t) : Stays s.blk t.blk :=
  Keeps.event _ (fun b => Keeps.sessionUnit fun x => h x b) e

/-- A link unit that is taken by moves alone keeps the bounds. -/
theorem Stays.linkUnit {α : Type} {type session : Byte} {l : Fin 8} {body : List Byte} {crc : Word32} {parsed : Option α} {f : α → Block → Block}
    (h : ∀ x b, Keeps b (f x b)) {s t : State} (e : s.event (Block.linkUnit type l session body crc parsed f) = .next t) : Stays s.blk t.blk :=
  Keeps.event _ (fun b => Keeps.linkUnit fun x => h x b) e

/-- A step of the Control Port alone keeps the bounds when it keeps the port's places and takes no reply place. -/
theorem Stays.portStep {f : Port → Port} (hf : ∀ p : Port, p.fits → (f p).fits) (hr : ∀ p : Port, (f p).repliesUsed ≤ p.repliesUsed) {s t : State}
    (e : s.event (Block.portStep f) = .next t) : Stays s.blk t.blk :=
  Keeps.event _ (fun b => Keeps.portStep (hf b.port) (hr b.port)) e

/-- Asserting the reset line discards the requests held and what the receiver holds, and touches nothing else that is bounded (R206). -/
theorem Stays.assertReset (b : Block) : Stays b b.assertReset :=
  ⟨id, fun h => ⟨Nat.zero_le _, h.2.1, h.2.2⟩, id, id, id, id, id⟩

/-- Every command keeps the bounds of Safety.lean. -/
theorem exec_stays (c : Instr) {s t : State} (e : exec c s = .next t) : Stays s.blk t.blk := by
  cases c with
  | powerUp => cases e; exact Stays.started _ _
  | resetLineAsserted => cases e; exact Stays.assertReset _
  | resetLineReleased =>
    cases e
    show Stays s.blk (if s.blk.resetLine then Block.started .resetLine else s.blk)
    split
    · exact Stays.started _ _
    · exact Stays.refl _
  | controlLinkFrame bytes => exact Stays.portStep (fun _ h => Port.receive_fits h bytes) (fun _ => Nat.le_of_eq (Port.scan_replies _ _ _)) e
  | frameGapExpired => exact Stays.portStep (fun _ h => Port.gapExpired_fits h) (fun p => Nat.le_of_eq p.gapExpired_replies) e
  | frameSent => exact Stays.portStep (fun _ h => Port.frameSent_fits h) Port.frameSent_replies e
  | notARequestKind kind tag body =>
    change (if isRequestKind kind then s.event id else s.request kind tag body (fun b => b.refuse .kind)) = .next t at e
    split at e
    · exact Keeps.event id Keeps.refl e
    · exact Stays.request _ (fun b => Keeps.refuse b .kind) e
  | openManifest tag body => exact Stays.request _ (Keeps.openManifest body) e
  | loadRecords tag body => exact Stays.request _ (Keeps.loadRecords body) e
  | completeManifest tag body => exact Stays.request _ (Keeps.completeManifest body) e
  | eraseManifest tag body => exact Stays.request _ (Keeps.eraseManifest body) e
  | bindCopies tag body => exact Stays.request _ (Keeps.bindCopies body) e
  | readManifest tag body => exact Stays.request _ (Keeps.readManifest body) e
  | readRecords tag body => exact Stays.request _ (Keeps.readRecords body) e
  | bringUpLane tag body => exact Stays.request _ (Keeps.bringUpLane body) e
  | putDownLane tag body => exact Stays.request _ (Keeps.putDownLane body) e
  | restartLane tag body => exact Stays.request _ (Keeps.restartLane body) e
  | setLane tag body => exact Stays.request _ (Keeps.setLane body) e
  | readLane tag body => exact Stays.request _ (Keeps.readLane body) e
  | setCapture tag body => exact Stays.request _ (Keeps.setCapture body) e
  | readCapture tag body => exact Stays.request _ (Keeps.readCapture body) e
  | verify tag body => exact Stays.request _ (Keeps.verify body) e
  | resumeCampaign tag body => exact Stays.request _ (Keeps.resumeCampaign body) e
  | abandonCampaign tag body => exact Stays.request _ (Keeps.abandonCampaign body) e
  | dismissCampaign tag body => exact Stays.request _ (Keeps.dismissCampaign body) e
  | readCampaign tag body => exact Stays.request _ (Keeps.readCampaign body) e
  | readFindings tag body => exact Stays.request _ (Keeps.readFindings body) e
  | acknowledge tag body => exact Stays.request _ (Keeps.acknowledge body) e
  | setProfile tag body => exact Stays.request _ (Keeps.setProfile body) e
  | selectProfile tag body => exact Stays.request _ (Keeps.selectProfile body) e
  | readFlags tag body => exact Stays.request _ Keeps.readFlags e
  | clearFlags tag body => exact Stays.request _ (Keeps.clearFlags body) e
  | enqueueSuspects tag body => exact Stays.request _ (Keeps.enqueueSuspects body) e
  | withdrawSuspect tag body => exact Stays.request _ (Keeps.withdrawSuspect body) e
  | readSuspects tag body => exact Stays.request _ (Keeps.readSuspects body) e
  | setRepair tag body => exact Stays.request _ (Keeps.setRepair body) e
  | setDuty tag body => exact Stays.request _ (Keeps.setDuty body) e
  | hold tag body => exact Stays.request _ (Keeps.hold body) e
  | wake tag body => exact Stays.request _ (Keeps.wake body) e
  | setPacing tag body => exact Stays.request _ (Keeps.setPacing body) e
  | calibrateLane tag body => exact Stays.request _ (Keeps.calibrateLane body) e
  | readDuty tag body => exact Stays.request _ Keeps.readDuty e
  | restartEngine tag body => exact Stays.request _ Keeps.restartEngine e
  | hello l session body crc => exact Stays.linkUnit (fun x b => ((Inner.refl b).helloTaken l x).keeps) e
  | header l session body crc => exact Stays.sessionUnit (fun x b => ((Inner.refl b).headerTaken l x).keeps) e
  | mark l session body crc => exact Stays.sessionUnit (fun x b => ((Inner.refl b).markTaken l x).keeps) e
  | payload l session body crc => exact Stays.sessionUnit (Keeps.payloadTaken l) e
  | endUnit l session body crc => exact Stays.sessionUnit (fun _ b => ((Inner.refl b).endTaken l).keeps) e
  | trailer l session body crc => exact Stays.sessionUnit (fun x b => ((Inner.refl b).trailerTaken l x).keeps) e
  | notFound l session body crc => exact Stays.sessionUnit (fun x b => ((Inner.refl b).notFoundTaken l x).keeps) e
  | fault l session body crc => exact Stays.sessionUnit (fun x b => ((Inner.refl b).faultTaken l x).keeps) e
  | annotation l session body crc => exact Stays.sessionUnit (Keeps.annotationTaken l) e
  | yield l session body crc => exact Stays.linkUnit (fun _ b => ((Inner.refl b).yieldTaken l).keeps) e
  | resume l session body crc => exact Stays.linkUnit (fun _ b => ((Inner.refl b).resumeTaken l).keeps) e
  | rewriteDone l session body crc => exact Stays.sessionUnit (fun x b => ((Inner.refl b).rewriteDoneTaken l x).keeps) e
  | rewriteFailed l session body crc => exact Stays.sessionUnit (fun x b => ((Inner.refl b).rewriteFailedTaken l x).keeps) e
  | unknownUnitType l type session body crc =>
    refine Stays.inner (f := fun b => if type ∈ readerTypes then b else b.malformed l) (fun b => ?_) e
    split
    · exact Inner.refl b
    · exact (Inner.refl b).malformed l
  | rewriteEndSent l => exact Stays.inner (fun b => (Inner.refl b).rewriteSent l) e
  | settleWaitExpired l => exact Stays.timer (Block.settleExpires_inner l) e
  | stallTimerExpired l => exact Stays.timer (Block.stallExpires_inner l) e
  | freshnessTimerExpired k => exact Keeps.event _ (Keeps.freshnessExpires k) e
  | holdTimerExpired => exact Keeps.event _ Keeps.holdExpires e
  | pacingGateOpens l => exact Stays.timer (Block.gateOpens_inner l) e
  | rollupCompletes => exact Stays.inner (fun b => (Inner.refl b).rollupDone) e

/-- Every step keeps the bounds of Safety.lean. -/
theorem step_stays {s t : State} (e : step s = .next t) : Stays s.blk t.blk := by
  unfold step at e
  split at e
  · cases e; exact (Keeps.clock s.blk (s.blk.clock + Config.tick)).stays
  · next c rest _ => exact exec_stays c (s := s.withPending rest) e

/-- Settles O8: of the bounds that every step keeps, the balance of the record pool. -/
theorem stepKeepsPoolBalance : Obligations.StepKeepsPoolBalance :=
  fun _ _ hb e => (step_stays e).pool hb

/-! ## The values after reset -/

/-- The states that `ResetValues` speaks of hold the part as a start leaves it. -/
theorem blk_started {t : State} (h : t = State.reset ∨ (∃ s, exec .powerUp s = .next t) ∨ (∃ s, s.blk.resetLine = true ∧ exec .resetLineReleased s = .next t)) :
    ∃ cause, t.blk = Block.started cause := by
  rcases h with rfl | ⟨s, e⟩ | ⟨s, hr, e⟩
  · exact ⟨.powerUp, rfl⟩
  · cases e; exact ⟨.powerUp, rfl⟩
  · cases e; exact ⟨.resetLine, if_pos hr⟩

theorem Block.started_lane (cause : EngineCause) (l : Fin 8) : (Block.started cause).lane l = {} := by
  simp [Block.lane, Block.started]

/-- Settles O3: each value is read off the part as a start leaves it. -/
theorem resetValues : Obligations.ResetValues := by
  intro t ht
  obtain ⟨cause, hb⟩ := blk_started ht
  dsimp only
  rw [hb]
  refine ⟨?slots, rfl, rfl, rfl, ?capture, ?session, rfl, fun _ => rfl, rfl, rfl, rfl, rfl, rfl, rfl, rfl, rfl, rfl, rfl, rfl, ?units, rfl, ?lanes,
    ⟨rfl, rfl, rfl, rfl, rfl, ?duty⟩, rfl, rfl, rfl, rfl⟩
  case slots => intro k; simp [Store.manifest, Block.started, Store.reset]
  case capture => intro k; simp [Block.started]
  case session => intro l; rw [Block.started_lane]; exact ⟨rfl, rfl⟩
  case units => intro i; simp [Block.started, Pool.reset]
  case lanes => intro l; rw [Block.started_lane]; exact ⟨rfl, rfl, rfl, rfl, rfl, rfl, rfl, rfl, rfl, rfl, rfl, rfl, rfl, rfl, rfl⟩
  case duty => intro l; simp [Block.started, Duty.reset]

end Sys2Proof.Machine
end

section
/-! SUPPORT. The requests of the Fixity Store (chapter 01) and ROLLUP_COMPLETES: each answered without turns or notices left over. -/
namespace Sys2Proof.Machine

/-! ## The slot and the manifest a request names (R5) -/

theorem slotOf_none {n : Nat} (h : 16 ≤ n) : slotOf n = none := dif_neg (Nat.not_lt.2 h)

theorem laneOf_none {n : Nat} (h : 8 ≤ n) : laneOf n = none := dif_neg (Nat.not_lt.2 h)

theorem Block.onManifest_range {b : Block} {n : Nat} (h : 16 ≤ n) (f : Fin 16 → Manifest → Block × Reply) : b.onManifest n f = b.refuse .range := by
  unfold Block.onManifest; rw [slotOf_none h]

theorem Block.onManifest_absent {b : Block} {n : Nat} {k : Fin 16} (hk : slotOf n = some k) (hm : b.store.manifest k = none)
    (f : Fin 16 → Manifest → Block × Reply) : b.onManifest n f = b.refuse .absent := by
  unfold Block.onManifest; rw [hk]; dsimp only; rw [hm]

theorem Block.onManifest_held {b : Block} {n : Nat} {k : Fin 16} {m : Manifest} (hk : slotOf n = some k) (hm : b.store.manifest k = some m)
    (f : Fin 16 → Manifest → Block × Reply) : b.onManifest n f = f k m := by
  unfold Block.onManifest; rw [hk]; dsimp only; rw [hm]

/-- A request that changes the store alone is answered at once: the store has nothing to settle and raises nothing. -/
theorem State.request_stored {s : State} {kind tag : Byte} {body : List Byte} (h : s.Takes kind tag body) {owner : Block → Block × Reply} {st : Store}
    {rep : Reply} (ho : owner s.blk = ({ s.blk with store := st }, rep)) :
    s.request kind tag body owner = .next (s.replied { s.blk with store := st } kind tag rep) :=
  State.request_replied h ho h.quiet rfl

/-- A request that changes nothing is answered at once. -/
theorem State.request_read {s : State} {kind tag : Byte} {body : List Byte} (h : s.Takes kind tag body) {owner : Block → Block × Reply}
    {rep : Reply} (ho : owner s.blk = (s.blk, rep)) : s.request kind tag body owner = .next (s.replied s.blk kind tag rep) :=
  State.request_replied h ho h.quiet rfl

/-! ## OPEN MANIFEST (R6) -/

theorem openInRange_iff (first count : Nat) : openInRange first count = true ↔ 1 ≤ count ∧ count ≤ 4096 ∧ first + count - 1 ≤ 4294967295 := by
  simp [openInRange, and_assoc]

theorem Block.openManifest_state {b : Block} {body : List Byte} {k : Fin 16} (hk : slotOf (fieldAt body 0 1) = some k) (hm : b.store.manifest k ≠ none) :
    b.openManifest body = b.refuse .state := by
  unfold Block.openManifest; rw [hk]; exact if_pos (Option.isSome_iff_ne_none.2 hm)

/-- With the slot EMPTY, the fields are tested first, then the room. -/
theorem Block.openManifest_empty {b : Block} {body : List Byte} {k : Fin 16} (hk : slotOf (fieldAt body 0 1) = some k) (hm : b.store.manifest k = none) :
    b.openManifest body = if !openInRange (fieldAt body 13 4) (fieldAt body 17 2) then b.refuse .range
      else if b.store.free < fieldAt body 17 2 then b.refuse .room
      else Block.done { b with store := { b.store.put k (some (Manifest.opened body)) with free := b.store.free - fieldAt body 17 2 } }
        (beBytes 2 (b.store.free - fieldAt body 17 2)) := by
  unfold Block.openManifest; rw [hk]; exact if_neg (by rw [hm]; exact Bool.false_ne_true)

/-- Settles O23, branch by branch of OPEN MANIFEST. -/
theorem openManifestReserves : Obligations.OpenManifestReserves := by
  intro s tag body h
  dsimp only
  refine ⟨fun hr => ?_, fun k hk => ⟨fun hm => ?_, fun hm hf => ?_, fun hm h1 h2 h3 hroom => ?_, fun hm h1 h2 h3 hroom => ?_⟩⟩
  · exact State.request_refused h (by unfold Block.openManifest; rw [slotOf_none hr]; rfl)
  · exact State.request_refused h (Block.openManifest_state hk hm)
  · have hf' : openInRange (fieldAt body 13 4) (fieldAt body 17 2) = false := by
      rw [← Bool.not_eq_true, openInRange_iff]; exact hf
    exact State.request_refused h (by rw [Block.openManifest_empty hk hm, hf']; rfl)
  · have hf := (openInRange_iff _ _).2 ⟨h1, h2, h3⟩
    exact State.request_refused h (by rw [Block.openManifest_empty hk hm, hf, if_neg (by simp), if_pos hroom]; rfl)
  · have hf := (openInRange_iff _ _).2 ⟨h1, h2, h3⟩
    exact State.request_stored h (by rw [Block.openManifest_empty hk hm, hf, if_neg (by simp), if_neg (Nat.not_lt.2 hroom)]; rfl)

/-! ## The roll-up unit (R12, R14) -/

/-- An idle unit takes the head of the FIFO, if there is one (R12). -/
theorem Store.takeRollup_idle {st : Store} (h : st.unit = none) : st.takeRollup = { st with unit := st.fifo.head?, fifo := st.fifo.tail } := by
  obtain ⟨slots, free, unit, fifo⟩ := st
  subst h
  cases fifo <;> rfl

/-- An idle unit takes the head of the FIFO, and a busy one takes nothing. -/
theorem Store.takeRollup_eq (st : Store) : st.takeRollup = { st with
    unit := if st.unit = none then st.fifo.head? else st.unit
    fifo := if st.unit = none then st.fifo.tail else st.fifo } := by
  obtain ⟨slots, free, unit, fifo⟩ := st
  cases unit with
  | none => exact Store.takeRollup_idle rfl
  | some k => rfl

/-- A roll-up cancelled in the unit makes room for the head of the FIFO (R14). -/
theorem Store.cancelRollup_held {st : Store} {k : Fin 16} (h : st.unit = some k) :
    st.cancelRollup k = { st with unit := st.fifo.head?, fifo := st.fifo.tail } := by
  unfold Store.cancelRollup
  rw [if_pos h]
  exact Store.takeRollup_idle rfl

/-- A roll-up cancelled elsewhere leaves the FIFO (R14). -/
theorem Store.cancelRollup_waiting {st : Store} {k : Fin 16} (h : st.unit ≠ some k) :
    st.cancelRollup k = { st with fifo := st.fifo.filter (fun j => j != k) } := by
  unfold Store.cancelRollup
  exact if_neg h

/-! ## LOAD RECORDS (R7, R8, R9) -/

@[simp] theorem loadFrom_length : ∀ (ps : List (Nat × Word64)) (rs : List FrameRecord) (i : Nat), (loadFrom rs i ps).length = rs.length
  | [], _, _ => rfl
  | p :: ps, rs, i => by
    show (loadFrom (rs.modify i (FrameRecord.load p)) (i + 1) ps).length = _
    rw [loadFrom_length ps, List.length_modify]

/-- A batch written from an index on changes the records it covers, and no other. -/
theorem loadFrom_getElem? : ∀ (ps : List (Nat × Word64)) (rs : List FrameRecord) (start i : Nat) (r : FrameRecord), rs[i]? = some r →
    (loadFrom rs start ps)[i]? = some (if h : start ≤ i ∧ i < start + ps.length then r.load (ps[i - start]'(by omega)) else r)
  | [], rs, start, i, r, h => by
    rw [dif_neg (by rw [List.length_nil]; omega)]; exact h
  | p :: ps, rs, start, i, r, h => by
    show (loadFrom (rs.modify start (FrameRecord.load p)) (start + 1) ps)[i]? = _
    by_cases hi : start = i
    · subst hi
      have hm : (rs.modify start (FrameRecord.load p))[start]? = some (r.load p) := by simp [h]
      rw [loadFrom_getElem? ps _ _ _ _ hm, dif_neg (by omega), dif_pos ⟨Nat.le_refl _, by simp⟩]
      simp
    · have hm : (rs.modify start (FrameRecord.load p))[i]? = some r := by simp [h, hi]
      rw [loadFrom_getElem? ps _ _ _ _ hm]
      by_cases hc : start ≤ i ∧ i < start + (p :: ps).length
      · have hc' : start + 1 ≤ i ∧ i < start + 1 + ps.length := by simp at hc; omega
        rw [dif_pos hc, dif_pos hc']
        have e : i - start = (i - (start + 1)) + 1 := by omega
        simp [e]
      · have hc' : ¬(start + 1 ≤ i ∧ i < start + 1 + ps.length) := by simp at hc; omega
        rw [dif_neg hc, dif_neg hc']

theorem loadPairs_length (body : List Byte) : (loadPairs body).length = fieldAt body 3 1 := by simp [loadPairs]

theorem Manifest.loadPinned_iff (m : Manifest) :
    m.loadPinned = true ↔ (m.state = .ready ∨ m.state = .discordant) ∧ 0 < m.campaignPins + m.suspectPins := by
  unfold Manifest.loadPinned
  cases m.state <;> simp [Manifest.pins]

theorem Manifest.batchInRange_iff (m : Manifest) (start : Nat) (body : List Byte) : m.batchInRange start (loadPairs body) = true ↔
    1 ≤ fieldAt body 3 1 ∧ fieldAt body 3 1 ≤ 32 ∧ start + fieldAt body 3 1 ≤ m.count ∧
      ∀ i, i < fieldAt body 3 1 → 1 ≤ fieldAt body (4 + 12 * i) 4 ∧ fieldAt body (4 + 12 * i) 4 ≤ 268435456 := by
  simp only [Manifest.batchInRange, loadPairs, Bool.and_eq_true, decide_eq_true_eq, List.length_map, List.length_range, List.all_eq_true, List.forall_mem_map,
    List.mem_range, and_assoc]
  rfl

/-- A batch leaves the manifest LOADING; what a CLOSING, READY or DISCORDANT one held of a roll-up is cleared (R7, R8, R9). -/
theorem Manifest.loadBatch_eq (m : Manifest) (start : Nat) (pairs : List (Nat × Word64)) : m.loadBatch start pairs = { m with
    state := .loading
    expected := if m.state = .loading then m.expected else none
    computed := if m.state = .ready ∨ m.state = .discordant then none else m.computed
    trailerDisagrees := if m.state = .ready ∨ m.state = .discordant then false else m.trailerDisagrees
    records := loadFrom m.records start pairs } := by
  obtain ⟨state, _⟩ := m
  cases state <;> rfl

/-- The record at an index after a batch (R7). -/
theorem Manifest.loadBatch_record (m : Manifest) (start : Nat) (body : List Byte) {i : Nat} {r : FrameRecord} (h : m.records[i]? = some r) :
    (m.loadBatch start (loadPairs body)).records[i]? = some (if start ≤ i ∧ i < start + fieldAt body 3 1 then
      r.load (loadPair body (i - start)) else r) := by
  rw [Manifest.loadBatch_eq]
  rw [loadFrom_getElem? _ _ _ _ _ h]
  by_cases hc : start ≤ i ∧ i < start + fieldAt body 3 1
  · rw [dif_pos (by rw [loadPairs_length]; exact hc), if_pos hc]
    simp [loadPairs]
  · rw [dif_neg (by rw [loadPairs_length]; exact hc), if_neg hc]

/-- Where LOAD RECORDS writes: the store without the roll-up of a CLOSING manifest (R9, R14). -/
def Store.reopened (st : Store) (k : Fin 16) (m : Manifest) : Store := if m.state = .closing then st.cancelRollup k else st

theorem Store.reopened_free (st : Store) (k : Fin 16) (m : Manifest) : (st.reopened k m).free = st.free := by
  unfold Store.reopened
  split
  · exact Store.cancelRollup_free st k
  · rfl

theorem Store.reopened_slots (st : Store) (k : Fin 16) (m : Manifest) : (st.reopened k m).slots = st.slots := by
  unfold Store.reopened
  split
  · exact Store.cancelRollup_slots st k
  · rfl

/-- LOAD RECORDS on a manifest held: PINNED, then RANGE, then the batch (R7, R8). -/
theorem Block.loadRecords_held {b : Block} {body : List Byte} {k : Fin 16} {m : Manifest} (hk : slotOf (fieldAt body 0 1) = some k)
    (hm : b.store.manifest k = some m) : b.loadRecords body =
      if m.loadPinned then b.refuse .pinned
      else if !m.batchInRange (fieldAt body 1 2) (loadPairs body) then b.refuse .range
      else Block.done { b with store := (b.store.reopened k m).put k (some (m.loadBatch (fieldAt body 1 2) (loadPairs body))) }
        (beBytes 2 (m.loadBatch (fieldAt body 1 2) (loadPairs body)).loaded) :=
  Block.onManifest_held hk hm _

/-- Settles O24: the refusals in their order, then the batch by `Manifest.loadBatch_eq` and the roll-up by `Store.cancelRollup`'s two cases. -/
theorem loadRecordsWrites : Obligations.LoadRecordsWrites := by
  intro s tag body h
  dsimp only
  refine ⟨fun hr => State.request_refused h (Block.onManifest_range hr _), fun k hk hm => State.request_refused h (Block.onManifest_absent hk hm _),
    fun k m hk hm => ⟨fun hp => ?_, fun hp hf => ?_, fun hp hf => ?_⟩⟩
  · exact State.request_refused h (by rw [Block.loadRecords_held hk hm, if_pos ((Manifest.loadPinned_iff m).2 hp)]; rfl)
  · have hf' : m.batchInRange (fieldAt body 1 2) (loadPairs body) = false := by
      rw [← Bool.not_eq_true, Manifest.batchInRange_iff]; exact hf
    exact State.request_refused h (by rw [Block.loadRecords_held hk hm, if_neg (mt (Manifest.loadPinned_iff m).1 hp), hf']; rfl)
  · have hf' := (Manifest.batchInRange_iff m (fieldAt body 1 2) body).2 hf
    refine ⟨_, m.loadBatch (fieldAt body 1 2) (loadPairs body), State.request_stored h (?_ : s.blk.loadRecords body =
      ({ s.blk with store := (s.blk.store.reopened k m).put k (some (m.loadBatch (fieldAt body 1 2) (loadPairs body))) }, _)), ?_, ?_, ?_, ?_, ?_, ?_, ?_, ?_⟩
    · rw [Block.loadRecords_held hk hm, if_neg (mt (Manifest.loadPinned_iff m).1 hp), hf']; rfl
    · exact Store.reopened_free _ k m
    · intro j
      rw [Store.manifest_put, Store.manifest_congr (Store.reopened_slots _ k m)]
    · intro hc
      rw [Store.put_unit, Store.put_fifo, Store.reopened, if_neg hc]
      exact ⟨rfl, rfl⟩
    · intro hc hu
      rw [Store.put_unit, Store.put_fifo, Store.reopened, if_pos hc, Store.cancelRollup_held hu]
      exact ⟨rfl, rfl⟩
    · intro hc hu
      rw [Store.put_unit, Store.put_fifo, Store.reopened, if_pos hc, Store.cancelRollup_waiting hu]
      exact ⟨rfl, rfl⟩
    · rw [Manifest.loadBatch_eq]
    · rw [Manifest.loadBatch_eq]; exact loadFrom_length _ _ _
    · intro i r hr
      exact Manifest.loadBatch_record m _ body hr

/-! ## COMPLETE MANIFEST (R10, R12) -/

/-- COMPLETE MANIFEST on a manifest held (R10). -/
theorem Block.completeManifest_held {b : Block} {body : List Byte} {k : Fin 16} {m : Manifest} (hk : slotOf (fieldAt body 0 1) = some k)
    (hm : b.store.manifest k = some m) : b.completeManifest body =
      if m.state = .loading ∧ m.loaded = m.count then
        Block.done { b with store := Store.takeRollup { b.store.put k (some { m with state := .closing, expected := some (BitVec.ofNat 64 (fieldAt body 1 8)) }) with
          fifo := b.store.fifo ++ [k] } } []
      else b.refuse .state :=
  Block.onManifest_held hk hm _

/-- Settles O25: the unit is idle and takes the head of the FIFO, or is busy and takes nothing. -/
theorem completeManifestCloses : Obligations.CompleteManifestCloses := by
  intro s tag body h
  dsimp only
  refine ⟨fun hr => State.request_refused h (Block.onManifest_range hr _), fun k hk hm => State.request_refused h (Block.onManifest_absent hk hm _),
    fun k m hk hm => ⟨fun hc => ?_, fun hs hl => ?_⟩⟩
  · exact State.request_refused h (by rw [Block.completeManifest_held hk hm]; exact if_neg hc)
  · refine State.request_stored h ?_
    rw [Block.completeManifest_held hk hm, if_pos ⟨hs, hl⟩]
    rw [Store.takeRollup_eq]
    rfl

/-! ## ROLLUP_COMPLETES (R11, R13) -/

/-- The unit's result settles the manifest it held, and the unit takes the next one (R12, R13). -/
theorem Block.rollupDone_held {b : Block} {k : Fin 16} {m : Manifest} (hu : b.store.unit = some k) (hm : b.store.manifest k = some m) :
    b.rollupDone = ({ b with store := { b.store.put k (some m.settle) with unit := b.store.fifo.head?, fifo := b.store.fifo.tail } } : Block).raise
      (.manifestSettled k m.reel m.span m.settle.state m.rollup) := by
  unfold Block.rollupDone
  rw [hu]
  dsimp only
  rw [hm]
  dsimp only
  rw [Store.takeRollup_idle rfl]
  rfl

/-- Settles O26. -/
theorem rollupCompletes : Obligations.RollupCompletes := by
  intro s h
  refine ⟨fun hu => ?_, fun k m hu hm => ?_⟩
  · exact State.event_still h (by unfold Block.rollupDone; rw [hu]) h.quiet h.told
  · exact State.event_raises h (Block.rollupDone_held hu hm) h.quiet rfl

/-! ## ERASE MANIFEST (R17) -/

/-- ERASE MANIFEST on a manifest held (R17). -/
theorem Block.eraseManifest_held {b : Block} {body : List Byte} {k : Fin 16} {m : Manifest} (hk : slotOf (fieldAt body 0 1) = some k)
    (hm : b.store.manifest k = some m) : b.eraseManifest body =
      if 0 < m.pins then b.refuse .pinned
      else Block.done { b with store := { (b.store.reopened k m).put k none with free := (b.store.reopened k m).free + m.count } }
        (beBytes 2 ((b.store.reopened k m).free + m.count)) :=
  Block.onManifest_held hk hm _

/-- Settles O27: a manifest that is CLOSING has its roll-up in the unit or waiting, any other has none. -/
theorem eraseManifestReturns : Obligations.EraseManifestReturns := by
  intro s tag body h
  dsimp only
  refine ⟨fun hr => State.request_refused h (Block.onManifest_range hr _), fun k hk hm => State.request_refused h (Block.onManifest_absent hk hm _),
    fun k m hk hm => ⟨fun hp => ?_, fun hp => ?_⟩⟩
  · exact State.request_refused h (by rw [Block.eraseManifest_held hk hm]; exact if_pos hp)
  · refine State.request_stored h ?_
    rw [Block.eraseManifest_held hk hm, if_neg (by unfold Manifest.pins; omega), Store.reopened_free]
    unfold Store.reopened
    by_cases hc : m.state = .closing
    · by_cases hu : s.blk.store.unit = some k
      · rw [if_pos hc, Store.cancelRollup_held hu, if_pos ⟨hc, hu⟩, if_pos ⟨hc, hu⟩]; rfl
      · rw [if_pos hc, Store.cancelRollup_waiting hu, if_neg (fun e => hu e.2), if_neg (fun e => hu e.2), if_pos ⟨hc, hu⟩]; rfl
    · rw [if_neg hc, if_neg (fun e => hc e.1), if_neg (fun e => hc e.1), if_neg (fun e => hc e.1)]; rfl

/-! ## BIND COPIES (R15) -/

theorem bindLane_bad {n : Nat} (h : 8 ≤ n ∧ n ≠ 0xFF) : bindLane n = none := by
  unfold bindLane; rw [if_neg h.2, laneOf_none h.1]; rfl

theorem bindLane_good {n : Nat} (h : ¬(8 ≤ n ∧ n ≠ 0xFF)) : bindLane n = some (if n = 0xFF then none else laneOf n) := by
  unfold bindLane
  by_cases hn : n = 0xFF
  · rw [if_pos hn, if_pos hn]
  · have h8 : n < 8 := by omega
    rw [if_neg hn, if_neg hn, laneOf, dif_pos h8]; rfl

/-- Two good values name the same lane when they are equal and neither is NONE. -/
theorem bindLane_same {a c : Nat} (ha : ¬(8 ≤ a ∧ a ≠ 0xFF)) (hc : ¬(8 ≤ c ∧ c ≠ 0xFF)) :
    ((if a = 0xFF then none else laneOf a) ≠ none ∧ (if a = 0xFF then none else laneOf a) = if c = 0xFF then none else laneOf c) ↔ (a < 8 ∧ a = c) := by
  have lane : ∀ n : Nat, ¬(8 ≤ n ∧ n ≠ 0xFF) → (n = 255 ∧ (if n = 0xFF then none else laneOf n) = none) ∨
      ∃ h : n < 8, (if n = 0xFF then none else laneOf n) = some ⟨n, h⟩ := by
    intro n hn
    by_cases e : n = 255
    · exact .inl ⟨e, if_pos e⟩
    · have h8 : n < 8 := by omega
      exact .inr ⟨h8, by rw [if_neg e, laneOf, dif_pos h8]⟩
  rcases lane a ha with ⟨ea, la⟩ | ⟨ha8, la⟩ <;> rcases lane c hc with ⟨ec, lc⟩ | ⟨hc8, lc⟩ <;> rw [la, lc]
  · simp; omega
  · simp; omega
  · simp; omega
  · simp [ha8]

/-- BIND COPIES on a manifest held with no suspect pin (R15). -/
theorem Block.bindCopies_held {b : Block} {body : List Byte} {k : Fin 16} {m : Manifest} (hk : slotOf (fieldAt body 0 1) = some k)
    (hm : b.store.manifest k = some m) : b.bindCopies body =
      if 0 < m.suspectPins then b.refuse .pinned
      else match bindLane (fieldAt body 1 1), bindLane (fieldAt body 2 1) with
        | some a, some c =>
          if a ≠ none ∧ a = c then b.refuse .range
          else Block.done { b with store := b.store.put k (some { m with copyA := a, copyB := c }) } []
        | _, _ => b.refuse .range :=
  Block.onManifest_held hk hm _

/-- Settles O28: a value that is no lane and not NONE, then one lane named twice, are refused. -/
theorem bindCopiesReplaces : Obligations.BindCopiesReplaces := by
  intro s tag body h
  dsimp only
  refine ⟨fun hr => State.request_refused h (Block.onManifest_range hr _), fun k hk hm => State.request_refused h (Block.onManifest_absent hk hm _),
    fun k m hk hm => ⟨fun hp => ?_, fun hp hbad => ?_, fun hp ha hc hsame => ?_⟩⟩
  · exact State.request_refused h (by rw [Block.bindCopies_held hk hm]; exact if_pos hp)
  · refine State.request_refused h ?_
    rw [Block.bindCopies_held hk hm, if_neg (by omega)]
    by_cases ha : 8 ≤ fieldAt body 1 1 ∧ fieldAt body 1 1 ≠ 0xFF
    · rw [bindLane_bad ha]; rfl
    · by_cases hc : 8 ≤ fieldAt body 2 1 ∧ fieldAt body 2 1 ≠ 0xFF
      · rw [bindLane_good ha, bindLane_bad hc]; rfl
      · rw [bindLane_good ha, bindLane_good hc]
        exact if_pos ((bindLane_same ha hc).2 ((hbad.resolve_left ha).resolve_left hc))
  · refine State.request_stored h ?_
    rw [Block.bindCopies_held hk hm, if_neg (by omega), bindLane_good ha, bindLane_good hc]
    exact if_neg (mt (bindLane_same ha hc).1 hsame)

/-! ## READ MANIFEST and READ RECORDS (R18, R19) -/

theorem beBytes_length : ∀ n v : Nat, (beBytes n v).length = n
  | 0, _ => rfl
  | n + 1, v => congrArg Nat.succ (beBytes_length n v)

/-- An optional value of a fixed width takes one byte more than its width (R215). -/
theorem optBytes_length {n : Nat} : ∀ {o : Option (List Byte)}, (∀ bs, o = some bs → bs.length = n) → (optBytes n o).length = n + 1
  | none, _ => by simp [optBytes]
  | some bs, h => by simp [optBytes, h bs rfl]

/-- A record takes 23 bytes of a reply (R19, R215). -/
theorem FrameRecord.bytes_length (frame : Nat) (r : FrameRecord) : (FrameRecord.bytes frame r).length = 23 := by
  have hlen : (optBytes 4 (r.length.map (beBytes 4))).length = 5 := optBytes_length fun bs h => by
    obtain ⟨n, _, rfl⟩ := Option.map_eq_some_iff.1 h
    exact beBytes_length 4 n
  have hlast : (optBytes 1 (r.last.map (fun v => [BitVec.ofNat 8 v.code]))).length = 2 := optBytes_length fun bs h => by
    obtain ⟨v, _, rfl⟩ := Option.map_eq_some_iff.1 h
    rfl
  simp [FrameRecord.bytes, beBytes_length, hlen, hlast]

theorem Manifest.recordItems_length (m : Manifest) {start count : Nat} (h : start + count ≤ m.records.length) : (m.recordItems start count).length = count := by
  simp [Manifest.recordItems]; omega

/-- The items are the records of the range in index order, each with its frame number (R19). -/
theorem Manifest.recordItems_getElem? (m : Manifest) {start count i : Nat} {r : FrameRecord} (hi : i < count) (hr : m.records[start + i]? = some r) :
    (m.recordItems start count)[i]? = some (FrameRecord.bytes (m.first + start + i) r) := by
  simp [Manifest.recordItems, hi, hr]

/-- Up to 32 records always fit in one reply (R19, R215). -/
theorem Manifest.recordItems_fit (m : Manifest) {start count : Nat} (hc : count ≤ 32) (h : start + count ≤ m.records.length) :
    (m.recordItems start count).flatten.length ≤ 1022 := by
  have all : ∀ x ∈ (m.recordItems start count).map List.length, x ≤ 23 := by
    intro x hx
    obtain ⟨item, hitem, rfl⟩ := List.mem_map.1 hx
    obtain ⟨p, _, rfl⟩ := List.mem_map.1 hitem
    exact Nat.le_of_eq (FrameRecord.bytes_length _ _)
  have sum := List.sum_le_card_nsmul _ 23 all
  rw [List.length_map, Manifest.recordItems_length m h, smul_eq_mul] at sum
  rw [List.length_flatten]
  omega

/-- READ RECORDS on a manifest held (R19). -/
theorem Block.readRecords_held {b : Block} {body : List Byte} {k : Fin 16} {m : Manifest} (hk : slotOf (fieldAt body 0 1) = some k)
    (hm : b.store.manifest k = some m) : b.readRecords body =
      if 1 ≤ fieldAt body 3 1 ∧ fieldAt body 3 1 ≤ 32 ∧ fieldAt body 1 2 + fieldAt body 3 1 ≤ m.count then
        b.done (listResults [] (m.recordItems (fieldAt body 1 2) (fieldAt body 3 1)))
      else b.refuse .range :=
  Block.onManifest_held hk hm _

/-- Settles O29: both requests answer from the values that stand. -/
theorem storeReads : Obligations.StoreReads := by
  refine ⟨fun s tag body h => ?_, fun s tag body h => ?_⟩
  · refine ⟨fun hr => State.request_refused h ?_, fun k hk => ⟨fun hm => State.request_read h ?_, fun m hm => State.request_read h ?_⟩⟩
    · unfold Block.readManifest; rw [slotOf_none hr]; rfl
    · unfold Block.readManifest; rw [hk]; dsimp only; rw [hm]; rfl
    · unfold Block.readManifest; rw [hk]; dsimp only; rw [hm]; rfl
  · dsimp only
    refine ⟨fun hr => State.request_refused h (Block.onManifest_range hr _), fun k hk hm => State.request_refused h (Block.onManifest_absent hk hm _),
      fun k m hk hm => ⟨fun hf => ?_, fun hf hl => ?_⟩⟩
    · exact State.request_refused h (by rw [Block.readRecords_held hk hm]; exact if_neg hf)
    · have hlen : fieldAt body 1 2 + fieldAt body 3 1 ≤ m.records.length := hl ▸ hf.2.2
      refine ⟨m.recordItems (fieldAt body 1 2) (fieldAt body 3 1), State.request_read h ?_, Manifest.recordItems_length m hlen,
        fun i r hi hr => Manifest.recordItems_getElem? m hi hr⟩
      have fit := Manifest.recordItems_fit m hf.2.1 hlen
      rw [Block.readRecords_held hk hm, if_pos hf, listResults_all (by rw [List.length_nil]; omega), Manifest.recordItems_length m hlen]
      rfl

end Sys2Proof.Machine
end

section
/-! SUPPORT. A lane that is taken from its item: put-down, yields and stall events (R53, R54, R60 to R62, R66). Each ends the exchange and the session, changes the lane, tells the
owner, raises LANE_CHANGED and lets the head campaign follow; the lane is changed by the steps before the owner is told, and only its last cause after. -/
namespace Sys2Proof.Machine

/-! ## What telling the owner leaves of the lanes -/

/-- The owner told, LANE_CHANGED raised and the blocks that watch the lane told: of the lanes and of the pool only the lane's last cause has changed. -/
theorem Still.notified {pre mid after : Block} {l : Fin 8} {cause : LaneCause} (h : Still pre mid) (k : Still (mid.laneNotice l cause) after) :
    after.lane l = { pre.lane l with lastCause := cause } ∧ (∀ j, j ≠ l → after.lane j = pre.lane j) ∧ after.pool = pre.pool := by
  refine ⟨?_, fun j hj => ?_, k.pool.trans h.pool⟩
  · rw [k.lane, Block.laneNotice_lane, h.lane]
  · rw [k.lane, Block.laneNotice_lane_ne _ _ hj, h.lane]

/-- A lane that has given up its exchange and its session, changed by `f`: what it was before, its pacing aside. -/
theorem Block.freed_lane (b : Block) (l : Fin 8) (f : Lane → Lane) :
    let d := (b.dropExchange l).lane l
    (((b.dropExchange l).haltSession l).updLane l f).lane l = f { b.lane l with
      exchange := .idle, stallTimer := none, session := none, sent := (b.lane l).sent ++ ((b.lane l).session.map (fun x => SentUnit.halt x.number)).toList,
      pacing := d.pacing, gate := d.gate } := by
  intro d
  rw [Block.lane_updLane_self, Block.haltSession_lane]
  exact congrArg (fun d : Lane => f { d with session := none, sent := d.sent ++ (d.session.map (fun x => SentUnit.halt x.number)).toList })
    (Block.dropExchange_lane b l)

theorem Block.freed_lane_ne (b : Block) {l j : Fin 8} (f : Lane → Lane) (h : j ≠ l) :
    (((b.dropExchange l).haltSession l).updLane l f).lane j = b.lane j := by
  rw [Block.lane_updLane_ne _ _ h, Block.haltSession_lane_ne _ h, Block.dropExchange_lane_ne _ h]

theorem Block.freed_pool (b : Block) (l : Fin 8) (f : Lane → Lane) :
    (((b.dropExchange l).haltSession l).updLane l f).pool = (b.pool.withdraw l).release l := by
  rw [Block.updLane_pool, Block.haltSession_pool, Block.dropExchange_pool]

/-! ## PUT DOWN LANE (R66) -/

/-- The lane as put-down leaves it before its owner is told (R66). -/
def Lane.putOff (ln : Lane) : Lane :=
  { ln with state := .off, item := none, putDownByHold := false, settleTimer := none, stallTimer := none, resumeTarget := none }

theorem Block.putDown_still (b : Block) (l : Fin 8) :
    let pre := ((b.dropExchange l).haltSession l).updLane l Lane.putOff
    ∃ mid, Still pre mid ∧ Still (mid.laneNotice l .putDown) (b.putDown l) :=
  ⟨_, (Still.refl _).tellOwner l (b.lane l).item (b.lane l).exchange .putDown, ((Still.refl _).headHeld l .laneDown).leftService l⟩

/-- Put-down holds the head campaign, and abandons its visit (R66, R113). -/
theorem Block.putDown_departs {b : Block} {l : Fin 8} {c : Campaign} (hh : b.sched.head l = some c) (hc : b.campaign c.id = some c)
    (hi : ∀ it id, (b.lane l).item = some it → it.owner = .campaign id → id = c.id) :
    b.Departs (b.putDown l) l c false (fun x => if x.state = .held then x else { x with state := .held, heldCause := some .laneDown }) :=
  have hA : Aside b (((b.dropExchange l).haltSession l).updLane l Lane.putOff) := (((Aside.refl b).dropExchange l).haltSession l).updLane l _
  have told := Block.tellOwner_told hA hh hc hi .putDown false (by decide)
  ((told.aside ((Aside.refl _).laneNotice l .putDown)).headHeld .laneDown).aside ((Aside.refl _).leftService l)

theorem Block.onLane_range {b : Block} {n : Nat} (h : 8 ≤ n) (f : Fin 8 → Block × Reply) : b.onLane n f = b.refuse .range := by
  unfold Block.onLane; rw [laneOf_none h]

theorem Block.onLane_at {b : Block} {n : Nat} {l : Fin 8} (h : laneOf n = some l) (f : Fin 8 → Block × Reply) : b.onLane n f = f l := by
  unfold Block.onLane; rw [h]

/-- PUT DOWN LANE on a lane (R66). -/
theorem Block.putDownLane_at {b : Block} {body : List Byte} {l : Fin 8} (h : laneOf (fieldAt body 0 1) = some l) : b.putDownLane body =
    if (b.lane l).exchange.isRewrite then b.refuse .busy
    else if (b.lane l).state = .off then Block.done (b.updLane l (fun ln => { ln with putDownByHold := false })) []
    else Block.done (b.putDown l) [] :=
  Block.onLane_at h _

/-- Settles O34. -/
theorem putDownLane : Obligations.PutDownLane := by
  intro s tag body h
  dsimp only
  refine ⟨fun hr => State.request_refused h (Block.onLane_range hr _), fun l hl => ⟨fun hx => ?_, fun hx hoff => ?_, fun hx hoff => ⟨?_, ?_⟩⟩⟩
  · exact State.request_refused h (by rw [Block.putDownLane_at hl]; exact if_pos hx)
  · refine State.request_replied h (b := s.blk.updLane l (fun ln => { ln with putDownByHold := false })) ?_ h.quiet rfl
    rw [Block.putDownLane_at hl, hx, if_neg Bool.false_ne_true, if_pos hoff]; rfl
  · have owner : s.blk.putDownLane body = (s.blk.putDown l, .done []) := by
      rw [Block.putDownLane_at hl, hx, if_neg Bool.false_ne_true, if_neg hoff]; rfl
    exact (State.request_takes h _).trans (by rw [owner])
  · obtain ⟨mid, h1, h2⟩ := Block.putDown_still s.blk l
    obtain ⟨hlane, hothers, hpool⟩ := h1.notified h2
    rw [Block.freed_lane] at hlane
    refine ⟨by rw [hlane]; rfl, fun j hj => (hothers j hj).trans (Block.freed_lane_ne _ _ hj), hpool.trans (Block.freed_pool _ _ _),
      fun c hh hc hi => Block.putDown_departs hh hc hi⟩

/-! ## YIELD (R60, R61) -/

/-- A link unit with a good CRC-32, session number 0 and a good body is taken (R46). -/
theorem Block.linkUnit_taken {α : Type} {type : Byte} {body : List Byte} {crc : Word32} (hc : unitCrcGood type 0 body crc = true) {parsed : Option α} {x : α}
    (hp : parsed = some x) (l : Fin 8) (f : α → Block → Block) (b : Block) : b.linkUnit type l 0 body crc parsed f = f x b := by
  unfold Block.linkUnit
  rw [hp]
  exact if_neg (by rw [hc]; simp)

/-- The exchange in flight is completed first: a rewrite, or an open frame whose bytes outstanding the allowance covers (R61). -/
theorem Block.yieldCompletes_iff (b : Block) (l : Fin 8) : b.yieldCompletes l = true ↔ (b.lane l).exchange.isRewrite = true ∨
    ((b.lane l).exchange.openVisit ≠ none ∧ ∃ n, (b.pool.heldBy l).map (fun u => u.claim.recLength - u.received) = some n ∧
      n ≤ (b.lane l).settings.yieldAllowance * 1048576) := by
  unfold Block.yieldCompletes
  cases (b.lane l).exchange with
  | idle => simp [Exchange.isRewrite, Exchange.openVisit]
  | opening => simp [Exchange.isRewrite, Exchange.openVisit]
  | closing => simp [Exchange.isRewrite, Exchange.openVisit]
  | rewrite frame sent => simp [Exchange.isRewrite]
  | calibration length bytes => simp [Exchange.isRewrite, Exchange.openVisit]
  | frame f =>
    obtain ⟨phase, fetched, delivered, announced, soFar⟩ := f
    cases phase with
    | draining => simp [Exchange.isRewrite, Exchange.openVisit]
    | awaitingMark => cases b.pool.heldBy l <;> simp [Exchange.isRewrite, Exchange.openVisit, DigestUnit.outstanding]
    | receiving => cases b.pool.heldBy l <;> simp [Exchange.isRewrite, Exchange.openVisit, DigestUnit.outstanding]

/-- The lane as a loan leaves it before LANE_CHANGED (R60, R61, R62). -/
def Lane.lentTo (target : ResumeTarget) (ln : Lane) : Lane :=
  { ln with
    sent := ln.sent ++ [.release], state := .lent, item := none, session := none, settleTimer := none, stallTimer := none,
    resumeTarget := some target, yields := countUp ln.yields }

/-- RELEASE and the loan are one change of the lane. -/
theorem Block.becomeLent_eq (b : Block) (l : Fin 8) (target : ResumeTarget) : b.becomeLent l target = b.updLane l (Lane.lentTo target) :=
  Block.updLane_updLane b l _ _

theorem Still.tellLent (b : Block) (l : Fin 8) : Still (b.laneNotice l .yield) (b.tellLent l) := ((Still.refl _).headTo l .yielded).leftService l

theorem Block.yieldDrive_eq (b : Block) (l : Fin 8) : b.yieldDrive l =
    ((((b.dropExchange l).haltSession l).updLane l (Lane.lentTo (b.lane l).state.yieldTarget)).tellOwner l (b.lane l).item (b.lane l).exchange .yield).tellLent l :=
  congrArg (fun c : Block => (c.tellOwner l (b.lane l).item (b.lane l).exchange .yield).tellLent l) (Block.becomeLent_eq _ _ _)

theorem Block.yieldDrive_still (b : Block) (l : Fin 8) :
    let pre := ((b.dropExchange l).haltSession l).updLane l (Lane.lentTo (b.lane l).state.yieldTarget)
    ∃ mid, Still pre mid ∧ Still (mid.laneNotice l .yield) (b.yieldDrive l) := by
  rw [Block.yieldDrive_eq]
  exact ⟨_, (Still.refl _).tellOwner _ _ _ _, Still.tellLent _ l⟩

/-- A yield at once makes the head campaign in session YIELDED, and abandons its visit (R110). -/
theorem Block.yieldDrive_departs {b : Block} {l : Fin 8} {c : Campaign} (hh : b.sched.head l = some c) (hc : b.campaign c.id = some c)
    (hi : ∀ it id, (b.lane l).item = some it → it.owner = .campaign id → id = c.id) : b.Departs (b.yieldDrive l) l c false
      (fun x => if x.state = .opening ∨ x.state = .running ∨ x.state = .closing then { x with state := .yielded } else x) :=
  have hA := (((Aside.refl b).dropExchange l).haltSession l).becomeLent l (b.lane l).state.yieldTarget
  have told := Block.tellOwner_told hA hh hc hi .yield false (by decide)
  ((told.aside ((Aside.refl _).laneNotice l .yield)).headTo .yielded (by decide)).aside ((Aside.refl _).leftService l)

theorem LaneState.yieldTarget_eq (st : LaneState) : some st.yieldTarget = if st = .settling ∨ st = .stalled then some .settle else some .ready := by
  cases st <;> rfl

/-- YIELD is handed to the lane (R60). -/
theorem execYield_taken {l : Fin 8} {crc : Word32} (hc : unitCrcGood 0x26 0 [] crc = true) (s : State) :
    exec (.yield l 0 [] crc) s = s.event (fun b => b.yieldTaken l) :=
  congrArg s.event (funext fun b => Block.linkUnit_taken hc (if_pos rfl) l (fun _ b => b.yieldTaken l) b)

theorem Block.yieldTaken_ignored {b : Block} {l : Fin 8} (h : (b.lane l).state = .off ∨ (b.lane l).state = .yielding ∨ (b.lane l).state = .lent) :
    b.yieldTaken l = b := by
  unfold Block.yieldTaken
  rcases h with h | h | h <;> rw [h]

theorem Block.yieldTaken_completes {b : Block} {l : Fin 8} (h : (b.lane l).state = .engaged) (hc : b.yieldCompletes l = true) :
    b.yieldTaken l = b.updLane l (fun ln => { ln with state := .yielding, stallTimer := none }) := by
  unfold Block.yieldTaken
  rw [h]
  exact if_pos hc

theorem Block.yieldTaken_lends {b : Block} {l : Fin 8} (h : (b.lane l).state = .settling ∨ (b.lane l).state = .ready ∨ (b.lane l).state = .calibrating ∨
    (b.lane l).state = .stalled ∨ ((b.lane l).state = .engaged ∧ ¬b.yieldCompletes l = true)) : b.yieldTaken l = b.yieldDrive l := by
  unfold Block.yieldTaken
  rcases h with h | h | h | h | ⟨h, hn⟩ <;> rw [h]
  exact if_neg hn

/-- The head campaign of a lane that is LENT with nothing more to complete (R62, R110). -/
theorem Block.toLent_campaign {b : Block} {l : Fin 8} {c : Campaign} (target : ResumeTarget) (hh : b.sched.head l = some c) (hc : b.campaign c.id = some c) :
    (b.toLent l target).campaign c.id = some (if c.state = .opening ∨ c.state = .running ∨ c.state = .closing then { c with state := .yielded } else c) ∧
      ∀ id, id ≠ c.id → (b.toLent l target).campaign id = b.campaign id := by
  obtain ⟨hhead, hothers⟩ := Block.headTo_campaign ((b.becomeLent l target).laneNotice l .yield) l .yielded c hh hc
  have aside : ∀ id, (b.toLent l target).campaign id = (((b.becomeLent l target).laneNotice l .yield).headTo l .yielded).campaign id := fun id =>
    congrArg (Scheduler.find · id) ((Aside.refl _).leftService l).sched
  exact ⟨(aside _).trans hhead, fun id hid => (aside id).trans (hothers id hid)⟩

/-- Settles O35: the yield is ignored, completed first, or taken at once. -/
theorem yieldLendsTheDrive : Obligations.YieldLendsTheDrive := by
  refine ⟨fun s l crc h hcrc => ?_, fun b l target => ?_⟩
  · dsimp only
    rw [execYield_taken hcrc]
    refine ⟨fun hst => ?_, fun hst hcomp => ?_, fun hst => ⟨?_, ?_⟩⟩
    · exact State.event_still h (Block.yieldTaken_ignored hst) h.quiet h.told
    · exact State.event_still h (Block.yieldTaken_completes hst ((Block.yieldCompletes_iff _ l).2 hcomp)) h.quiet h.told
    · rw [State.event_live h.live, Block.yieldTaken_lends (by rw [Block.yieldCompletes_iff]; exact hst)]
    · obtain ⟨mid, h1, h2⟩ := Block.yieldDrive_still s.blk l
      obtain ⟨hlane, hothers, hpool⟩ := h1.notified h2
      rw [Block.freed_lane] at hlane
      refine ⟨by rw [hlane, ← LaneState.yieldTarget_eq]; rfl, fun j hj => (hothers j hj).trans (Block.freed_lane_ne _ _ hj),
        hpool.trans (Block.freed_pool _ _ _), fun c hh hc hi => Block.yieldDrive_departs hh hc hi⟩
  · have still : Still ((b.updLane l (Lane.lentTo target)).laneNotice l .yield) (b.toLent l target) := by
      unfold Block.toLent
      rw [Block.becomeLent_eq]
      exact Still.tellLent _ l
    obtain ⟨hlane, hothers, hpool⟩ := (Still.refl _).notified still
    refine ⟨by rw [hlane, Block.lane_updLane_self]; rfl, fun j hj => (hothers j hj).trans (Block.lane_updLane_ne _ _ hj), hpool,
      fun c hh hc => Block.toLent_campaign target hh hc⟩

/-! ## Stall events (R53, R54, R62) -/

/-- The lane once a stall event has begun: counted, both timers stopped, the exchange ended; `d` carries the pacing that its end leaves (R53, R189). -/
def Lane.stalledBy (ln d : Lane) : Lane :=
  { ln with
    exchange := .idle, settleTimer := none, stallTimer := none, stallEvents := countUp ln.stallEvents, pacing := d.pacing, gate := d.gate }

theorem Block.stallBegins_lane (b : Block) (l : Fin 8) : (b.stallBegins l).lane l = (b.lane l).stalledBy ((b.dropExchange l).lane l) := by
  unfold Block.stallBegins
  rw [Block.lane_updLane_self]
  exact congrArg (fun d : Lane => { d with stallEvents := countUp d.stallEvents, settleTimer := none, stallTimer := none }) (Block.dropExchange_lane b l)

theorem Block.stallBegins_lane_ne (b : Block) {l j : Fin 8} (h : j ≠ l) : (b.stallBegins l).lane j = b.lane j := by
  unfold Block.stallBegins
  rw [Block.lane_updLane_ne _ _ h, Block.dropExchange_lane_ne _ h]

theorem Block.stallBegins_pool (b : Block) (l : Fin 8) : (b.stallBegins l).pool = (b.pool.withdraw l).release l := Block.dropExchange_pool b l

theorem Block.dropExchange_clock (b : Block) (l : Fin 8) : (b.dropExchange l).clock = b.clock := by
  obtain ⟨lanes, pool, asks, e⟩ := Block.dropExchange_rest b l
  rw [e]

theorem Aside.stallBegins {a b : Block} (h : Aside a b) (l : Fin 8) : Aside a (b.stallBegins l) := (h.dropExchange l).updLane l _

/-- What a stall event leaves of the lanes and of the pool, `ln` being the lane it took. -/
structure Block.StallLeaves (b after : Block) (l : Fin 8) (ln : Lane) : Prop where
  lane   : after.lane l = ln
  others : ∀ j, j ≠ l → after.lane j = b.lane j
  pool   : after.pool = (b.pool.withdraw l).release l

/-- The lane changed once more after a stall event has begun, then its owner told, LANE_CHANGED raised and the blocks that watch it told. -/
theorem Block.StallLeaves.of {b pre mid after : Block} {l : Fin 8} {cause : LaneCause} {f : Lane → Lane} (hpre : pre = (b.stallBegins l).updLane l f)
    (h : Still pre mid) (k : Still (mid.laneNotice l cause) after) :
    b.StallLeaves after l { f ((b.lane l).stalledBy ((b.dropExchange l).lane l)) with lastCause := cause } := by
  obtain ⟨hlane, hothers, hpool⟩ := h.notified k
  subst hpre
  refine ⟨?_, fun j hj => ?_, hpool.trans (Block.stallBegins_pool b l)⟩
  · rw [hlane, Block.lane_updLane_self, Block.stallBegins_lane]
  · rw [hothers j hj, Block.lane_updLane_ne _ _ hj, Block.stallBegins_lane_ne _ hj]

/-- The same where the session ends with HALT first. -/
theorem Block.StallLeaves.halted {b pre mid after : Block} {l : Fin 8} {cause : LaneCause} {f : Lane → Lane}
    (hpre : pre = ((b.stallBegins l).haltSession l).updLane l f) (h : Still pre mid) (k : Still (mid.laneNotice l cause) after) :
    b.StallLeaves after l { f { (b.lane l).stalledBy ((b.dropExchange l).lane l) with
      session := none, sent := (b.lane l).sent ++ ((b.lane l).session.map (fun x => SentUnit.halt x.number)).toList } with lastCause := cause } := by
  obtain ⟨hlane, hothers, hpool⟩ := h.notified k
  subst hpre
  refine ⟨?_, fun j hj => ?_, hpool.trans ((Block.haltSession_pool _ l).trans (Block.stallBegins_pool b l))⟩
  · rw [hlane, Block.lane_updLane_self, Block.haltSession_lane, Block.stallBegins_lane]; rfl
  · rw [hothers j hj, Block.lane_updLane_ne _ _ hj, Block.haltSession_lane_ne _ hj, Block.stallBegins_lane_ne _ hj]

/-- The lane that a stall event settles again, before LANE_CHANGED (R49, R53). -/
def Lane.restarted (clock : Nat) (ln : Lane) : Lane :=
  { ln with
    restarts := ln.restarts + 1, sent := ln.sent ++ [.restart], state := .settling, item := none, session := none, helloTaken := false, settleExpired := false,
    settleTimer := some (clock + ln.settings.settleWait * 1000), stallTimer := none, resumeTarget := none }

theorem Block.stallEvent_yielding {b : Block} {l : Fin 8} (h : (b.lane l).state = .yielding) :
    b.stallEvent l = (b.stallBegins l).stallYielding l (b.lane l).item (b.lane l).exchange := if_pos h

theorem Block.stallEvent_restart {b : Block} {l : Fin 8} (h : (b.lane l).state ≠ .yielding) (ha : (b.lane l).settings.autoRestart = true)
    (hr : (b.lane l).restarts < 3) : b.stallEvent l = (b.stallBegins l).stallRestart l (b.lane l).item (b.lane l).exchange :=
  (if_neg h).trans ((if_pos ha).trans (if_pos hr))

theorem Block.stallEvent_noAnswer {b : Block} {l : Fin 8} (h : (b.lane l).state ≠ .yielding) (ha : (b.lane l).settings.autoRestart = true)
    (hr : 3 ≤ (b.lane l).restarts) : b.stallEvent l = (b.stallBegins l).stallNoAnswer l (b.lane l).item (b.lane l).exchange :=
  (if_neg h).trans ((if_pos ha).trans (if_neg (Nat.not_lt.2 hr)))

theorem Block.stallEvent_stops {b : Block} {l : Fin 8} (h : (b.lane l).state ≠ .yielding) (ha : (b.lane l).settings.autoRestart = false) :
    b.stallEvent l = (b.stallBegins l).stallStops l (b.lane l).item (b.lane l).exchange :=
  (if_neg h).trans (if_neg (by rw [ha]; exact Bool.false_ne_true))

theorem Block.stallYielding_leaves (b : Block) (l : Fin 8) (it : Option Item) (x : Exchange) :
    b.StallLeaves ((b.stallBegins l).stallYielding l it x) l { Lane.lentTo .settle { (b.lane l).stalledBy ((b.dropExchange l).lane l) with
      session := none, sent := (b.lane l).sent ++ ((b.lane l).session.map (fun x => SentUnit.halt x.number)).toList } with lastCause := .yield } :=
  .halted (Block.becomeLent_eq _ l .settle) ((Still.refl _).tellOwner l it x .stall) (Still.tellLent _ l)

theorem Block.stallRestart_leaves (b : Block) (l : Fin 8) (it : Option Item) (x : Exchange) :
    b.StallLeaves ((b.stallBegins l).stallRestart l it x) l
      { Lane.restarted b.clock ((b.lane l).stalledBy ((b.dropExchange l).lane l)) with lastCause := .restart } := by
  refine .of (f := Lane.restarted b.clock) ?_ ((Still.refl _).tellOwner l it x .stall) (((Still.refl _).headTo l .waiting).leftService l)
  unfold Block.beginSettling Block.send
  rw [Block.updLane_updLane, Block.updLane_updLane]
  show (b.stallBegins l).updLane l (fun ln => Lane.restarted (b.dropExchange l).clock ln) = _
  rw [Block.dropExchange_clock]

theorem Block.stallNoAnswer_leaves (b : Block) (l : Fin 8) (it : Option Item) (x : Exchange) :
    b.StallLeaves ((b.stallBegins l).stallNoAnswer l it x) l
      { (b.lane l).stalledBy ((b.dropExchange l).lane l) with state := .off, item := none, session := none, lastCause := .noAnswer } :=
  .of rfl ((Still.refl _).tellOwner l it x .stall) (((Still.refl _).headHeld l .laneDown).leftService l)

theorem Block.stallStops_leaves (b : Block) (l : Fin 8) (it : Option Item) (x : Exchange) :
    b.StallLeaves ((b.stallBegins l).stallStops l it x) l { (b.lane l).stalledBy ((b.dropExchange l).lane l) with
      state := .stalled, item := none, session := none, lastCause := .stall,
      sent := (b.lane l).sent ++ ((b.lane l).session.map (fun x => SentUnit.halt x.number)).toList } :=
  .halted rfl ((Still.refl _).tellOwner l it x .stall) (((Still.refl _).headHeld l .stall).leftService l)

/-- Whatever a stall event comes to, the other lanes stay and the digest unit or the claim is given back (R37, R38). -/
theorem Block.stallEvent_leaves (b : Block) (l : Fin 8) : ∃ ln, b.StallLeaves (b.stallEvent l) l ln := by
  by_cases hy : (b.lane l).state = .yielding
  · rw [Block.stallEvent_yielding hy]; exact ⟨_, b.stallYielding_leaves l _ _⟩
  · cases ha : (b.lane l).settings.autoRestart with
    | false => rw [Block.stallEvent_stops hy ha]; exact ⟨_, b.stallStops_leaves l _ _⟩
    | true =>
      by_cases hr : (b.lane l).restarts < 3
      · rw [Block.stallEvent_restart hy ha hr]; exact ⟨_, b.stallRestart_leaves l _ _⟩
      · rw [Block.stallEvent_noAnswer hy ha (Nat.not_lt.1 hr)]; exact ⟨_, b.stallNoAnswer_leaves l _ _⟩

section
variable {b : Block} {l : Fin 8} {c : Campaign} (hh : b.sched.head l = some c) (hc : b.campaign c.id = some c)
  (hi : ∀ it id, (b.lane l).item = some it → it.owner = .campaign id → id = c.id)
include hh hc hi

/-- The owner of a stalled item told, and LANE_CHANGED raised: the head campaign has not yet moved (R106). -/
theorem HeadTold.stall {pre : Block} (hA : Aside b pre) (cause : LaneCause) :
    HeadTold b ((pre.tellOwner l (b.lane l).item (b.lane l).exchange .stall).laneNotice l cause) l c true :=
  (Block.tellOwner_told hA hh hc hi .stall true (by decide)).aside ((Aside.refl _).laneNotice l cause)

theorem Block.stallYielding_departs : b.Departs ((b.stallBegins l).stallYielding l (b.lane l).item (b.lane l).exchange) l c true
    (fun x => if x.state = .opening ∨ x.state = .running ∨ x.state = .closing then { x with state := .yielded } else x) :=
  have hA := (((Aside.refl b).stallBegins l).haltSession l).becomeLent l .settle
  ((HeadTold.stall hh hc hi hA .yield).headTo .yielded (by decide)).aside ((Aside.refl _).leftService l)

theorem Block.stallRestart_departs : b.Departs ((b.stallBegins l).stallRestart l (b.lane l).item (b.lane l).exchange) l c true
    (fun x => if x.state = .opening ∨ x.state = .running ∨ x.state = .closing then { x with state := .waiting } else x) :=
  have hA := (((Aside.refl b).stallBegins l).updLane l (fun ln => { ln with restarts := ln.restarts + 1 })).beginSettling l .restart
  ((HeadTold.stall hh hc hi hA .restart).headTo .waiting (by decide)).aside ((Aside.refl _).leftService l)

theorem Block.stallNoAnswer_departs : b.Departs ((b.stallBegins l).stallNoAnswer l (b.lane l).item (b.lane l).exchange) l c true
    (fun x => if x.state = .held then x else { x with state := .held, heldCause := some .laneDown }) :=
  have hA := ((Aside.refl b).stallBegins l).updLane l (fun ln => { ln with state := .off, item := none, session := none })
  ((HeadTold.stall hh hc hi hA .noAnswer).headHeld .laneDown).aside ((Aside.refl _).leftService l)

theorem Block.stallStops_departs : b.Departs ((b.stallBegins l).stallStops l (b.lane l).item (b.lane l).exchange) l c true
    (fun x => if x.state = .held then x else { x with state := .held, heldCause := some .stall }) :=
  have hA := (((Aside.refl b).stallBegins l).haltSession l).updLane l (fun ln => { ln with state := .stalled, item := none })
  ((HeadTold.stall hh hc hi hA .stall).headHeld .stall).aside ((Aside.refl _).leftService l)

end

/-- Settles O37: the timer's expiry, and the four ends of a stall event. -/
theorem stallEvents : Obligations.StallEvents := by
  intro s l h
  refine ⟨fun ht => ?_, fun t ht => ?_, fun b => ?_⟩
  · exact State.event_still h (by unfold Block.stallExpires; rw [ht]) h.quiet h.told
  · exact (State.event_live h.live _).trans (by unfold Block.stallExpires; rw [ht]; rfl)
  · dsimp only
    obtain ⟨_, leaves⟩ := b.stallEvent_leaves l
    refine ⟨leaves.pool, leaves.others, fun hy => ?_, fun hy ha hr => ?_, fun hy ha hr => ?_, fun hy ha => ?_, fun c hh hc hi =>
      ⟨fun hy => ?_, fun hy ha hr => ?_, fun hy ha hr => ?_, fun hy ha => ?_⟩⟩
    · rw [Block.stallEvent_yielding hy, (b.stallYielding_leaves l _ _).lane]; rfl
    · rw [Block.stallEvent_restart hy ha hr, (b.stallRestart_leaves l _ _).lane]; rfl
    · rw [Block.stallEvent_noAnswer hy ha hr, (b.stallNoAnswer_leaves l _ _).lane]; rfl
    · rw [Block.stallEvent_stops hy ha, (b.stallStops_leaves l _ _).lane]; rfl
    · rw [Block.stallEvent_yielding hy]; exact Block.stallYielding_departs hh hc hi
    · rw [Block.stallEvent_restart hy ha hr]; exact Block.stallRestart_departs hh hc hi
    · rw [Block.stallEvent_noAnswer hy ha hr]; exact Block.stallNoAnswer_departs hh hc hi
    · rw [Block.stallEvent_stops hy ha]; exact Block.stallStops_departs hh hc hi

end Sys2Proof.Machine
end

section
/-! SUPPORT. VERIFY (R94, R95): the fields its body must hold, and the campaign it accepts. -/
namespace Sys2Proof.Machine

/-! ## Sets of classes -/

/-- Every bit of a class set is a class. -/
theorem FindingClass.exists_number : ∀ i : Nat, i < 9 → ∃ c : FindingClass, c.number = i
  | 0, _ => ⟨.identity, rfl⟩
  | 1, _ => ⟨.unreadable, rfl⟩
  | 2, _ => ⟨.missing, rfl⟩
  | 3, _ => ⟨.short, rfl⟩
  | 4, _ => ⟨.long, rfl⟩
  | 5, _ => ⟨.content, rfl⟩
  | 6, _ => ⟨.rollup, rfl⟩
  | 7, _ => ⟨.stray, rfl⟩
  | 8, _ => ⟨.annotation, rfl⟩

theorem FindingClass.number_lt (c : FindingClass) : c.number < 9 := by cases c <;> decide

/-- A class set is empty when no class stands in it. -/
theorem ClassSet.eq_zero_iff (s : ClassSet) : s = 0 ↔ ∀ c, ClassSet.has s c = false := by
  refine ⟨fun h c => by rw [h]; exact BitVec.getLsbD_zero, fun h => BitVec.eq_of_getLsbD_eq fun i hi => ?_⟩
  obtain ⟨c, rfl⟩ := FindingClass.exists_number i hi
  exact (h c).trans BitVec.getLsbD_zero.symm

theorem ClassSet.has_and (s t : ClassSet) (c : FindingClass) : ClassSet.has (s &&& t) c = (ClassSet.has s c && ClassSet.has t c) :=
  BitVec.getLsbD_and

theorem ClassSet.has_not (s : ClassSet) (c : FindingClass) : ClassSet.has (~~~s) c = !ClassSet.has s c := by
  simp [ClassSet.has, c.number_lt]

theorem ClassSet.has_disregardable (c : FindingClass) :
    ClassSet.has ClassSet.disregardable c = true ↔ c = .long ∨ c = .stray ∨ c = .missing ∨ c = .rollup ∨ c = .annotation := by
  cases c <;> decide

/-! ## The fields (R94) -/

/-- What R94 asks of the lane, the slot, the step, the profile and the disregard set, before anything else. -/
def verifyFieldsGood (body : List Byte) : Prop :=
  fieldAt body 0 1 < 8 ∧ fieldAt body 1 1 < 16 ∧ 1 ≤ fieldAt body 10 1 ∧ fieldAt body 10 1 ≤ 16 ∧ (fieldAt body 11 1 < 4 ∨ fieldAt body 11 1 = 0xFF) ∧
    fieldAt body 12 2 < 512 ∧ ∀ c : FindingClass, ClassSet.has (BitVec.ofNat 9 (fieldAt body 12 2)) c = true →
      c = .long ∨ c = .stray ∨ c = .missing ∨ c = .rollup ∨ c = .annotation

theorem disregardSet_some {n : Nat} (h : n < 512) (hc : ∀ c : FindingClass, ClassSet.has (BitVec.ofNat 9 n) c = true →
    c = .long ∨ c = .stray ∨ c = .missing ∨ c = .rollup ∨ c = .annotation) : disregardSet n = some (BitVec.ofNat 9 n) := by
  refine if_pos ⟨h, (ClassSet.eq_zero_iff _).2 fun c => ?_⟩
  rw [ClassSet.has_and, ClassSet.has_not]
  cases hs : ClassSet.has (BitVec.ofNat 9 n) c with
  | false => rfl
  | true => rw [(ClassSet.has_disregardable c).2 (hc c hs)]; rfl

theorem disregardSet_isSome {n : Nat} (h : (disregardSet n).isSome = true) : n < 512 ∧ ∀ c : FindingClass, ClassSet.has (BitVec.ofNat 9 n) c = true →
    c = .long ∨ c = .stray ∨ c = .missing ∨ c = .rollup ∨ c = .annotation := by
  unfold disregardSet at h
  split at h
  · next hn =>
    refine ⟨hn.1, fun c hc => (ClassSet.has_disregardable c).1 ?_⟩
    have hz := (ClassSet.eq_zero_iff _).1 hn.2 c
    rw [ClassSet.has_and, ClassSet.has_not, hc] at hz
    simpa using hz
  · exact absurd h Bool.false_ne_true

theorem profileChoice_some {n : Nat} (h : n < 4 ∨ n = 0xFF) : profileChoice n = some (if n = 0xFF then .current else .numbered (Fin.ofNat 4 n)) := by
  unfold profileChoice
  by_cases hn : n = 0xFF
  · rw [if_pos hn, if_pos hn]
  · have h4 : n < 4 := h.resolve_right hn
    rw [if_neg hn, if_neg hn, profileOf, dif_pos h4]
    exact congrArg (fun p => some (ProfileChoice.numbered p)) (Fin.ext (Nat.mod_eq_of_lt h4).symm)

theorem profileChoice_isSome {n : Nat} (h : (profileChoice n).isSome = true) : n < 4 ∨ n = 0xFF := by
  by_cases hn : n = 0xFF
  · exact .inr hn
  · by_cases h4 : n < 4
    · exact .inl h4
    · rw [profileChoice, if_neg hn, profileOf, dif_neg h4] at h
      exact absurd h Bool.false_ne_true

/-- The campaign that a VERIFY body with good fields asks for (R92, R94). -/
def Campaign.asked (body : List Byte) (l : Fin 8) (k : Fin 16) : Campaign :=
  { id := 0, lane := l, slot := k, windowFirst := fieldAt body 2 4, windowLast := fieldAt body 6 4, step := fieldAt body 10 1,
    profile := if fieldAt body 11 1 = 0xFF then .current else .numbered (Fin.ofNat 4 (fieldAt body 11 1)),
    disregard := BitVec.ofNat 9 (fieldAt body 12 2), resumePoint := some (fieldAt body 2 4) }

theorem parseVerify_good {body : List Byte} {l : Fin 8} {k : Fin 16} (hl : laneOf (fieldAt body 0 1) = some l) (hk : slotOf (fieldAt body 1 1) = some k)
    (h : verifyFieldsGood body) : parseVerify body = some (Campaign.asked body l k) := by
  obtain ⟨-, -, hs1, hs2, hp, hd, hc⟩ := h
  unfold parseVerify
  rw [hl, hk, profileChoice_some hp, disregardSet_some hd hc]
  exact if_pos ⟨hs1, hs2⟩

theorem parseVerify_bad {body : List Byte} (h : ¬verifyFieldsGood body) : parseVerify body = none := by
  unfold parseVerify
  split
  · next l k p d hl hk hp hd =>
    refine if_neg fun hs => h ⟨?_, ?_, hs.1, hs.2, profileChoice_isSome (by rw [hp]; rfl), disregardSet_isSome (by rw [hd]; rfl)⟩
    · exact Nat.lt_of_not_le fun hle => by rw [laneOf_none hle] at hl; cases hl
    · exact Nat.lt_of_not_le fun hle => by rw [slotOf_none hle] at hk; cases hk
  · rfl

/-! ## Acceptance (R94, R95) -/

/-- The counter's value is taken where no entry of the table has it (R95). -/
theorem Scheduler.freeId_of_free {sc : Scheduler} {n : Nat} (h : sc.find n = none) (fuel : Nat) : sc.freeId fuel n = n := by
  cases fuel with
  | zero => rfl
  | succ fuel => exact if_neg (by rw [h]; exact Bool.false_ne_true)

theorem Store.put_pinCampaign {st : Store} {k : Fin 16} {m : Manifest} (h : st.manifest k = some m) :
    st.pinCampaign k = { st with slots := st.slots.set k.val (some { m with campaignPins := m.campaignPins + 1 }) k.isLt } := by
  unfold Store.pinCampaign Store.updManifest
  rw [h]
  rfl

/-- A campaign accepted with nothing asked before: the table, the counter, the pin, and the ask of its lane when it is the head (R16, R95). -/
theorem Block.acceptCampaign_eq {b : Block} {c : Campaign} {m : Manifest} (hm : b.store.manifest c.slot = some m) (ha : b.asks = []) :
    let id := b.sched.freeId 25 b.sched.nextId
    let table := b.sched.table ++ [{ c with id := id }]
    let place := placeOf (fun d => d.id == id) (table.filter (fun d => d.lane == c.lane && d.state.active))
    b.acceptCampaign c = Block.done { b with
      sched := { table := table, nextId := idAfter id }
      store := { b.store with slots := b.store.slots.set c.slot.val (some { m with campaignPins := m.campaignPins + 1 }) c.slot.isLt }
      asks := if place = 1 then [c.lane] else [] } (beBytes 2 id ++ beBytes 1 place) := by
  intro id table place
  have pin := Store.put_pinCampaign hm
  show Block.done (if place = 1 then ({ b with sched := _, store := b.store.pinCampaign c.slot } : Block).ask c.lane
    else { b with sched := _, store := b.store.pinCampaign c.slot }) _ = _
  rw [pin]
  unfold Block.ask
  rw [ha]
  by_cases hp : place = 1
  · rw [if_pos hp, if_pos hp]; rfl
  · rw [if_neg hp, if_neg hp]; rfl

/-- VERIFY with good fields on a manifest held, in R94's order. -/
theorem Block.verify_good {b : Block} {body : List Byte} {l : Fin 8} {k : Fin 16} {m : Manifest} (hl : laneOf (fieldAt body 0 1) = some l)
    (hk : slotOf (fieldAt body 1 1) = some k) (h : verifyFieldsGood body) (hm : b.store.manifest k = some m) : b.verify body =
      if m.state ≠ .ready then b.refuse .state
      else if !(Campaign.asked body l k).windowInSpan m then b.refuse .range
      else if b.sched.table.any (fun d => (Campaign.asked body l k).overlaps d) then b.refuse .overlap
      else if 24 ≤ b.sched.table.length then b.refuse .room
      else b.acceptCampaign (Campaign.asked body l k) := by
  have hm' : b.store.manifest (Campaign.asked body l k).slot = some m := hm
  unfold Block.verify
  rw [parseVerify_good hl hk h]
  dsimp only
  rw [hm']

theorem Campaign.asked_window (body : List Byte) (l : Fin 8) (k : Fin 16) (m : Manifest) : (Campaign.asked body l k).windowInSpan m = true ↔
    fieldAt body 2 4 ≤ fieldAt body 6 4 ∧ m.first ≤ fieldAt body 2 4 ∧ fieldAt body 6 4 < m.first + m.count := by
  simp [Campaign.windowInSpan, Campaign.asked, and_assoc]

theorem Campaign.asked_overlaps (body : List Byte) (l : Fin 8) (k : Fin 16) (table : List Campaign) :
    table.any (fun d => (Campaign.asked body l k).overlaps d) = true ↔
      ∃ d ∈ table, d.state.active = true ∧ d.slot = k ∧ fieldAt body 2 4 ≤ d.windowLast ∧ d.windowFirst ≤ fieldAt body 6 4 := by
  simp [Campaign.overlaps, Campaign.asked, and_assoc]

/-- Settles O42: the refusals in R94's order, then the acceptance. -/
theorem verifyAccepts : Obligations.VerifyAccepts := by
  intro s tag body h
  dsimp only
  refine ⟨fun hf => ?_, fun l k hl hk hf => ⟨fun hm => ?_, fun m hm => ?_⟩⟩
  · exact State.request_refused h (by unfold Block.verify; rw [parseVerify_bad hf]; rfl)
  · refine State.request_refused h ?_
    have hm' : s.blk.store.manifest (Campaign.asked body l k).slot = none := hm
    unfold Block.verify; rw [parseVerify_good hl hk hf]; dsimp only; rw [hm']; rfl
  · have verify := Block.verify_good hl hk hf hm
    rw [← Campaign.asked_window body l k, ← Campaign.asked_overlaps body l k]
    refine ⟨fun hs => ?_, fun hs hw => ?_, fun hs hw ho => ?_, fun hs hw ho hr => ?_, fun hs hw ho hr => ⟨?_, fun hfree => Scheduler.freeId_of_free hfree 25⟩⟩
    · exact State.request_refused h (by rw [verify]; exact if_pos hs)
    · rw [if_neg (not_not.2 hs), if_pos (by rw [Bool.not_eq_true] at hw; rw [hw]; rfl)] at verify
      exact State.request_refused h verify
    · rw [if_neg (not_not.2 hs), if_neg (by rw [hw]; exact Bool.false_ne_true), if_pos ho] at verify
      exact State.request_refused h verify
    · rw [if_neg (not_not.2 hs), if_neg (by rw [hw]; exact Bool.false_ne_true), if_neg ho, if_pos hr] at verify
      exact State.request_refused h verify
    · rw [if_neg (not_not.2 hs), if_neg (by rw [hw]; exact Bool.false_ne_true), if_neg ho, if_neg (Nat.not_le.2 hr),
        Block.acceptCampaign_eq (c := Campaign.asked body l k) hm h.quiet.1] at verify
      exact (State.request_takes h _).trans (by rw [verify]; rfl)

end Sys2Proof.Machine
end

section
/-! SUPPORT. The Repair Engine (chapter 07): which entries the start pass takes up and what it leaves of every other, an entry that settles, the rewrite test and SET REPAIR. -/
namespace Sys2Proof.Machine

/-! ## Records of other frames -/

theorem Manifest.index_eq_some {m : Manifest} {n i : Nat} : m.index n = some i ↔ m.first ≤ n ∧ n < m.first + m.count ∧ i = n - m.first := by
  unfold Manifest.index
  split
  · next h => simp [h, eq_comm]
  · next h => simp; omega

/-- A change of one frame's record leaves every other frame's. -/
theorem Store.record_updRecord_ne {st : Store} {k j : Fin 16} {frame n : Nat} (h : (⟨j, n⟩ : EntryKey) ≠ ⟨k, frame⟩) (f : FrameRecord → FrameRecord) :
    (st.updRecord k frame f).record j n = st.record j n := by
  rw [Store.record_updRecord_at]
  refine ite_eq_right_iff.2 fun ⟨hk, hi⟩ => ?_
  subst hk
  cases hm : st.manifest k with
  | none => rw [hm] at hi; exact absurd hi Bool.false_ne_true
  | some m =>
    rw [hm] at hi
    have hi' : m.index frame = m.index n := by simpa using hi
    cases hn : m.index n with
    | none => simp [Store.record, hm, Manifest.record, hn]
    | some i =>
      have h1 := Manifest.index_eq_some.1 hn
      have h2 := Manifest.index_eq_some.1 (hi'.trans hn)
      exact absurd (by rw [show frame = n by omega]) h

/-! ## Names of the entries -/

theorem RepairEngine.keys_upd (r : RepairEngine) (k : EntryKey) {f : Entry → Entry} (hf : ∀ e, (f e).key = e.key) : (r.upd k f).keys = r.keys := by
  unfold RepairEngine.keys RepairEngine.upd
  rw [List.map_map]
  refine List.map_congr_left fun e _ => ?_
  show (if e.key = k then f e else e).key = e.key
  split
  · exact hf e
  · rfl

/-- A change of one entry leaves every entry of another name. -/
theorem RepairEngine.find_upd_ne (r : RepairEngine) {j k : EntryKey} (h : j ≠ k) {f : Entry → Entry} (hf : ∀ e, (f e).key = e.key) :
    (r.upd k f).find j = r.find j := by
  unfold RepairEngine.find RepairEngine.upd
  dsimp only
  induction r.list with
  | nil => rfl
  | cons c t ih =>
    rw [List.map_cons, List.find?_cons, List.find?_cons, ih]
    by_cases hc : c.key = k
    · have hj : (c.key == j) = false := by rw [hc]; simpa using fun e => h e.symm
      rw [if_pos hc, hf, hj]
    · rw [if_neg hc]

theorem RepairEngine.find_mem {r : RepairEngine} {k : EntryKey} {e : Entry} (h : r.find k = some e) : e ∈ r.list := List.mem_of_find?_eq_some h

/-- A name that no entry has finds none, and one that finds none no entry has. -/
theorem RepairEngine.find_eq_none {r : RepairEngine} {k : EntryKey} : r.find k = none ↔ k ∉ r.keys := by
  unfold RepairEngine.find RepairEngine.keys
  simp

theorem RepairEngine.mem_keys {r : RepairEngine} {k : EntryKey} {e : Entry} (h : r.find k = some e) : k ∈ r.keys :=
  RepairEngine.find_key h ▸ List.mem_map_of_mem (RepairEngine.find_mem h)

theorem RepairEngine.keys_remove (r : RepairEngine) (k : EntryKey) : k ∉ (r.remove k).keys := RepairEngine.find_eq_none.1 (RepairEngine.find_remove r k)

/-! ## What the start pass leaves (R157) -/

/-- A start pass keeps the entries' names and their order; a record stays, or is one of an entry that was SUSPECT, queued and not visiting and is IN_REPAIR now (R23). -/
structure Passed (a b : Block) : Prop where
  keys    : b.repair.keys = a.repair.keys
  records : ∀ (k : Fin 16) (n : Nat), b.store.record k n = a.store.record k n ∨
    ((⟨k, n⟩ : EntryKey) ∈ a.repair.keys ∧ ∃ r, a.store.record k n = some r ∧ r.state = .suspect ∧ r.queued = true ∧ r.visiting = false ∧
      b.store.record k n = some (r.enter .inRepair))

theorem Passed.refl (b : Block) : Passed b b := ⟨rfl, fun _ _ => .inl rfl⟩

theorem Block.startEntry_store (b : Block) (e : Entry) (ctx : Fin 4) : (b.startEntry e ctx).store = b.store.repairStart e.key.slot e.key.frame := by
  unfold Block.startEntry
  exact Block.ask_store _ _

/-- An entry that has started holds its context and its extents, and is FETCHING (R157). -/
def Entry.started (ctx : Fin 4) (extents : List Nat) (x : Entry) : Entry := { x with phase := .fetching, context := some ctx, extents := some extents }

theorem Block.startEntry_repair (b : Block) (e : Entry) (ctx : Fin 4) : (b.startEntry e ctx).repair =
    { b.repair.upd e.key (Entry.started ctx (b.repair.freeExtents.take (b.entryNeed e))) with freeExtents := b.repair.freeExtents.drop (b.entryNeed e) } := by
  unfold Block.startEntry
  exact Block.ask_repair _ _

theorem RepairEngine.keys_withExtents (r : RepairEngine) (free : List Nat) : ({ r with freeExtents := free } : RepairEngine).keys = r.keys := rfl

theorem RepairEngine.find_withExtents (r : RepairEngine) (free : List Nat) (k : EntryKey) : ({ r with freeExtents := free } : RepairEngine).find k = r.find k := rfl

theorem Block.startEntry_find_self (b : Block) (e : Entry) (ctx : Fin 4) : (b.startEntry e ctx).repair.find e.key =
    (b.repair.find e.key).map (Entry.started ctx (b.repair.freeExtents.take (b.entryNeed e))) := by
  rw [Block.startEntry_repair, RepairEngine.find_withExtents]
  exact RepairEngine.find_upd _ _ _ fun _ => rfl

theorem Block.startEntry_find_ne (b : Block) {e : Entry} {k : EntryKey} (h : k ≠ e.key) (ctx : Fin 4) :
    (b.startEntry e ctx).repair.find k = b.repair.find k := by
  rw [Block.startEntry_repair, RepairEngine.find_withExtents]
  exact RepairEngine.find_upd_ne _ h fun _ => rfl

theorem Block.startEntry_keys (b : Block) (e : Entry) (ctx : Fin 4) : (b.startEntry e ctx).repair.keys = b.repair.keys := by
  rw [Block.startEntry_repair, RepairEngine.keys_withExtents]
  exact RepairEngine.keys_upd _ _ fun _ => rfl

/-- The repair-start claim is granted for a SUSPECT record, queued and not visiting (R23). -/
theorem Store.repairStartGranted_iff {st : Store} {k : Fin 16} {n : Nat} : st.repairStartGranted k n = true ↔
    ∃ r, st.record k n = some r ∧ r.state = .suspect ∧ r.queued = true ∧ r.visiting = false := by
  unfold Store.repairStartGranted
  cases st.record k n <;> simp [and_assoc]

/-- An entry starts on a record its repair-start claim is granted for. -/
theorem Passed.startEntry {a b : Block} (h : Passed a b) {e : Entry} (ctx : Fin 4) (hk : e.key ∈ b.repair.keys)
    (hg : b.store.repairStartGranted e.key.slot e.key.frame = true) : Passed a (b.startEntry e ctx) := by
  refine ⟨(Block.startEntry_keys b e ctx).trans h.keys, fun k n => ?_⟩
  rw [Block.startEntry_store]
  by_cases hkn : (⟨k, n⟩ : EntryKey) = e.key
  · obtain ⟨rfl, rfl⟩ : k = e.key.slot ∧ n = e.key.frame := by rw [← hkn]; exact ⟨rfl, rfl⟩
    obtain ⟨r, hb, hs, hq, hv⟩ := Store.repairStartGranted_iff.1 hg
    unfold Store.repairStart
    rw [Store.record_updRecord, hb]
    rcases h.records e.key.slot e.key.frame with hr | ⟨-, r', -, -, -, -, hb'⟩
    · exact .inr ⟨h.keys ▸ hk, r, hr.symm.trans hb, hs, hq, hv, rfl⟩
    · obtain rfl : r'.enter .inRepair = r := Option.some.inj (hb'.symm.trans hb)
      cases hs
  · have same := Store.record_updRecord_ne (st := b.store) hkn (fun r => r.enter .inRepair)
    unfold Store.repairStart
    rw [same]
    exact h.records k n

theorem Passed.passFrom {a : Block} : ∀ (ks : List EntryKey) {b : Block}, Passed a b → Passed a (Block.passFrom ks b)
  | [], _, h => h
  | k :: ks, b, h => by
    unfold Block.passFrom
    split
    · exact Passed.passFrom ks h
    · next e he =>
      split
      · split
        · exact h
        · split
          · split
            · next hg =>
              have hk := RepairEngine.find_key he
              exact Passed.passFrom ks (h.startEntry _ (hk ▸ RepairEngine.mem_keys he) (hk ▸ hg))
            · exact Passed.passFrom ks h
          · exact h
      · exact Passed.passFrom ks h

theorem Passed.startPass (b : Block) : Passed b b.startPass := Passed.passFrom _ (Passed.refl b)

/-- The record of a frame without an entry stays through a start pass. -/
theorem Passed.record_of_absent {a b : Block} (h : Passed a b) {k : EntryKey} (hk : k ∉ a.repair.keys) :
    b.store.record k.slot k.frame = a.store.record k.slot k.frame :=
  (h.records k.slot k.frame).resolve_right fun hr => hk hr.1

/-! ## An entry that settles (R24, R170) -/

theorem Block.freeEntry_keys (b : Block) (k : EntryKey) : (b.freeEntry k).repair.keys = b.repair.keys := by
  unfold Block.freeEntry
  split
  · rfl
  · exact RepairEngine.keys_upd _ _ fun _ => rfl

theorem Block.freeEntry_store (b : Block) (k : EntryKey) : (b.freeEntry k).store = b.store := by
  unfold Block.freeEntry
  split <;> rfl

/-- The outcome claim writes the record's state and detail and clears its queued mark (R24). -/
theorem Store.repairOutcome_record (st : Store) (k : Fin 16) (n : Nat) (outcome : RecordState) (detail : Option Detail) :
    (st.repairOutcome k n outcome detail).record k n = (st.record k n).map (fun r => { r with state := outcome, detail := detail, queued := false }) := by
  unfold Store.repairOutcome
  exact (Store.record_updManifest (f := fun m => { m with suspectPins := m.suspectPins - 1 }) (fun _ _ => rfl) k n).trans (Store.record_updRecord _ _ _ _)

/-- An entry that settles leaves the list, and its record takes the outcome (R24, R170). -/
theorem Block.settleEntry_spec {b : Block} {k : EntryKey} {e : Entry} (outcome : RecordState) (detail : Option Detail) (he : b.repair.find k = some e) :
    (b.settleEntry k outcome detail).repair.find k = none ∧ (b.settleEntry k outcome detail).store.record k.slot k.frame =
      (b.store.record k.slot k.frame).map (fun r => { r with state := outcome, detail := detail, queued := false }) := by
  unfold Block.settleEntry
  rw [he]
  dsimp only
  generalize hb : Block.raise _ _ = b4
  have absent : k ∉ b4.repair.keys := by rw [← hb]; exact RepairEngine.keys_remove _ k
  have passed := Passed.startPass b4
  refine ⟨RepairEngine.find_eq_none.2 (passed.keys ▸ absent), (passed.record_of_absent absent).trans ?_⟩
  rw [← hb, Block.raise_store, Block.updRepair_store, Block.freeEntry_store]
  exact Store.repairOutcome_record _ _ _ _ _

/-! ## The rewrite test and SET REPAIR (R163, R175) -/

theorem Block.rewriteTest_off {b : Block} {k : EntryKey} {e : Entry} (he : b.repair.find k = some e) (hp : e.phase = .staged)
    (h : e.rewriteAllowed = false ∨ b.repair.rewriteEnabled = false) : b.rewriteTest k = b.settleEntry k .sisterSound (some .rewriteOff) := by
  unfold Block.rewriteTest
  rw [he]
  dsimp only
  rw [if_pos hp]
  refine if_pos ?_
  rcases h with h | h <;> simp [h]

theorem Block.rewriteTest_caps {b : Block} {k : EntryKey} {e : Entry} {c : Caps} (he : b.repair.find k = some e) (hp : e.phase = .staged)
    (ha : e.rewriteAllowed = true) (hr : b.repair.rewriteEnabled = true) (hc : (b.lane e.damaged).caps = some c) :
    b.rewriteTest k = if c.rewritable = false ∨ c.largest < b.store.recordedLength k.slot k.frame then b.settleEntry k .sisterSound (some .notRewritable)
      else b.ask e.damaged := by
  unfold Block.rewriteTest
  rw [he]
  dsimp only
  rw [if_pos hp, if_neg (by simp [ha, hr]), hc]
  simp

theorem onOff_none {n : Nat} (h : 2 ≤ n) : onOff n = none := by
  unfold onOff; rw [if_neg (by omega), if_neg (by omega)]

/-- Settles O55. -/
theorem setRepairTests : Obligations.SetRepairTests := by
  refine ⟨fun s tag body h => ⟨fun hr => ?_, fun h1 => ?_, fun h0 => ?_⟩,
    fun b k e he hp => ⟨Block.rewriteTest_off he hp, fun c ha hr hc => Block.rewriteTest_caps he hp ha hr hc⟩, fun b k e outcome detail he => ?_⟩
  · exact State.request_refused h (by unfold Block.setRepair; rw [onOff_none hr]; rfl)
  · exact State.request_replied h (b := s.blk.updRepair (fun r => { r with rewriteEnabled := true }))
      (by unfold Block.setRepair; rw [h1]; rfl) h.quiet rfl
  · exact (State.request_takes h _).trans (by unfold Block.setRepair; rw [h0]; rfl)
  · obtain ⟨gone, record⟩ := Block.settleEntry_spec outcome detail he
    exact ⟨gone, ((Still.refl b).settleEntry k outcome detail).lanes, ((Aside.refl b).settleEntry k outcome detail).recorder, record⟩

end Sys2Proof.Machine
end

section
/-! SUPPORT. The start pass, ENQUEUE SUSPECTS and WITHDRAW SUSPECT (R149 to R157, R172). -/
namespace Sys2Proof.Machine

/-! ## The lowest of four (R31, R154) -/

/-- The first of the four that meets a test is the lowest-numbered one. -/
theorem find_allFour {p : Fin 4 → Bool} {i : Fin 4} (h : p i = true) (hj : ∀ j, j < i → p j = false) : allFour.find? p = some i := by
  have cut : ∀ i : Fin 4, allFour = allFour.take i.val ++ i :: allFour.drop (i.val + 1) ∧ ∀ j ∈ allFour.take i.val, j < i := by decide
  refine List.find?_eq_some_iff_append.2 ⟨h, _, _, (cut i).1, fun j hm => ?_⟩
  rw [hj j ((cut i).2 j hm)]
  rfl

theorem find_allFour_none {p : Fin 4 → Bool} (h : ∀ i, p i = false) : allFour.find? p = none :=
  List.find?_eq_none.2 fun i _ => by rw [h i]; exact Bool.false_ne_true

/-- A context is free when no entry holds it (R154). -/
def RepairEngine.freeCtx (r : RepairEngine) (i : Fin 4) : Prop := ∀ e ∈ r.list, e.context ≠ some i

theorem RepairEngine.freeCtx_iff (r : RepairEngine) (i : Fin 4) : r.list.all (fun e => e.context != some i) = true ↔ r.freeCtx i := by
  simp [RepairEngine.freeCtx]

theorem RepairEngine.freeContext_lowest {r : RepairEngine} {i : Fin 4} (h : r.freeCtx i) (hj : ∀ j, j < i → ¬r.freeCtx j) : r.freeContext = some i :=
  find_allFour ((r.freeCtx_iff i).2 h) fun j hlt => Bool.eq_false_iff.2 (mt (r.freeCtx_iff j).1 (hj j hlt))

theorem RepairEngine.freeContext_none {r : RepairEngine} (h : ∀ i, ¬r.freeCtx i) : r.freeContext = none :=
  find_allFour_none fun i => Bool.eq_false_iff.2 (mt (r.freeCtx_iff i).1 (h i))

/-! ## Eligibility (R156) -/

theorem LaneState.inService_iff (st : LaneState) : st.inService = true ↔ st = .ready ∨ st = .engaged ∨ st = .calibrating ∨ st = .yielding := by
  cases st <;> simp [LaneState.inService]

theorem Duty.permits_iff (d : Duty) (source damaged : Fin 8) : d.permits source damaged = true ↔
    d.mode = .full ∨ (d.mode = .shared ∧ d.repairsInShared = true ∧ d.eligible[source] = true ∧ d.eligible[damaged] = true) := by
  unfold Duty.permits
  cases d.mode <;> simp [and_assoc]

theorem Block.eligible_eq (b : Block) (e : Entry) : b.eligible e =
    (e.phase == .waiting && (b.store.record e.key.slot e.key.frame).map FrameRecord.visiting == some false && (b.lane e.source).state.inService &&
      b.duty.permits e.source e.damaged) := by
  unfold Block.eligible
  congr 3
  cases b.store.record e.key.slot e.key.frame with
  | none => rfl
  | some r => cases h : r.visiting <;> simp [h]

/-- An entry is eligible: WAITING, its record not visiting, its source lane in service, repairs permitted on both lanes. -/
theorem Block.eligible_iff (b : Block) (e : Entry) : b.eligible e = true ↔
    e.phase = .waiting ∧ (∃ r, b.store.record e.key.slot e.key.frame = some r ∧ r.visiting = false) ∧
      ((b.lane e.source).state = .ready ∨ (b.lane e.source).state = .engaged ∨ (b.lane e.source).state = .calibrating ∨ (b.lane e.source).state = .yielding) ∧
      (b.duty.mode = .full ∨ (b.duty.mode = .shared ∧ b.duty.repairsInShared = true ∧ b.duty.eligible[e.source] = true ∧ b.duty.eligible[e.damaged] = true)) := by
  rw [Block.eligible_eq, Bool.and_eq_true, Bool.and_eq_true, Bool.and_eq_true, beq_iff_eq, beq_iff_eq, LaneState.inService_iff, Duty.permits_iff,
    Option.map_eq_some_iff]
  simp only [and_assoc]

/-- An entry that starts makes no other entry eligible or not. -/
theorem Block.startEntry_eligible (b : Block) (e x : Entry) (ctx : Fin 4) : (b.startEntry e ctx).eligible x = b.eligible x := by
  have lane : (b.startEntry e ctx).lane x.source = b.lane x.source := ((Still.refl b).startEntry e ctx).lane x.source
  have duty : (b.startEntry e ctx).duty = b.duty := by unfold Block.startEntry; exact Block.ask_duty _ _
  have visiting : ((b.startEntry e ctx).store.record x.key.slot x.key.frame).map FrameRecord.visiting =
      (b.store.record x.key.slot x.key.frame).map FrameRecord.visiting := by
    rw [Block.startEntry_store]
    exact Store.map_record_updRecord FrameRecord.visiting _ _ _ _ _ fun _ => rfl
  rw [Block.eligible_eq, Block.eligible_eq, lane, duty, visiting]

/-! ## The start pass (R157) -/

section
variable {b : Block} {k : EntryKey} {e : Entry} (ks : List EntryKey)

theorem Block.passFrom_absent (he : b.repair.find k = none) : Block.passFrom (k :: ks) b = Block.passFrom ks b := by
  rw [Block.passFrom, he]

theorem Block.passFrom_ineligible (he : b.repair.find k = some e) (h : b.eligible e = false) : Block.passFrom (k :: ks) b = Block.passFrom ks b := by
  rw [Block.passFrom, he]
  exact if_neg (by rw [h]; exact Bool.false_ne_true)

/-- The pass stops at an eligible entry that finds no context or too few extents. -/
theorem Block.passFrom_stops (he : b.repair.find k = some e) (h : b.eligible e = true)
    (hs : b.repair.freeContext = none ∨ b.repair.freeExtents.length < b.entryNeed e) : Block.passFrom (k :: ks) b = b := by
  rw [Block.passFrom, he]
  refine (if_pos h).trans ?_
  cases hc : b.repair.freeContext with
  | none => rfl
  | some ctx => exact if_neg (Nat.not_le.2 (hs.resolve_left (by rw [hc]; exact Option.some_ne_none ctx)))

/-- An eligible entry starts, and the pass goes on. -/
theorem Block.passFrom_starts {ctx : Fin 4} (he : b.repair.find k = some e) (h : b.eligible e = true) (hc : b.repair.freeContext = some ctx)
    (hn : b.entryNeed e ≤ b.repair.freeExtents.length) (hg : b.store.repairStartGranted k.slot k.frame = true) :
    Block.passFrom (k :: ks) b = Block.passFrom ks (b.startEntry e ctx) := by
  rw [Block.passFrom, he]
  refine (if_pos h).trans ?_
  rw [hc]
  exact (if_pos hn).trans (if_pos hg)

end

/-- Names that find no eligible entry are passed over. -/
theorem Block.passFrom_skip {b : Block} (rest : List EntryKey) : ∀ {ks : List EntryKey}, (∀ k ∈ ks, ∀ e, b.repair.find k = some e → b.eligible e = false) →
    Block.passFrom (ks ++ rest) b = Block.passFrom rest b
  | [], _ => rfl
  | k :: ks, h => by
    have tail := Block.passFrom_skip rest (fun j hj => h j (List.mem_cons_of_mem k hj))
    cases he : b.repair.find k with
    | none => exact (Block.passFrom_absent _ he).trans tail
    | some e => exact (Block.passFrom_ineligible _ he (h k List.mem_cons_self e he)).trans tail

/-- The oldest entry of a name among the first of the list is one of those. -/
theorem RepairEngine.find_mem_older {r : RepairEngine} {older rest : List Entry} (h : r.list = older ++ rest) {k : EntryKey} (hk : k ∈ older.map Entry.key)
    {e : Entry} (he : r.find k = some e) : e ∈ older := by
  obtain ⟨x, hx, rfl⟩ := List.mem_map.1 hk
  unfold RepairEngine.find at he
  rw [h, List.find?_append] at he
  cases ho : older.find? (fun y => y.key == x.key) with
  | none => exact absurd (List.find?_eq_none.1 ho x hx) (by simp)
  | some y =>
    rw [ho] at he
    cases he
    exact List.mem_of_find?_eq_some ho

/-- With no eligible entry the start pass changes nothing. -/
theorem Block.startPass_none {b : Block} (h : ∀ e ∈ b.repair.list, b.eligible e = false) : b.startPass = b := by
  have skip := Block.passFrom_skip (b := b) [] (ks := b.repair.keys) fun k _ e he => h e (RepairEngine.find_mem he)
  rw [List.append_nil] at skip
  exact skip

section
variable {b : Block} {older newer : List Entry} {e : Entry} (hl : b.repair.list = older ++ e :: newer) (hold : ∀ x ∈ older, b.eligible x = false)
include hl hold

/-- The pass comes to the oldest eligible entry. -/
theorem Block.startPass_from : b.startPass = Block.passFrom (e.key :: newer.map Entry.key) b := by
  have keys : b.repair.keys = older.map Entry.key ++ e.key :: newer.map Entry.key := by
    unfold RepairEngine.keys; rw [hl, List.map_append, List.map_cons]
  unfold Block.startPass
  rw [keys]
  exact Block.passFrom_skip _ fun k hk x hx => hold x (RepairEngine.find_mem_older hl hk hx)

variable (hfind : b.repair.find e.key = some e) (hel : b.eligible e = true)
include hfind hel

theorem Block.startPass_stops (h : b.repair.freeContext = none ∨ b.repair.freeExtents.length < b.entryNeed e) : b.startPass = b :=
  (Block.startPass_from hl hold).trans (Block.passFrom_stops _ hfind hel h)

/-- The oldest eligible entry starts, and the pass is made again from what it leaves: nothing in front of the entry has become eligible, and it is FETCHING. -/
theorem Block.startPass_starts {ctx : Fin 4} (hc : b.repair.freeContext = some ctx) (hn : b.entryNeed e ≤ b.repair.freeExtents.length)
    (hg : b.store.repairStartGranted e.key.slot e.key.frame = true) : b.startPass = (b.startEntry e ctx).startPass := by
  have started : b.startPass = Block.passFrom (newer.map Entry.key) (b.startEntry e ctx) :=
    (Block.startPass_from hl hold).trans (Block.passFrom_starts _ hfind hel hc hn hg)
  have keys : (b.startEntry e ctx).repair.keys = (older.map Entry.key ++ [e.key]) ++ newer.map Entry.key := by
    rw [Block.startEntry_keys]
    unfold RepairEngine.keys
    rw [hl]
    simp
  have passed : ∀ k ∈ older.map Entry.key ++ [e.key], ∀ x, (b.startEntry e ctx).repair.find k = some x → (b.startEntry e ctx).eligible x = false := by
    intro k hk x hx
    rw [Block.startEntry_eligible]
    by_cases hke : k = e.key
    · rw [hke, Block.startEntry_find_self, hfind] at hx
      cases hx
      rw [Block.eligible_eq]
      rfl
    · rw [Block.startEntry_find_ne b hke] at hx
      have hko : k ∈ older.map Entry.key := (List.mem_append.1 hk).resolve_right fun h => hke (List.mem_singleton.1 h)
      exact hold x (RepairEngine.find_mem_older hl hko hx)
  rw [started, Block.startPass, keys, Block.passFrom_skip _ passed]

end

/-- What an entry needs, by its record's length (R155). -/
theorem Block.entryNeed_of {b : Block} {e : Entry} {r : FrameRecord} {n : Nat} (hr : b.store.record e.key.slot e.key.frame = some r) (hl : r.length = some n) :
    b.entryNeed e = (n + 16777215) / 16777216 := by
  unfold Block.entryNeed Store.recordedLength extentsNeeded extentBytes
  rw [hr]
  dsimp only
  rw [hl, Option.getD_some]

/-- The block as an entry that starts leaves it, written out: its source lane is asked (R23, R157). -/
theorem Block.startEntry_eq (b : Block) (e : Entry) (ctx : Fin 4) {need : Nat} (hn : b.entryNeed e = need) : b.startEntry e ctx =
    ({ b with
      store := b.store.updRecord e.key.slot e.key.frame (fun x => { x with state := .inRepair, detail := none })
      repair := { b.repair.upd e.key (fun x => { x with phase := .fetching, context := some ctx, extents := some (b.repair.freeExtents.take need) }) with
        freeExtents := b.repair.freeExtents.drop need } } : Block).ask e.source := by
  subst hn
  unfold Block.startEntry
  rfl

/-! ## WITHDRAW SUSPECT (R172) -/

theorem Block.dropEntry_find (b : Block) (k : EntryKey) : (b.dropEntry k).repair.find k = none := RepairEngine.find_remove _ _

theorem Block.withdrawStarted_find (b : Block) (k : EntryKey) : (b.withdrawStarted k).repair.find k = none := RepairEngine.find_remove _ _

theorem Block.withdrawSuspect_found {b : Block} {body : List Byte} {k : Fin 16} {e : Entry} (hk : slotOf (fieldAt body 0 1) = some k)
    (he : b.repair.find { slot := k, frame := fieldAt body 1 4 } = some e) : b.withdrawSuspect body = b.withdrawEntry e := by
  unfold Block.withdrawSuspect
  rw [hk]
  dsimp only
  rw [he]

/-! ## ENQUEUE SUSPECTS (R153) -/

/-- The record at an index is SUSPECT with its queued mark clear (R153). -/
def Manifest.waits (m : Manifest) (i : Nat) : Bool := m.records[i]?.any (fun r => r.state == .suspect && !r.queued)

/-- The first records of the manifest, below an index, that wait to join the list. -/
def Manifest.waiting (m : Manifest) (n : Nat) : List Nat := (List.range n).filter m.waits

/-- The manifest with the records of these indexes queued, each with its suspect pin (R22). -/
def Manifest.joined (m : Manifest) (js : List Nat) : Manifest :=
  { m with records := m.records.mapIdx (fun i r => { r with queued := r.queued || decide (i ∈ js) }), suspectPins := m.suspectPins + js.length }

/-- The entry that a record of an index joins the list with (R149, R153). -/
def Manifest.hostEntry (m : Manifest) (k : Fin 16) (damaged source : Fin 8) (allowed : Bool) (i : Nat) : Entry :=
  { key := { slot := k, frame := m.first + i }, cause := none, sequence := none, damaged := damaged, source := source, rewriteAllowed := allowed }

/-- The block when the records of these indexes have joined. -/
def Block.afterJoining (b : Block) (k : Fin 16) (m : Manifest) (damaged source : Fin 8) (allowed : Bool) (js : List Nat) : Block :=
  { b with
    store := b.store.put k (some (m.joined js))
    repair := { b.repair with list := b.repair.list ++ js.map (m.hostEntry k damaged source allowed) } }

theorem Manifest.joined_nil (m : Manifest) : m.joined [] = m := by
  have records : (m.joined []).records = m.records := List.ext_getElem? fun i => by simp [Manifest.joined]
  show { m with records := (m.joined []).records } = m
  rw [records]

theorem Manifest.index_at {m : Manifest} {i : Nat} (h : i < m.count) : m.index (m.first + i) = some i :=
  Manifest.index_eq_some.2 ⟨by omega, by omega, by omega⟩

theorem Manifest.record_at {m : Manifest} {i : Nat} (h : i < m.count) : m.record (m.first + i) = m.records[i]? := by
  unfold Manifest.record
  rw [Manifest.index_at h]

/-- A frame of the manifest's span after the join: its queued mark, and nothing else, may have been set. -/
theorem Manifest.joined_record (m : Manifest) (js : List Nat) (i : Nat) :
    (m.joined js).record (m.first + i) = (m.record (m.first + i)).map (fun r => { r with queued := r.queued || decide (i ∈ js) }) := by
  by_cases h : i < m.count
  · rw [Manifest.record_at h]
    refine (Manifest.record_at (m := m.joined js) h).trans ?_
    simp [Manifest.joined]
  · have out : m.index (m.first + i) = none := if_neg (by omega)
    have out' : (m.joined js).index (m.first + i) = none := out
    unfold Manifest.record
    rw [out, out']
    rfl

/-- The next index joins behind the others. -/
theorem Manifest.joined_snoc {m : Manifest} {n : Nat} {js : List Nat} (h : n < m.count) :
    ((m.joined js).updRecord (m.first + n) (fun r => { r with queued := true })).records = (m.joined (js ++ [n])).records := by
  unfold Manifest.updRecord
  rw [show (m.joined js).index (m.first + n) = some n from Manifest.index_at h]
  refine List.ext_getElem? fun i => ?_
  simp only [Manifest.joined, List.getElem?_modify, List.getElem?_mapIdx, List.mem_append, List.mem_singleton]
  cases m.records[i]? with
  | none => simp
  | some r =>
    by_cases hi : n = i
    · subst hi; simp
    · simp [hi, Ne.symm hi]

/-- The queue claim of the next index, on the manifest with the others joined (R22). -/
theorem Store.queueClaim_joined (st : Store) (k : Fin 16) {m : Manifest} {n : Nat} {js : List Nat} (h : n < m.count) :
    (st.put k (some (m.joined js))).queueClaim k (m.first + n) = st.put k (some (m.joined (js ++ [n]))) := by
  have manifest : Manifest.updRecord (m.joined js) (m.first + n) (fun r => { r with queued := true }) =
      { m.joined (js ++ [n]) with suspectPins := m.suspectPins + js.length } := by
    have records := Manifest.joined_snoc (js := js) h
    unfold Manifest.updRecord at records ⊢
    rw [show (m.joined js).index (m.first + n) = some n from Manifest.index_at h] at records ⊢
    dsimp only at records ⊢
    rw [records]
    rfl
  have put_put : ∀ x y : Option Manifest, (st.put k x).put k y = st.put k y := fun x y => by
    unfold Store.put; simp
  unfold Store.queueClaim Store.updRecord Store.updManifest
  rw [Store.manifest_put_self, put_put, Store.manifest_put_self, put_put]
  simp only [Option.map_some, manifest]
  simp [Manifest.joined, Nat.add_assoc]

theorem Store.put_same {st : Store} {k : Fin 16} {m : Manifest} (h : st.manifest k = some m) : st.put k (some m) = st := by
  unfold Store.manifest at h
  unfold Store.put
  rw [← h]
  simp

section
variable {b : Block} {k : Fin 16} {m : Manifest} (hm : b.store.manifest k = some m) (hready : m.state = .ready) (damaged source : Fin 8) (allowed : Bool)

/-- On a READY manifest with earlier indexes joined, the queue claim of an index is granted when its record waits (R16, R22). -/
theorem Store.queueGranted_joined (st : Store) (hready : m.state = .ready) {n : Nat} {js : List Nat} (hn : n < m.count) (hj : n ∉ js) :
    (st.put k (some (m.joined js))).queueGranted k (m.first + n) = m.waits n := by
  have record : (st.put k (some (m.joined js))).record k (m.first + n) = m.records[n]? := by
    unfold Store.record
    rw [Store.manifest_put_self]
    refine (m.joined_record js n).trans ?_
    rw [Manifest.record_at hn]
    cases m.records[n]? <;> simp [hj]
  unfold Store.queueGranted Manifest.waits
  rw [Store.manifest_put_self, record]
  cases m.records[n]? with
  | none => rfl
  | some r => simp [Manifest.joined, hready]

include hm hready in
/-- After the walk over the indexes below `n`, those that waited have joined, as far as the list has room (R153). -/
theorem Block.walk_joins : ∀ n : Nat, n ≤ m.count → ((List.range n).map (fun i => m.first + i)).foldl (Block.enqueueHost k damaged source allowed) b =
    b.afterJoining k m damaged source allowed ((m.waiting n).take (128 - b.repair.list.length))
  | 0, _ => by
    simp [Manifest.waiting, Block.afterJoining, Manifest.joined_nil, Store.put_same hm]
  | n + 1, h => by
    have hn : n < m.count := h
    rw [List.range_succ, List.map_append, List.foldl_append, Block.walk_joins n (Nat.le_of_lt hn)]
    generalize hjs : (m.waiting n).take (128 - b.repair.list.length) = js
    have fresh : n ∉ js := fun hmem => by
      have := List.mem_range.1 (List.mem_filter.1 (List.mem_of_mem_take (hjs ▸ hmem))).1
      omega
    have next : m.waiting (n + 1) = m.waiting n ++ if m.waits n then [n] else [] := by
      unfold Manifest.waiting
      rw [List.range_succ, List.filter_append]
      cases hw : m.waits n <;> simp [hw]
    have granted := Store.queueGranted_joined (k := k) b.store hready hn fresh
    have size : js.length = min (128 - b.repair.list.length) (m.waiting n).length := hjs ▸ List.length_take
    show Block.enqueueHost k damaged source allowed (b.afterJoining k m damaged source allowed js) (m.first + n) = _
    unfold Block.enqueueHost
    rw [next]
    by_cases hw : m.waits n = true
    · by_cases hroom : (b.afterJoining k m damaged source allowed js).repair.list.length < 128
      · have room : (m.waiting n).length < 128 - b.repair.list.length := by
          simp only [Block.afterJoining, List.length_append, List.length_map] at hroom
          omega
        have all : js = m.waiting n := hjs ▸ List.take_of_length_le (Nat.le_of_lt room)
        rw [if_pos ⟨hroom, granted.trans hw⟩, if_pos hw, List.take_of_length_le (by simp; omega), ← all]
        unfold Block.appendEntry Block.afterJoining
        simp only [Block.updStore, Block.updRepair, Store.queueClaim_joined b.store k hn, List.map_append, List.append_assoc]
        rfl
      · have full : 128 - b.repair.list.length ≤ (m.waiting n).length := by
          simp only [Block.afterJoining, List.length_append, List.length_map] at hroom
          omega
        rw [if_neg (fun hc => hroom hc.1), List.take_append_of_le_length full, hjs]
    · rw [if_neg (fun hc => hw (granted.symm.trans hc.2)), if_neg hw, List.append_nil, hjs]

end

/-! ## The records left (R153) -/

/-- A list counts what its indexes count. -/
theorem countP_eq_indices {α : Type} (q : α → Bool) : ∀ l : List α, l.countP q = ((List.range l.length).filter (fun i => l[i]?.any q)).length
  | [] => rfl
  | x :: l => by
    rw [List.countP_cons, countP_eq_indices q l, List.length_cons, List.range_succ_eq_map, List.filter_cons, List.filter_map]
    cases hx : q x <;> simp [hx, Function.comp_def]

/-- Of indexes without repetition, those not among the first `c` are the rest. -/
theorem filter_not_mem_take {l : List Nat} (h : l.Nodup) (c : Nat) : l.filter (fun i => !decide (i ∈ l.take c)) = l.drop c := by
  conv_lhs => arg 2; rw [← List.take_append_drop c l]
  have disjoint := List.disjoint_of_nodup_append ((List.take_append_drop c l).symm ▸ h)
  rw [List.filter_append, List.filter_eq_nil_iff.2 (fun i hi => by simp [hi]), List.nil_append]
  exact List.filter_eq_self.2 fun i hi => by simpa using fun hi' => disjoint hi' hi

/-- The records left SUSPECT and unqueued are those that waited and have not joined (R153). -/
theorem Block.afterJoining_left (b : Block) (k : Fin 16) {m : Manifest} (hlen : m.records.length = m.count) (damaged source : Fin 8) (allowed : Bool) (c : Nat) :
    (b.afterJoining k m damaged source allowed ((m.waiting m.count).take c)).store.unqueuedSuspects k =
      (m.waiting m.count).length - ((m.waiting m.count).take c).length := by
  have nodup : (m.waiting m.count).Nodup := List.Nodup.filter _ List.nodup_range
  unfold Store.unqueuedSuspects Block.afterJoining
  rw [Store.manifest_put_self]
  dsimp only
  have waits : ∀ js i, (m.joined js).records[i]?.any (fun r => r.state == .suspect && !r.queued) = (m.waits i && !decide (i ∈ js)) := fun js i => by
    unfold Manifest.waits Manifest.joined
    cases hr : m.records[i]? with
    | none => simp [hr]
    | some r => simp [hr, Bool.and_assoc]
  rw [countP_eq_indices]
  simp only [waits]
  rw [show (m.joined ((m.waiting m.count).take c)).records.length = m.count by simp [Manifest.joined, hlen]]
  have split := filter_not_mem_take nodup c
  unfold Manifest.waiting at split ⊢
  rw [List.filter_filter] at split
  simp only [Bool.and_comm (m.waits _)]
  rw [split, List.length_drop, List.length_take]
  omega

/-- ENQUEUE SUSPECTS with good fields on a manifest held (R153). -/
theorem Block.enqueueSuspects_good {b : Block} {body : List Byte} {k : Fin 16} {l : Fin 8} (hk : slotOf (fieldAt body 0 1) = some k)
    (hl : laneOf (fieldAt body 1 1) = some l) (hf : fieldAt body 2 1 ≤ 1) : b.enqueueSuspects body =
      match b.store.manifest k with
      | none => b.refuse .absent
      | some m =>
        if m.state ≠ .ready then b.refuse .state
        else match m.otherCopy l with
          | none => b.refuse .state
          | some source =>
            if 128 ≤ b.repair.list.length then b.refuse .room
            else
              let b1 := b.enqueueWalk k m l source (fieldAt body 2 1 == 1)
              b1.startPass.done (beBytes 1 (b1.repair.list.length - b.repair.list.length) ++ beBytes 2 (b1.store.unqueuedSuspects k)) := by
  have onoff : onOff (fieldAt body 2 1) = some (fieldAt body 2 1 == 1) := by
    have h01 : fieldAt body 2 1 = 0 ∨ fieldAt body 2 1 = 1 := by omega
    rcases h01 with h | h <;> rw [h] <;> rfl
  unfold Block.enqueueSuspects
  rw [hk, hl, onoff] <;> rfl

theorem Block.enqueueSuspects_bad {b : Block} {body : List Byte} (h : ¬(fieldAt body 0 1 < 16 ∧ fieldAt body 1 1 < 8 ∧ fieldAt body 2 1 ≤ 1)) :
    b.enqueueSuspects body = b.refuse .range := by
  unfold Block.enqueueSuspects
  split
  · next k l a hk hl ha =>
    refine absurd ⟨?_, ?_, ?_⟩ h
    · exact Nat.lt_of_not_le fun hle => by rw [slotOf_none hle] at hk; cases hk
    · exact Nat.lt_of_not_le fun hle => by rw [laneOf_none hle] at hl; cases hl
    · exact Nat.lt_succ_iff.1 (Nat.lt_of_not_le fun hle => by rw [onOff_none hle] at ha; cases ha)
  · rfl

/-- Settles O54: the walk by `Block.walk_joins`, the withdrawal phase by phase, and the start pass by its oldest eligible entry. -/
theorem enqueueAndWithdraw : Obligations.EnqueueAndWithdraw := by
  refine ⟨fun s tag body h => ?enqueue, fun s tag body h => ?withdraw, fun b => ?pass⟩
  case enqueue =>
    refine ⟨fun hf => State.request_refused h (Block.enqueueSuspects_bad hf), fun k l hk hl hf => ?_⟩
    have good := Block.enqueueSuspects_good (b := s.blk) hk hl hf.2.2
    refine ⟨fun hm => State.request_refused h (by rw [good, hm]; rfl), fun m hm => ?_⟩
    rw [hm] at good
    refine ⟨fun hr => ?_, fun hr ho hroom => ?_, fun source hr ho hroom hlen => ?_⟩
    · refine State.request_refused h (good.trans ?_)
      by_cases hs : m.state = .ready
      · have copy : m.otherCopy l = none := hr.resolve_left (not_not.2 hs)
        exact (if_neg (not_not.2 hs)).trans (by rw [copy]; rfl)
      · exact if_pos hs
    · obtain ⟨source, hsource⟩ := Option.ne_none_iff_exists'.1 ho
      have other : m.otherCopy l = some source := hsource
      exact State.request_refused h (good.trans ((if_neg (not_not.2 hr)).trans (by rw [other]; exact if_pos hroom)))
    · have other : m.otherCopy l = some source := ho
      have walk : s.blk.enqueueWalk k m l source (fieldAt body 2 1 == 1) = _ := Block.walk_joins hm hr l source (fieldAt body 2 1 == 1) m.count (Nat.le_refl _)
      dsimp only at good
      rw [if_neg (not_not.2 hr), other] at good
      dsimp only at good
      rw [if_neg (Nat.not_le.2 hroom), walk, Block.afterJoining_left _ _ hlen] at good
      dsimp only
      refine ⟨s.blk.store.put k (some (m.joined ((m.waiting m.count).take (128 - s.blk.repair.list.length)))), ?_, fun i => ?_, ?_⟩
      · refine (State.request_takes h _).trans ?_
        rw [good]
        simp only [Block.afterJoining, List.length_append, List.length_map, Nat.add_sub_cancel_left]
        rfl
      · unfold Store.record
        rw [Store.manifest_put_self]
        dsimp only
        rw [m.joined_record _ i, Option.map_map]
        rfl
      · rw [Store.manifest_put_self]; rfl
  case withdraw =>
    refine ⟨fun hr => State.request_refused h (by unfold Block.withdrawSuspect; rw [slotOf_none hr]; rfl), fun k hk => ⟨fun he => ?_, fun e he => ?_⟩⟩
    · exact State.request_refused h (by unfold Block.withdrawSuspect; rw [hk]; dsimp only; rw [he]; rfl)
    · have found := Block.withdrawSuspect_found hk he
      have key := RepairEngine.find_key he
      dsimp only
      refine ⟨fun hp => State.request_refused h (found.trans ?_), fun hp => ⟨(State.request_takes h _).trans ?_, Block.dropEntry_find _ _⟩,
        fun hp => ⟨(State.request_takes h _).trans ?_, Block.withdrawStarted_find _ _⟩, fun hp => ⟨(State.request_takes h _).trans ?_, Block.withdrawStarted_find _ _⟩⟩
      · unfold Block.withdrawEntry
        rcases hp with hp | hp <;> rw [hp] <;> rfl
      · rw [found, ← key]; unfold Block.withdrawEntry; rw [hp]; rfl
      · rw [found, ← key]; unfold Block.withdrawEntry; rw [hp]; rfl
      · rw [found, ← key]; unfold Block.withdrawEntry; rw [hp]; rfl
  case pass =>
    dsimp only
    simp only [← Block.eligible_iff, Bool.not_eq_true]
    refine ⟨Block.startPass_none, fun older e newer r length hl hold hfind hel hr hlen => ⟨fun hs => ?_, fun i hi hj hn hst hq => ?_⟩⟩
    · refine Block.startPass_stops hl hold hfind hel ?_
      rw [Block.entryNeed_of hr hlen]
      exact hs.imp_left RepairEngine.freeContext_none
    · obtain ⟨r', hr', hv⟩ := ((Block.eligible_iff b e).1 hel).2.1
      rw [hr] at hr'
      cases hr'
      rw [← Block.startEntry_eq b e i (Block.entryNeed_of hr hlen)]
      exact Block.startPass_starts hl hold hfind hel (RepairEngine.freeContext_lowest hi hj) (by rw [Block.entryNeed_of hr hlen]; exact hn)
        (Store.repairStartGranted_iff.2 ⟨r, hr, hst, hq, hv⟩)

end Sys2Proof.Machine
end

section
/-! SUPPORT. The end of a frame exchange and what a repair step does with its result (R35, R36, R76 to R79, R160 to R162, R168). -/
namespace Sys2Proof.Machine

/-! ## The result goes to the owner (R35, R36) -/

section
variable {b : Block} {l : Fin 8}

theorem Block.frameResult_campaign {id : Nat} (ho : (b.lane l).owner = some (.campaign id)) (frame : Nat) (res : FrameResult) :
    b.frameResult l frame res = ((b.dropExchange l).campaignResult id frame res true).finishItem l id := by
  unfold Block.frameResult
  rw [ho]
  rfl

theorem Block.frameResult_entry {k : EntryKey} (ho : (b.lane l).owner = some (.entry k)) (frame : Nat) (res : FrameResult) :
    b.frameResult l frame res = b.repairResult l k res := by
  unfold Block.frameResult
  rw [ho]

theorem Block.drainEnds_campaign {id : Nat} (ho : (b.lane l).owner = some (.campaign id)) : b.drainEnds l = (b.dropExchange l).finishItem l id := by
  unfold Block.drainEnds
  rw [ho]

theorem Block.drainEnds_entry {k : EntryKey} (ho : (b.lane l).owner = some (.entry k)) : b.drainEnds l = b.endOwner l := by
  unfold Block.drainEnds
  rw [ho]

theorem Pool.result_of_held {p : Pool} {u : DigestUnit} (h : p.heldBy l = some u) : p.result l = .complete u.received (u.remainder ^^^ 0xFFFFFFFFFFFFFFFF) := by
  unfold Pool.result
  rw [h]
  rfl

/-! ## The three units that end a frame exchange (R76, R78, R79) -/

variable {f : FrameExchange} (hx : (b.lane l).exchange = .frame f)
include hx

theorem Block.endTaken_frame : Block.endTaken l () b = match f.phase with
    | .awaitingMark => b.malformed l
    | .receiving => b.frameResult l f.fetched (b.pool.result l)
    | .draining => b.drainEnds l := by
  unfold Block.endTaken
  rw [hx] <;> rfl

/-- A FAULT outside a draining ends the frame it names. -/
theorem Block.faultTaken_live (hp : f.phase ≠ .draining) (n : Nat) (reason : Byte) : Block.faultTaken l (n, reason) b =
    if n = f.fetched then b.frameResult l f.fetched (.fault (b.pool.receivedBy l) reason) else b.malformed l := by
  unfold Block.faultTaken
  rw [hx]
  dsimp only
  cases h : f.phase with
  | awaitingMark => rfl
  | receiving => rfl
  | draining => exact absurd h hp

/-- A FAULT in a draining ends it when it names either of its frames. -/
theorem Block.faultTaken_draining (hp : f.phase = .draining) (n : Nat) (reason : Byte) : Block.faultTaken l (n, reason) b =
    if f.names n then b.drainEnds l else b.malformed l := by
  unfold Block.faultTaken
  rw [hx]
  dsimp only
  rw [hp]

theorem Block.notFoundTaken_frame (n : Nat) : Block.notFoundTaken l (.frame n) b = b.frameMissing l f n := by
  unfold Block.notFoundTaken
  rw [hx]

end

theorem FrameExchange.names_iff (f : FrameExchange) (n : Nat) : f.names n = true ↔ n = f.fetched ∨ f.delivered = some n := by
  simp [FrameExchange.names]

/-! ## A repair step acts on its verdict (R160, R161, R168) -/

theorem Store.expects_of {st : Store} {k : Fin 16} {n length : Nat} {r : FrameRecord} (hr : st.record k n = some r) (hl : r.length = some length) :
    st.expects k n = (length, r.digest) := by
  unfold Store.expects
  rw [hr]
  dsimp only
  rw [hl, Option.getD_some]

section
variable {b : Block} {k : EntryKey} {e : Entry} (he : b.repair.find k = some e)
include he

theorem Block.repairResult_fetching (hp : e.phase = .fetching) (l : Fin 8) (res : FrameResult) : b.repairResult l k res =
    match verdictOf (b.store.expects k.slot k.frame).1 (b.store.expects k.slot k.frame).2 res with
    | .sound => b.stepAnswered l (fun x => x.sourceSound k)
    | .damaged => b.stepAnswered l (fun x => x.settleEntry k .lost (some .bothDamaged))
    | .missized => b.stepAnswered l (fun x => x.settleEntry k .lost (some .bothDamaged))
    | .uncomparable => b.stepAnswered l (fun x => x.sourceFailed k) := by
  unfold Block.repairResult
  rw [he]
  dsimp only
  rw [hp] <;> rfl

/-- A read-back is sound, or the rewrite has failed. -/
theorem Block.repairResult_readback (hp : e.phase = .readback) (l : Fin 8) (res : FrameResult) : b.repairResult l k res =
    if verdictOf (b.store.expects k.slot k.frame).1 (b.store.expects k.slot k.frame).2 res = .sound then (b.settleEntry k .repaired none).endOwner l
    else b.stepAnswered l (fun x => x.rewriteFailed k) := by
  unfold Block.repairResult
  rw [he]
  dsimp only
  rw [hp]
  dsimp only
  cases verdictOf (b.store.expects k.slot k.frame).1 (b.store.expects k.slot k.frame).2 res <;> rfl

theorem Block.sourceFailed_found : b.sourceFailed k =
    let counted := b.updEntry k (fun x => { x with sourceAttempts := x.sourceAttempts + 1, stepLane := none })
    if e.sourceAttempts + 1 < 3 then counted.entryToWaiting k else counted.settleEntry k .lost (some .sourceUnreadable) := by
  have counted := RepairEngine.find_upd b.repair k (fun x => { x with sourceAttempts := x.sourceAttempts + 1, stepLane := none }) fun _ => rfl
  rw [he] at counted
  unfold Block.sourceFailed
  dsimp only
  rw [show (b.updEntry k (fun x => { x with sourceAttempts := x.sourceAttempts + 1, stepLane := none })).repair.find k = _ from counted]
  rfl

end

/-! ## An entry back in WAITING (R23, R155) -/

theorem insertAscending_perm (n : Nat) : ∀ l : List Nat, (insertAscending n l).Perm (n :: l)
  | [] => .refl _
  | m :: t => by
    unfold insertAscending
    split
    · exact .refl _
    · exact ((insertAscending_perm n t).cons m).trans (.swap n m t)

theorem foldr_insertAscending_perm (free : List Nat) : ∀ l : List Nat, (l.foldr insertAscending free).Perm (l ++ free)
  | [] => .refl _
  | n :: t => (insertAscending_perm n _).trans ((foldr_insertAscending_perm free t).cons n)

theorem insertAscending_pairwise (n : Nat) : ∀ {l : List Nat}, l.Pairwise (fun i j => i ≤ j) → (insertAscending n l).Pairwise (fun i j => i ≤ j)
  | [], _ => List.pairwise_singleton _ _
  | m :: t, h => by
    obtain ⟨first, rest⟩ := List.pairwise_cons.1 h
    unfold insertAscending
    split
    · next hn => exact List.pairwise_cons.2 ⟨fun j hj => (List.mem_cons.1 hj).elim (fun e => e ▸ hn) fun ht => hn.trans (first j ht), h⟩
    · next hn =>
      refine List.pairwise_cons.2 ⟨fun j hj => ?_, insertAscending_pairwise n rest⟩
      exact (List.mem_cons.1 ((insertAscending_perm n t).mem_iff.1 hj)).elim (fun e => by omega) (first j)

theorem foldr_insertAscending_pairwise {free : List Nat} (h : free.Pairwise (fun i j => i ≤ j)) :
    ∀ l : List Nat, (l.foldr insertAscending free).Pairwise (fun i j => i ≤ j)
  | [] => h
  | n :: t => insertAscending_pairwise n (foldr_insertAscending_pairwise h t)

/-- The block as an entry that returns to WAITING leaves it, before the start pass: extents and context given back, the record SUSPECT again. -/
def Block.waitingAgain (b : Block) (k : EntryKey) : Block :=
  ((b.freeEntry k).updStore (fun st => st.repairReturn k.slot k.frame)).updEntry k (fun x => { x with phase := .waiting })

theorem Block.entryToWaiting_eq (b : Block) (k : EntryKey) : b.entryToWaiting k = (b.waitingAgain k).startPass := rfl

/-- An entry that has given back its extents and its context (R155). -/
def Entry.givenBack (x : Entry) : Entry := { x with extents := none, context := none, stepLane := none }

def Entry.inWaiting (x : Entry) : Entry := { x with phase := .waiting }

/-- The repair engine when an entry has given back its extents and its context. -/
theorem Block.freeEntry_found {b : Block} {k : EntryKey} {e : Entry} (he : b.repair.find k = some e) : b.freeEntry k =
    { b with repair := (b.repair.freeAll (e.extents.getD [])).upd k Entry.givenBack } := by
  unfold Block.freeEntry
  rw [he]
  rfl

theorem Block.waitingAgain_found {b : Block} {k : EntryKey} {e : Entry} (he : b.repair.find k = some e) : b.waitingAgain k =
    { b with
      store := b.store.repairReturn k.slot k.frame
      repair := ((b.repair.freeAll (e.extents.getD [])).upd k Entry.givenBack).upd k Entry.inWaiting } := by
  unfold Block.waitingAgain
  rw [Block.freeEntry_found he]
  rfl

theorem RepairEngine.find_freeAll (r : RepairEngine) (extents : List Nat) (k : EntryKey) : (r.freeAll extents).find k = r.find k := rfl

theorem Store.repairReturn_record (st : Store) (k : Fin 16) (n : Nat) : (st.repairReturn k n).record k n =
    (st.record k n).map (fun r => if r.state = .inRepair then { r with state := .suspect, detail := none } else r) :=
  Store.record_updRecord _ _ _ _

/-- Settles O48: each unit's branches, the verdicts of a repair step, and the entry that goes back to WAITING. -/
theorem frameEnds : Obligations.FrameEnds := by
  refine ⟨fun s l session body crc f id k => ?units, fun b l k e r length res he hr hl => ?steps, fun b k e he => Block.sourceFailed_found he, fun b k e he => ?waiting⟩
  case units =>
    intro ln malformed hears comes drains hx
    have heard : ∀ {α : Type} {type : Byte} {parsed : Option α} {x : α} (g : α → Block → Block), hears type → parsed = some x →
        s.event (Block.sessionUnit type l session body crc parsed g) = .next (s.after (g x s.blk)) := fun g hh hp => by
      rw [State.event_live hh.live, Block.sessionUnit_heard hh hp]
    have comes_of : ∀ {answer res}, answer = .next (s.after (s.blk.frameResult l f.fetched res)) → comes answer res := fun ha =>
      ⟨fun ho => by rw [ha, Block.frameResult_campaign ho], fun ho => by rw [ha, Block.frameResult_entry ho]⟩
    have drains_of : ∀ {answer}, answer = .next (s.after (s.blk.drainEnds l)) → drains answer := fun ha =>
      ⟨fun ho => by rw [ha, Block.drainEnds_campaign ho], fun ho => by rw [ha, Block.drainEnds_entry ho]⟩
    refine ⟨fun hh hb => ?_, fun n reason hh hp => ?_, fun n hh hp => ?_⟩
    · have answer : exec (.endUnit l session body crc) s = _ := heard (Block.endTaken l) hh (by rw [hb]; rfl : parseEmpty body = some ())
      rw [Block.endTaken_frame hx] at answer
      refine ⟨fun hf => ?_, fun u hf hu => comes_of ?_, fun hf => drains_of ?_⟩
      · rw [answer, hf]
      · rw [answer, hf, ← Pool.result_of_held hu]
      · rw [answer, hf]
    · have answer : exec (.fault l session body crc) s = _ := heard (Block.faultTaken l) hh hp
      refine ⟨fun u hf hn hu => comes_of ?_, fun hf hn => ?_, fun hf hn => drains_of ?_, fun hf hn hd => ?_⟩
      · rw [answer, Block.faultTaken_live hx hf, if_pos hn, Pool.receivedBy_of_held hu]
      · rw [answer, Block.faultTaken_live hx hf, if_neg hn]
      · rw [answer, Block.faultTaken_draining hx hf, if_pos ((f.names_iff n).2 hn)]
      · rw [answer, Block.faultTaken_draining hx hf, if_neg fun h => ((f.names_iff n).1 h).elim hn hd]
    · have answer : exec (.notFound l session body crc) s = _ := heard (Block.notFoundTaken l) hh hp
      rw [Block.notFoundTaken_frame hx] at answer
      unfold Block.frameMissing at answer
      refine ⟨fun u hf hn hu => comes_of ?_, fun hf hn => ?_, fun hf => ?_, fun hf hn => drains_of ?_⟩
      · rw [answer, hf, ← Pool.receivedBy_of_held hu]
        exact congrArg (fun x => Host.Outcome.next (s.after x)) (if_pos hn)
      · rw [answer, hf]
        exact congrArg (fun x => Host.Outcome.next (s.after x)) (if_neg hn)
      · rw [answer, hf]
      · rw [answer, hf]
        exact congrArg (fun x => Host.Outcome.next (s.after x)) (if_pos ((f.names_iff n).2 hn))
  case steps =>
    intro v after acts
    have expects := Store.expects_of hr hl
    refine ⟨fun hp => ?_, fun hp => ?_⟩
    · have result := Block.repairResult_fetching he hp l res
      rw [expects] at result
      refine ⟨fun hv => ?_, fun hv => ?_, fun hv => ?_⟩
      · rw [show verdictOf _ _ _ = _ from hv] at result
        exact result
      · rcases hv with hv | hv
        · rw [show verdictOf _ _ _ = _ from hv] at result
          exact result
        · rw [show verdictOf _ _ _ = _ from hv] at result
          exact result
      · rw [show verdictOf _ _ _ = _ from hv] at result
        exact result
    · have result := Block.repairResult_readback he hp l res
      rw [expects] at result
      exact ⟨fun hv => result.trans (if_pos hv), fun hv => result.trans (if_neg hv)⟩
  case waiting =>
    refine ⟨b.waitingAgain k, Block.entryToWaiting_eq b k, ?_⟩
    rw [Block.waitingAgain_found he]
    refine ⟨?_, fun j hj => ?_, ?_, ?_, fun hsorted => ?_, ?_, rfl, rfl, rfl, rfl⟩
    · dsimp only
      rw [RepairEngine.find_upd _ _ Entry.inWaiting fun _ => rfl, RepairEngine.find_upd _ _ Entry.givenBack fun _ => rfl, RepairEngine.find_freeAll, he]
      rfl
    · dsimp only
      rw [RepairEngine.find_upd_ne _ hj (f := Entry.inWaiting) fun _ => rfl, RepairEngine.find_upd_ne _ hj (f := Entry.givenBack) fun _ => rfl,
        RepairEngine.find_freeAll]
    · exact (RepairEngine.keys_upd _ k (f := Entry.inWaiting) fun _ => rfl).trans (RepairEngine.keys_upd _ k (f := Entry.givenBack) fun _ => rfl)
    · exact foldr_insertAscending_perm _ _
    · exact foldr_insertAscending_pairwise hsorted _
    · exact Store.repairReturn_record _ _ _

end Sys2Proof.Machine
end

section
/-! SUPPORT. The grant of a digest unit and the work arbiter's turn (R31, R57, R98, R101, R102, R107, R109, R158). -/
namespace Sys2Proof.Machine

/-! ## Changes of one lane -/

/-- A change of a lane is given by what it makes of that lane. -/
theorem Block.updLane_congr {b : Block} {l : Fin 8} {f g : Lane → Lane} (h : f (b.lane l) = g (b.lane l)) : b.updLane l f = b.updLane l g :=
  congrArg (fun x => ({ b with lanes := b.lanes.set l.val x l.isLt } : Block)) h

section
variable (b : Block) (l : Fin 8)

/-- FETCH sent, as one change of the lane (R75). -/
theorem Block.fetch_eq (frame : Nat) : b.fetch l frame = b.updLane l (fun ln => { ln with
    exchange := .frame { phase := .awaitingMark, fetched := frame, delivered := none, announced := none, soFar := 0 }
    stallTimer := some (b.clock + (b.lane l).settings.stallLimit * 500000), sent := ln.sent ++ [.fetch (b.lane l).sessionNumber frame] }) := by
  unfold Block.fetch Block.startStall Block.send
  rw [Block.updLane_updLane, Block.updLane_updLane]
  exact Block.updLane_congr rfl

/-- OPEN sent on a lane engaged with an item, as one change of the lane (R44, R52, R55, R71). -/
theorem Block.engage_openSpan (item : ItemKind) (kind : SessionKind) (owner : Owner) (m : Manifest) : (b.engage l item owner).openSpan l kind owner m =
    b.updLane l (fun ln => { ln with
      state := .engaged, item := some { kind := item, owner := owner }, exchange := .opening
      stallTimer := some (b.clock + (b.lane l).settings.stallLimit * 500000)
      session := some { number := (b.lane l).nextSession, kind := kind, span := some (m.reel, m.span), owner := owner }
      nextSession := nextNumber (b.lane l).nextSession, sent := ln.sent ++ [.openSpan (b.lane l).nextSession m.reel m.span] }) := by
  unfold Block.engage Block.openSpan Block.openSession Block.startStall Block.send
  rw [Block.lane_updLane_self, Block.updLane_updLane, Block.updLane_updLane, Block.updLane_updLane, Block.updLane_updLane]
  exact Block.updLane_congr rfl

/-- CLOSE sent on a lane engaged with an item, as one change of the lane (R107). -/
theorem Block.closeSpan_eq (c : Campaign) : b.closeSpan l c = (b.updCampaign c.id (fun x => { x with state := .closing })).updLane l (fun ln => { ln with
    state := .engaged, item := some { kind := .campaignAction, owner := .campaign c.id }, exchange := .closing
    stallTimer := some (b.clock + (b.lane l).settings.stallLimit * 500000), sent := ln.sent ++ [.close (b.lane l).sessionNumber] }) := by
  unfold Block.closeSpan Block.engage Block.startStall Block.send
  dsimp only
  rw [Block.lane_updLane_self, Block.updLane_updLane, Block.updLane_updLane, Block.updLane_updLane]
  exact Block.updLane_congr rfl

theorem Block.haltSession_repair : (b.haltSession l).repair = b.repair := by
  unfold Block.haltSession; split <;> rfl

theorem Block.haltSession_sched : (b.haltSession l).sched = b.sched := by
  unfold Block.haltSession; split <;> rfl

theorem Block.haltSession_clock : (b.haltSession l).clock = b.clock := by
  unfold Block.haltSession; split <;> rfl

variable (st : CampaignState)

/-- The head's change of state touches nothing but the scheduler. -/
theorem Block.headTo_eq : b.headTo l st = { b with sched := (b.headTo l st).sched } := by
  unfold Block.headTo
  split
  · split <;> rfl
  · rfl

theorem Block.headTo_none {b : Block} {l : Fin 8} (h : b.sched.head l = none) : b.headTo l st = b := by
  unfold Block.headTo
  rw [h]

end

/-! ## The arbiter's branches (R57, R98, R102, R107, R109, R158, R182) -/

section
variable {b : Block} {l : Fin 8} (hr : (b.lane l).state = .ready) (hi : (b.lane l).item = none)
include hr hi

/-- A READY lane without keep-alive is put down in HELD (R182). -/
theorem Block.arbiter_held (h : ¬(b.duty.mode = .held → (b.lane l).settings.keepAlive = true)) : b.arbiter l = b.putDownByHold l false := by
  have held : b.duty.mode = .held ∧ (b.lane l).settings.keepAlive = false := by simpa using h
  unfold Block.arbiter
  rw [if_pos ⟨hr, hi⟩, if_pos held]

variable (hs : b.duty.mode = .held → (b.lane l).settings.keepAlive = true)
include hs

theorem Block.arbiter_step {e : Entry} (he : b.pendingStep l = some e) : b.arbiter l = b.startStep l e := by
  unfold Block.arbiter
  rw [if_pos ⟨hr, hi⟩, if_neg fun ⟨hm, hk⟩ => Bool.false_ne_true (hk.symm.trans (hs hm)), he]

variable (hp : b.pendingStep l = none)
include hp

/-- No step is pending and no campaign may run: nothing is done. -/
theorem Block.arbiter_none (h : b.sched.head l = none ∨ b.duty.mayRun l = false) : b.arbiter l = b := by
  unfold Block.arbiter
  rw [if_pos ⟨hr, hi⟩, if_neg fun ⟨hm, hk⟩ => Bool.false_ne_true (hk.symm.trans (hs hm)), hp]
  dsimp only
  cases hh : b.sched.head l with
  | none => rfl
  | some c => exact if_neg (by rw [h.resolve_left (by rw [hh]; exact Option.some_ne_none c)]; exact Bool.false_ne_true)

theorem Block.arbiter_campaign {c : Campaign} (hh : b.sched.head l = some c) (hm : b.duty.mayRun l = true) : b.arbiter l = b.campaignTurn l c := by
  unfold Block.arbiter
  rw [if_pos ⟨hr, hi⟩, if_neg fun ⟨hm, hk⟩ => Bool.false_ne_true (hk.symm.trans (hs hm)), hp]
  dsimp only
  rw [hh]
  exact if_pos hm

end

theorem Block.campaignTurn_waiting {b : Block} {c : Campaign} {m : Manifest} (hc : c.state = .waiting) (hm : b.store.manifest c.slot = some m) (l : Fin 8) :
    b.campaignTurn l c =
      ((b.updCampaign c.id (fun x => { x with state := .opening })).engage l .campaignAction (.campaign c.id)).openSpan l .campaign (.campaign c.id) m := by
  unfold Block.campaignTurn
  rw [hc]
  dsimp only
  unfold Block.openCampaign
  rw [hm]

theorem Block.campaignTurn_past {b : Block} {c : Campaign} (hc : c.state = .running) (hp : c.resumePoint = none) (l : Fin 8) :
    b.campaignTurn l c = b.closeSpan l c := by
  unfold Block.campaignTurn
  rw [hc]
  dsimp only
  rw [hp]

theorem Block.campaignTurn_frame {b : Block} {c : Campaign} {frame : Nat} (hc : c.state = .running) (hp : c.resumePoint = some frame) (l : Fin 8) :
    b.campaignTurn l c = if b.gateOpen l then b.claimFrame l c frame else b := by
  unfold Block.campaignTurn
  rw [hc]
  dsimp only
  rw [hp]

theorem Block.gateOpen_iff (b : Block) (l : Fin 8) : b.gateOpen l = true ↔ ∀ t, (b.lane l).gate = some t → t ≤ b.clock := by
  unfold Block.gateOpen
  cases (b.lane l).gate with
  | none => simp
  | some t => simp

/-- The block as a step of the Repair Engine leaves the lane's session and the head, before it opens its own. -/
def Block.madeWay (b : Block) (l : Fin 8) : Block := (b.haltSession l).headTo l .waiting

theorem Block.madeWay_lane (b : Block) (l : Fin 8) : (b.madeWay l).lane l = (b.haltSession l).lane l := by
  unfold Block.madeWay
  rw [Block.headTo_eq]
  rfl

theorem Block.madeWay_repair (b : Block) (l : Fin 8) : (b.madeWay l).repair = b.repair := by
  unfold Block.madeWay
  rw [Block.headTo_eq]
  exact Block.haltSession_repair b l

theorem Block.madeWay_clock (b : Block) (l : Fin 8) : (b.madeWay l).clock = b.clock := by
  unfold Block.madeWay
  rw [Block.headTo_eq]
  exact Block.haltSession_clock b l

theorem Block.startStep_eq {b : Block} {e : Entry} {m : Manifest} (hm : b.store.manifest e.key.slot = some m) (l : Fin 8) : b.startStep l e =
    (((b.madeWay l).engage l .repairStep (.entry e.key)).openSpan l .repair (.entry e.key) m).updEntry e.key (fun x =>
      { x with stepLane := some l, phase := if x.phase = .staged then .rewriting else x.phase }) := by
  unfold Block.startStep
  rw [hm]
  rfl

/-! ## The grants (R31, R32, R102) -/

theorem Pool.freeUnit_lowest {p : Pool} {i : Fin 4} (h : p.units[i] = none) (hj : ∀ j, j < i → p.units[j] ≠ none) : p.freeUnit = some i :=
  find_allFour (by rw [h]; rfl) fun j hlt => Option.isNone_eq_false_iff.2 (Option.isSome_iff_ne_none.2 (hj j hlt))

/-- While a unit is FREE the head claim is granted before an arbiter acts (R31). -/
theorem Block.settleFrom_grants {b : Block} {i : Fin 4} {c : Claim} {rest : List Claim} (hu : b.pool.freeUnit = some i) (hf : b.pool.fifo = c :: rest)
    (turns : Nat) : Block.settleFrom (turns + 1) b = Block.settleFrom turns (b.grant i c rest) := by
  rw [Block.settleFrom, hu, hf]

/-- The block when the head claim has taken a unit, before its owner acts. -/
def Block.unitTaken (b : Block) (i : Fin 4) (c : Claim) (rest : List Claim) : Block :=
  b.updPool (fun p => ({ p with fifo := rest }).setUnit i (some { claim := c, running := false, received := 0, remainder := l64Start }))

theorem Block.grant_entry {c : Claim} {k : EntryKey} (h : c.owner = .entry k) (b : Block) (i : Fin 4) (rest : List Claim) :
    b.grant i c rest = (b.unitTaken i c rest).fetch c.lane c.frame := by
  unfold Block.grant
  rw [h]
  rfl

theorem Block.grant_campaign {c : Claim} {id : Nat} (h : c.owner = .campaign id) (b : Block) (i : Fin 4) (rest : List Claim) :
    b.grant i c rest = (b.unitTaken i c rest).campaignGranted c id := by
  unfold Block.grant
  rw [h]
  rfl

theorem Store.visitGranted_of {st : Store} {k : Fin 16} {n : Nat} {r : FrameRecord} (h : st.record k n = some r) :
    st.visitGranted k n = true ↔ r.state ≠ .inRepair := by
  unfold Store.visitGranted
  rw [h]
  simp

/-- A visit is granted on a record that is not IN_REPAIR (R20). -/
theorem Store.visitGranted_iff {st : Store} {k : Fin 16} {n : Nat} : st.visitGranted k n = true ↔ ∃ r, st.record k n = some r ∧ r.state ≠ .inRepair := by
  unfold Store.visitGranted
  cases st.record k n with
  | none => simp
  | some r => simp

/-! ## The skip of a run of IN_REPAIR records (R101) -/

/-- The resume point after a number of steps, or PAST (R93). -/
def Campaign.pointAfter (d : Campaign) (first n : Nat) : Option Nat := if first + n * d.step ≤ d.windowLast then some (first + n * d.step) else none

/-- The campaign when a number of frames have been skipped from a resume point. -/
def Campaign.skipped (d : Campaign) (first n : Nat) : Campaign :=
  { d with resumePoint := d.pointAfter first n, frameRestarts := 0, counts := { d.counts with skipped := d.counts.skipped + n } }

section
variable {d : Campaign} {first : Nat} (hstep : 0 < d.step)
include hstep

theorem Campaign.skip_first (h : d.resumePoint = some first) : d.skip = d.skipped first 1 := by
  unfold Campaign.skip Campaign.advance Campaign.skipped Campaign.pointAfter
  rw [h]
  simp [hstep]

theorem Campaign.skip_skipped {n : Nat} {p : Nat} (h : d.pointAfter first n = some p) : (d.skipped first n).skip = d.skipped first (n + 1) := by
  have at_p : first + n * d.step = p ∧ p ≤ d.windowLast := by
    unfold Campaign.pointAfter at h
    split at h
    · next hle => exact ⟨Option.some.inj h, Option.some.inj h ▸ hle⟩
    · cases h
  have next : first + (n + 1) * d.step = p + d.step := by rw [Nat.succ_mul]; omega
  unfold Campaign.skip Campaign.advance Campaign.skipped
  simp only [h]
  unfold Campaign.pointAfter
  rw [next]
  simp [hstep, Nat.add_assoc]

/-- With fuel for every frame to visit, the run ends at PAST or at a frame whose visit is granted, and every frame it passed was refused. -/
theorem Campaign.skipRun_skipped (st : Store) : ∀ (fuel n : Nat), (∀ p, d.pointAfter first n = some p → framesFrom p d.windowLast d.step ≤ fuel) →
    ∃ m, n ≤ m ∧ Campaign.skipRun st fuel (d.skipped first n) = d.skipped first m ∧
      (∀ j f, n ≤ j → j < m → d.pointAfter first j = some f → st.visitGranted d.slot f = false) ∧
      (∀ f, d.pointAfter first m = some f → st.visitGranted d.slot f = true)
  | 0, n, h => by
    refine ⟨n, Nat.le_refl n, rfl, fun j f h1 h2 => absurd h2 (Nat.not_lt.2 h1), fun p hp => ?_⟩
    have past := h p hp
    unfold Campaign.pointAfter at hp
    split at hp
    · next hle =>
      cases hp
      unfold framesFrom at past
      rw [if_pos hle] at past
      exact absurd past (Nat.not_succ_le_zero _)
    · cases hp
  | fuel + 1, n, h => by
    have point : (d.skipped first n).resumePoint = d.pointAfter first n := rfl
    unfold Campaign.skipRun
    rw [point]
    cases hp : d.pointAfter first n with
    | none => exact ⟨n, Nat.le_refl n, rfl, fun j f h1 h2 => absurd h2 (Nat.not_lt.2 h1), fun f hf => by rw [hp] at hf; cases hf⟩
    | some p =>
      dsimp only
      by_cases hg : st.visitGranted d.slot p = true
      · refine ⟨n, Nat.le_refl n, if_pos hg, fun j f h1 h2 => absurd h2 (Nat.not_lt.2 h1), fun f hf => ?_⟩
        rw [hp] at hf
        cases hf
        exact hg
      · rw [if_neg (show ¬st.visitGranted (d.skipped first n).slot p = true from hg), Campaign.skip_skipped hstep hp]
        obtain ⟨m, hle, run, refused, stops⟩ := Campaign.skipRun_skipped st fuel (n + 1) fun q hq => by
          have shorter := h p hp
          unfold Campaign.pointAfter at hp hq
          split at hp
          · split at hq
            · next hlq =>
              cases hp
              cases hq
              have next : first + (n + 1) * d.step = first + n * d.step + d.step := by rw [Nat.succ_mul]; omega
              unfold framesFrom at shorter ⊢
              rw [if_pos (by assumption)] at shorter
              rw [if_pos hlq]
              rw [next] at hlq ⊢
              have drop : (d.windowLast - (first + n * d.step)) / d.step = (d.windowLast - (first + n * d.step + d.step)) / d.step + 1 := by
                rw [show d.windowLast - (first + n * d.step) = d.windowLast - (first + n * d.step + d.step) + d.step by omega, Nat.add_div_right _ hstep]
              omega
            · cases hq
          · cases hp
        refine ⟨m, by omega, run, fun j f h1 h2 hf => ?_, stops⟩
        by_cases hjn : j = n
        · rw [hjn, hp] at hf
          cases hf
          exact Bool.eq_false_iff.2 hg
        · exact refused j f (by omega) h2 hf

end

/-- A visit refused (R32, R101): the unit is released, the lane is READY again, and the frame is skipped with the run behind it. -/
theorem Block.campaignGranted_refused {b : Block} {c : Claim} {id : Nat} {d : Campaign} {first : Nat} (hv : b.store.visitGranted c.slot c.frame = false)
    (hd : b.campaign id = some d) (hp : d.resumePoint = some first) : b.campaignGranted c id =
      (((b.updPool (fun p => p.release c.lane)).updCampaign id Campaign.skip).toReady c.lane).chooseNext id := by
  unfold Block.campaignGranted
  rw [hv]
  refine (if_neg Bool.false_ne_true).trans (if_pos ?_)
  rw [show (b.updPool (fun p => p.release c.lane)).campaign id = some d from hd]
  simp [hp]

theorem Block.campaignGranted_visits {b : Block} {c : Claim} (hv : b.store.visitGranted c.slot c.frame = true) (id : Nat) : b.campaignGranted c id =
    ((b.updStore (fun st => st.markVisiting c.slot c.frame)).notePacing c.lane).fetch c.lane c.frame := by
  unfold Block.campaignGranted
  rw [if_pos hv]

theorem Block.mem_ask (b : Block) (l : Fin 8) : l ∈ (b.ask l).asks := by
  unfold Block.ask
  split
  · assumption
  · simp

/-- A lane back in READY has its arbiter asked, and nothing else is changed. -/
theorem Block.toReady_rest (b : Block) (l : Fin 8) :
    ∃ ls, b.toReady l = { b.updLane l (fun ln => { ln with state := .ready, item := none }) with asks := ls } ∧ l ∈ ls := by
  obtain ⟨ls, asked⟩ := Block.ask_rest (b.updLane l (fun ln => { ln with state := .ready, item := none })) l
  refine ⟨ls, asked, ?_⟩
  have mem := Block.mem_ask (b.updLane l (fun ln => { ln with state := .ready, item := none })) l
  rw [asked] at mem
  exact mem

/-- In RUNNING the next action is chosen from the resume point, over the run of IN_REPAIR records there (R101). -/
theorem Block.chooseNext_campaign {b : Block} {id : Nat} {c : Campaign} (hc : b.campaign id = some c) (hs : c.state = .running) :
    (b.chooseNext id).campaign id = some (c.skipRun b.store c.stillToVisit) := by
  unfold Block.chooseNext
  rw [Block.campaign_updCampaign _ _ _ _ fun c => ?_, if_pos rfl, hc]
  · exact congrArg some (if_pos hs)
  · split
    · exact Campaign.skipRun_id _ _ _
    · rfl

/-- Settles O60: the arbiter branch by branch, and the grant by the claim's owner and the visit claim. -/
theorem arbiterTakesTurn : Obligations.ArbiterTakesTurn := by
  refine ⟨fun b l => ?arbiter, fun b c rest i turns hfifo hfree hlow => ?grant⟩
  case arbiter =>
    dsimp only
    refine ⟨fun h => if_neg h, fun hr hi => ⟨Block.arbiter_held hr hi, fun e m hs he hm => ?_, Block.arbiter_none hr hi,
      fun c hs hp hh hm => ⟨fun m hc hman => ?_, fun hc hpast => ?_, fun frame hc hf => ?_⟩⟩⟩
    · rw [Block.arbiter_step hr hi hs he, Block.startStep_eq hm, Block.engage_openSpan]
      refine ⟨?_, ?_, fun hh => ?_, fun c hh hc => ?_⟩
      · rw [Block.updEntry_lane, Block.lane_updLane_self, Block.madeWay_lane, Block.madeWay_clock, Block.haltSession_lane]
        rfl
      · rw [Block.updEntry_repair, Block.updLane_repair, Block.madeWay_repair]
      · rw [Block.updEntry_sched, Block.updLane_sched]
        unfold Block.madeWay
        rw [Block.headTo_none _ (by rw [Block.haltSession_sched]; exact hh), Block.haltSession_sched]
      · have told := Block.headTo_campaign (b.haltSession l) l .waiting c (by rw [Block.haltSession_sched]; exact hh)
          (by unfold Block.campaign; rw [Block.haltSession_sched]; exact hc)
        refine ⟨told.1, fun id hid => (told.2 id hid).trans ?_⟩
        unfold Block.campaign
        rw [Block.haltSession_sched]
    · rw [Block.arbiter_campaign hr hi hs hp hh hm, Block.campaignTurn_waiting hc hman, Block.engage_openSpan]
      rfl
    · rw [Block.arbiter_campaign hr hi hs hp hh hm, Block.campaignTurn_past hc hpast, Block.closeSpan_eq]
      rfl
    · rw [Block.arbiter_campaign hr hi hs hp hh hm, Block.campaignTurn_frame hc hf]
      exact ⟨fun ho => if_neg (mt (b.gateOpen_iff l).1 ho), fun ho => if_pos ((b.gateOpen_iff l).2 ho)⟩
  case grant =>
    intro l limit unit granted frame fetching after
    have taken : b.unitTaken i c rest = granted := rfl
    refine ⟨Block.settleFrom_grants (Pool.freeUnit_lowest hfree hlow) hfifo turns, fun k hk => ?_, fun id r ho hr => ⟨fun hs => ?_, fun d first hs hd hrun hp hstep => ?_⟩⟩
    · refine (Block.grant_entry hk b i rest).trans ?_
      rw [taken, Block.fetch_eq]
      exact Block.updLane_congr rfl
    · refine (Block.grant_campaign ho b i rest).trans ((Block.campaignGranted_visits (b := granted) ((Store.visitGranted_of hr).2 hs) id).trans ?_)
      rw [Block.fetch_eq]
      unfold Block.notePacing
      rw [Block.updLane_updLane, Block.lane_updLane_self]
      exact Block.updLane_congr rfl
    · have refused : b.store.visitGranted c.slot c.frame = false := Bool.eq_false_iff.2 fun hg => (Store.visitGranted_of hr).1 hg hs
      have owner : after = _ := (Block.grant_campaign ho b i rest).trans (Block.campaignGranted_refused (d := d) refused hd hp)
      rw [taken] at owner
      obtain ⟨n, hle, run, passed, stops⟩ := Campaign.skipRun_skipped hstep b.store (d.skipped first 1).stillToVisit 1 fun p hp => by
        unfold Campaign.stillToVisit
        rw [show (d.skipped first 1).resumePoint = some p from hp]
        exact Nat.le_refl _
      obtain ⟨ls, ready, asked⟩ := Block.toReady_rest ((granted.updPool (fun p => p.release l)).updCampaign id Campaign.skip) l
      rw [ready] at owner
      refine ⟨n, hle, ?_, ?_, ?_, ?_, ?_, ?_, ?_, ?_, fun j f h1 h2 hf x hx => ?_, fun f hf => Store.visitGranted_iff.1 (stops f hf)⟩
      · rw [owner, Block.chooseNext_campaign (c := d.skipped first 1) ?_ hrun]
        · exact congrArg some run
        · refine (Scheduler.find_upd _ _ _ Campaign.skip_id).trans ?_
          rw [show (granted.updPool (fun p => p.release l)).sched.find id = some d from hd, ← Campaign.skip_first hstep hp]
          rfl
      · rw [owner]; rfl
      · rw [owner]; rfl
      · rw [owner]; rfl
      · rw [owner]; rfl
      · rw [owner]; rfl
      · rw [owner]; rfl
      · rw [owner]; exact asked
      · exact of_not_not fun hne => Bool.false_ne_true ((passed j f h1 h2 hf).symm.trans (Store.visitGranted_iff.2 ⟨x, hx, hne⟩))

end Sys2Proof.Machine
end

section
/-! SUPPORT. RESTART ENGINE (R27, R70, R91, R178, R196, R207, R208). -/
namespace Sys2Proof.Machine

/-! ## One change for each lane, and for each slot -/

theorem allLanes_eq : allLanes = List.finRange 8 := by decide

theorem allSlots_eq : allSlots = List.finRange 16 := by decide

theorem mem_allLanes (l : Fin 8) : l ∈ allLanes := by rw [allLanes_eq]; exact List.mem_finRange l

theorem mem_allSlots (k : Fin 16) : k ∈ allSlots := by rw [allSlots_eq]; exact List.mem_finRange k

theorem allLanes_nodup : allLanes.Nodup := by rw [allLanes_eq]; exact List.nodup_finRange 8

theorem allSlots_nodup : allSlots.Nodup := by rw [allSlots_eq]; exact List.nodup_finRange 16

/-- A change that keeps `I` and concerns one lane, made for each lane once, makes of each lane what it makes of that lane alone. -/
theorem foldl_lanes {g : Block → Fin 8 → Block} {I : Block → Prop} {R : Fin 8 → Lane → Lane → Prop} (keeps : ∀ b l, I b → I (g b l))
    (others : ∀ b l j, I b → j ≠ l → (g b l).lane j = b.lane j) (makes : ∀ b l, I b → R l (b.lane l) ((g b l).lane l)) :
    ∀ (ls : List (Fin 8)) (b : Block), ls.Nodup → I b → I (ls.foldl g b) ∧
      ∀ l, (l ∉ ls → (ls.foldl g b).lane l = b.lane l) ∧ (l ∈ ls → R l (b.lane l) ((ls.foldl g b).lane l))
  | [], b, _, hI => ⟨hI, fun _ => ⟨fun _ => rfl, fun h => absurd h List.not_mem_nil⟩⟩
  | j :: ls, b, hn, hI => by
    obtain ⟨fresh, rest⟩ := List.nodup_cons.1 hn
    obtain ⟨hI', each⟩ := foldl_lanes keeps others makes ls (g b j) rest (keeps b j hI)
    refine ⟨hI', fun l => ⟨fun h => ?_, fun h => ?_⟩⟩
    · obtain ⟨hj, hls⟩ := not_or.1 (mt List.mem_cons.2 h)
      exact ((each l).1 hls).trans (others b j l hI hj)
    · by_cases hj : l = j
      · subst hj
        have made := makes b l hI
        rw [← (each l).1 fresh] at made
        exact made
      · have made := (each l).2 ((List.mem_cons.1 h).resolve_left hj)
        rw [others b j l hI hj] at made
        exact made

/-! ## The lanes (R70, R189) -/

theorem Pool.reset_withdraw (l : Fin 8) : Pool.reset.withdraw l = Pool.reset := rfl

theorem Pool.reset_release (l : Fin 8) : Pool.reset.release l = Pool.reset := by
  have units : ∀ i : Fin 4, Pool.reset.units[i] = none := by decide
  unfold Pool.release
  rw [show Pool.reset.unitOf l = none from find_allFour_none fun i => by rw [units i]]

/-- With the digest units and claims gone, ending an exchange changes lanes and asks alone. -/
theorem Block.dropExchange_reset {b : Block} (h : b.pool = Pool.reset) (l : Fin 8) :
    b.dropExchange l = { b with lanes := (b.dropExchange l).lanes, asks := (b.dropExchange l).asks } := by
  obtain ⟨lanes, pool, asks, e⟩ := Block.dropExchange_rest b l
  have units : pool = b.pool := by
    have := Block.dropExchange_pool b l
    rw [e, h, Pool.reset_withdraw, Pool.reset_release] at this
    exact this.trans h.symm
  rw [e, units]

theorem Block.haltSession_eq (b : Block) (l : Fin 8) : b.haltSession l = { b with lanes := (b.haltSession l).lanes } := by
  unfold Block.haltSession
  split <;> rfl

/-- What a lane is after its part of RESTART ENGINE, by its state (R70); its pacing record is absent (R189). -/
structure Lane.RestartsTo (ln ln' : Lane) : Prop where
  settings : ln'.settings = ln.settings
  restarts : ln'.restarts = 0
  pacing   : ln'.pacing = none
  gate     : ln'.gate = none
  next     : ln'.nextSession = ln.nextSession
  byHold   : ln'.putDownByHold = ln.putDownByHold
  free     : ln.state = .engaged ∨ ln.state = .calibrating ∨ (ln.state = .ready ∧ ln.item = none) → ln'.state = .ready ∧ ln'.item = none ∧ ln'.session = none
  lent     : ln.state = .yielding → ln'.state = .lent ∧ ln'.resumeTarget = some .ready ∧ ln'.session = none
  away     : ln.state = .off ∨ ln.state = .settling ∨ ln.state = .lent ∨ ln.state = .stalled → ln' = { ln with restarts := 0, pacing := none, gate := none }

/-- The lane's own part of RESTART ENGINE, before its counts and pacing are cleared. -/
def Block.restartLaneLeaves (b : Block) (l : Fin 8) : Block :=
  match (b.lane l).state with
  | .engaged => ((b.dropExchange l).haltSession l).updLane l (fun ln => { ln with state := .ready, item := none })
  | .calibrating => ((b.dropExchange l).haltSession l).updLane l (fun ln => { ln with state := .ready, item := none })
  | .yielding => ((b.dropExchange l).haltSession l).becomeLent l .ready
  | .ready => b.haltSession l
  | .off => b
  | .settling => b
  | .lent => b
  | .stalled => b

theorem Block.restartLaneState_eq (b : Block) (l : Fin 8) : b.restartLaneState l =
    (b.restartLaneLeaves l).updLane l (fun ln => { ln with restarts := 0, pacing := none, gate := none }) := by
  unfold Block.restartLaneState Block.restartLaneLeaves
  cases (b.lane l).state <;> rfl

/-- With its exchange and its session ended the lane is idle and out of session. -/
theorem Block.dropHalt_lane (b : Block) (l : Fin 8) : ∃ sent pacing gate, ((b.dropExchange l).haltSession l).lane l =
    { b.lane l with session := none, exchange := .idle, stallTimer := none, sent := sent, pacing := pacing, gate := gate } := by
  rw [Block.haltSession_lane, Block.dropExchange_lane]
  exact ⟨_, _, _, rfl⟩

theorem Block.restartLaneState_lane (b : Block) (l : Fin 8) : (b.lane l).RestartsTo ((b.restartLaneState l).lane l) := by
  rw [Block.restartLaneState_eq, Block.lane_updLane_self]
  unfold Block.restartLaneLeaves
  obtain ⟨sent, pacing, gate, dropped⟩ := Block.dropHalt_lane b l
  cases hs : (b.lane l).state
  case engaged => simp only [Block.lane_updLane_self, dropped]; constructor <;> simp [hs]
  case calibrating => simp only [Block.lane_updLane_self, dropped]; constructor <;> simp [hs]
  case yielding => simp only [Block.becomeLent_eq, Block.lane_updLane_self, dropped, Lane.lentTo]; constructor <;> simp [hs]
  case ready => simp only [Block.haltSession_lane]; constructor <;> simp_all
  all_goals constructor <;> simp [hs]

theorem Block.restartLaneState_ne (b : Block) {l j : Fin 8} (h : j ≠ l) : (b.restartLaneState l).lane j = b.lane j := by
  rw [Block.restartLaneState_eq, Block.lane_updLane_ne _ _ h]
  have dropped : ((b.dropExchange l).haltSession l).lane j = b.lane j := by
    rw [Block.haltSession_lane_ne _ h, Block.dropExchange_lane_ne _ h]
  unfold Block.restartLaneLeaves
  cases (b.lane l).state
  case engaged => exact (Block.lane_updLane_ne _ _ h).trans dropped
  case calibrating => exact (Block.lane_updLane_ne _ _ h).trans dropped
  case yielding => dsimp only; rw [Block.becomeLent_eq]; exact (Block.lane_updLane_ne _ _ h).trans dropped
  case ready => exact Block.haltSession_lane_ne _ h
  all_goals rfl

/-- A block that another differs from in its lanes and asks alone. -/
def Block.Relaned (a b : Block) : Prop := b = { a with lanes := b.lanes, asks := b.asks }

theorem Block.Relaned.refl (b : Block) : b.Relaned b := rfl

theorem Block.Relaned.trans {a b c : Block} (h : a.Relaned b) (k : b.Relaned c) : a.Relaned c := by
  unfold Block.Relaned at h k ⊢
  rw [k, h]

theorem Block.Relaned.pool {a b : Block} (h : a.Relaned b) : b.pool = a.pool := by
  unfold Block.Relaned at h
  rw [h]

theorem Block.relaned_updLane (b : Block) (l : Fin 8) (f : Lane → Lane) : b.Relaned (b.updLane l f) := rfl

theorem Block.relaned_dropHalt {b : Block} (h : b.pool = Pool.reset) (l : Fin 8) : b.Relaned ((b.dropExchange l).haltSession l) :=
  Block.Relaned.trans (b := b.dropExchange l) (Block.dropExchange_reset h l) (by
    unfold Block.Relaned
    rw [Block.haltSession_eq])

theorem Block.relaned_restartLaneState {b : Block} (h : b.pool = Pool.reset) (l : Fin 8) : b.Relaned (b.restartLaneState l) := by
  rw [Block.restartLaneState_eq]
  refine Block.Relaned.trans ?_ (Block.relaned_updLane _ _ _)
  have dropped := Block.relaned_dropHalt h l
  unfold Block.restartLaneLeaves
  cases (b.lane l).state
  case engaged => exact dropped.trans (Block.relaned_updLane _ _ _)
  case calibrating => exact dropped.trans (Block.relaned_updLane _ _ _)
  case yielding => dsimp only; rw [Block.becomeLent_eq]; exact dropped.trans (Block.relaned_updLane _ _ _)
  case ready => dsimp only; unfold Block.Relaned; rw [Block.haltSession_eq]
  all_goals exact Block.Relaned.refl b

/-- The restart of the lanes changes lanes and asks alone, and each lane as its state says (R70). -/
theorem Block.lanesRestart {b : Block} (h : b.pool = Pool.reset) :
    b.Relaned (allLanes.foldl Block.restartLaneState b) ∧ ∀ l, (b.lane l).RestartsTo ((allLanes.foldl Block.restartLaneState b).lane l) := by
  obtain ⟨rest, each⟩ := foldl_lanes (g := Block.restartLaneState) (I := b.Relaned) (R := fun _ => Lane.RestartsTo)
    (fun c l k => k.trans (Block.relaned_restartLaneState (k.pool.trans h) l)) (fun c l j _ hj => Block.restartLaneState_ne c hj)
    (fun c l _ => Block.restartLaneState_lane c l) allLanes b allLanes_nodup (Block.Relaned.refl b)
  exact ⟨rest, fun l => (each l).2 (mem_allLanes l)⟩

/-! ## The calibration runs (R196) -/

/-- CALIBRATION_DONE of a run that RESTART ENGINE aborts. -/
def Block.abortedNotice (b : Block) (l : Fin 8) : Notice := .calibrationDone l (.aborted .restart) (b.lane l).settings.ceiling (b.lane l).settings.ceiling

/-- The duty controller when the runs of these lanes have been aborted. -/
def Duty.aborted (d : Duty) (ls : List (Fin 8)) : Duty := { d with
  calibration := Vector.ofFn (fun l => if l ∈ ls then none else d.calibration[l])
  lastCalibration := Vector.ofFn (fun l => if l ∈ ls ∧ (d.calibration[l]).isSome then some (.aborted .restart) else d.lastCalibration[l]) }

theorem Duty.aborted_nil (d : Duty) : d.aborted [] = d := by
  simp [Duty.aborted]

theorem Duty.aborted_idle {d : Duty} {l : Fin 8} (h : d.calibration[l] = none) (ls : List (Fin 8)) : d.aborted (l :: ls) = d.aborted ls := by
  unfold Duty.aborted
  congr 1
  · refine congrArg Vector.ofFn (funext fun j => ?_)
    by_cases hj : j = l
    · subst hj; simp [h]
    · simp [hj]
  · refine congrArg Vector.ofFn (funext fun j => ?_)
    by_cases hj : j = l
    · subst hj; simp [h]
    · simp [hj]

theorem Block.abortCalibration_fields (b : Block) (l : Fin 8) : (b.abortCalibration l .restart).duty = { b.duty with
    calibration := b.duty.calibration.set l.val none l.isLt
    lastCalibration := b.duty.lastCalibration.set l.val (some (.aborted .restart)) l.isLt } := rfl

theorem Block.abortCalibration_duty {b : Block} {l : Fin 8} (h : (b.duty.calibration[l]).isSome = true) {ls : List (Fin 8)} (hl : l ∉ ls) :
    (b.abortCalibration l .restart).duty.aborted ls = b.duty.aborted (l :: ls) := by
  rw [Block.abortCalibration_fields]
  unfold Duty.aborted
  congr 1
  · refine congrArg Vector.ofFn (funext fun j => ?_)
    by_cases hj : j = l
    · subst hj; simp
    · simp [hj, Fin.val_ne_of_ne (Ne.symm hj)]
  · refine congrArg Vector.ofFn (funext fun j => ?_)
    by_cases hj : j = l
    · subst hj
      rw [if_neg (fun hm => hl hm.1), if_pos ⟨List.mem_cons_self, h⟩]
      simp
    · simp [hj, Fin.val_ne_of_ne (Ne.symm hj)]

theorem Block.abortCalibration_run (b : Block) {l j : Fin 8} (h : j ≠ l) : (b.abortCalibration l .restart).duty.calibration[j] = b.duty.calibration[j] := by
  unfold Block.abortCalibration
  simp [Fin.val_ne_of_ne (Ne.symm h)]

/-- The runs in hand are aborted in rising order of the lanes, each with its notice. -/
theorem Block.restartCalibrations : ∀ (ls : List (Fin 8)) (b : Block), ls.Nodup → ls.foldl Block.restartCalibration b = { b with
    duty := b.duty.aborted ls
    port := { b.port with raised := b.port.raised ++ (ls.filter (fun l => (b.duty.calibration[l]).isSome)).map b.abortedNotice } }
  | [], b, _ => by
    rw [Duty.aborted_nil]
    simp
  | l :: ls, b, hn => by
    obtain ⟨fresh, rest⟩ := List.nodup_cons.1 hn
    rw [List.foldl_cons, List.filter_cons]
    by_cases run : (b.duty.calibration[l]).isSome = true
    case neg =>
      rw [show b.restartCalibration l = b from if_neg run, if_neg run, Duty.aborted_idle (Option.not_isSome_iff_eq_none.1 run)]
      exact Block.restartCalibrations ls b rest
    case pos =>
      have others : ls.filter (fun j => ((b.abortCalibration l .restart).duty.calibration[j]).isSome) = ls.filter (fun j => (b.duty.calibration[j]).isSome) :=
        List.filter_congr fun j hj => by rw [Block.abortCalibration_run b (ne_of_mem_of_not_mem hj fresh)]
      rw [show b.restartCalibration l = b.abortCalibration l .restart from if_pos run, if_pos run]
      refine (Block.restartCalibrations ls (b.abortCalibration l .restart) rest).trans ?_
      rw [others, Block.abortCalibration_duty run fresh, List.map_cons]
      unfold Block.abortCalibration
      simp only [Block.raise_port, Block.updDuty_port, List.append_assoc, List.singleton_append]
      rfl

/-! ## Keep-alive (R196) -/

/-- With no entry FETCHING a lane leaves service and nothing waits on it. -/
theorem Block.leftService_waiting {b : Block} (h : ∀ e ∈ b.repair.list, e.phase = .waiting) (l : Fin 8) : b.leftService l = b := by
  unfold Block.leftService
  rw [List.filter_eq_nil_iff.2 fun e he => by rw [h e he]; simp]
  rfl

/-- A READY lane with no item and keep-alive off (R196). -/
def Lane.idleUnkept (ln : Lane) : Prop := ln.state = .ready ∧ ln.item = none ∧ ln.settings.keepAlive = false

def Lane.downByHold (ln : Lane) : Lane := { ln with state := .off, putDownByHold := true, lastCause := .hold, settleTimer := none, stallTimer := none }

/-- What the decision on keep-alive makes of a lane. -/
structure Lane.DecidedTo (ln ln' : Lane) : Prop where
  kept : ¬ln.idleUnkept → ln' = ln
  down : ln.idleUnkept → ∃ sent, ln' = { ln with
    state := .off, session := none, sent := sent, putDownByHold := true, lastCause := .hold, settleTimer := none, stallTimer := none }

section
variable {b : Block} (hw : ∀ e ∈ b.repair.list, e.phase = .waiting)
include hw

/-- A lane put down by hold without a notice, nothing waiting on it: its lane alone changes. -/
theorem Block.putDownByHold_silent (l : Fin 8) : b.putDownByHold l true = (b.haltSession l).updLane l Lane.downByHold :=
  Block.leftService_waiting (b := (b.haltSession l).updLane l Lane.downByHold) (by rw [Block.updLane_repair, Block.haltSession_repair]; exact hw) l

theorem Block.restartDecision_lane (l : Fin 8) : (b.lane l).DecidedTo ((b.restartDecision l).lane l) := by
  refine ⟨fun h => congrArg (fun c : Block => c.lane l) (if_neg h), fun h => ?_⟩
  rw [show b.restartDecision l = b.putDownByHold l true from if_pos h, Block.putDownByHold_silent hw, Block.lane_updLane_self, Block.haltSession_lane]
  exact ⟨_, rfl⟩

theorem Block.restartDecision_ne {l j : Fin 8} (h : j ≠ l) : (b.restartDecision l).lane j = b.lane j := by
  unfold Block.restartDecision
  split
  · rw [Block.putDownByHold_silent hw, Block.lane_updLane_ne _ _ h, Block.haltSession_lane_ne _ h]
  · rfl

theorem Block.restartDecision_eq (l : Fin 8) : b.restartDecision l = { b with lanes := (b.restartDecision l).lanes } := by
  unfold Block.restartDecision
  split
  · rw [Block.putDownByHold_silent hw, Block.haltSession_eq]
    rfl
  · rfl

/-- The decisions on keep-alive change lanes alone. -/
theorem Block.restartDecisions : allLanes.foldl Block.restartDecision b = { b with lanes := (allLanes.foldl Block.restartDecision b).lanes } ∧
    ∀ l, (b.lane l).DecidedTo ((allLanes.foldl Block.restartDecision b).lane l) := by
  have waiting : ∀ {c : Block}, c = { b with lanes := c.lanes } → ∀ e ∈ c.repair.list, e.phase = .waiting := fun hc => by rw [hc]; exact hw
  obtain ⟨rest, each⟩ := foldl_lanes (g := Block.restartDecision) (I := fun c => c = { b with lanes := c.lanes }) (R := fun _ => Lane.DecidedTo)
    (fun c l k => by
      have decided := Block.restartDecision_eq (waiting k) l
      rw [k] at decided
      rw [k]
      exact decided)
    (fun c l j k hj => Block.restartDecision_ne (waiting k) hj)
    (fun c l k => Block.restartDecision_lane (waiting k) l) allLanes b allLanes_nodup rfl
  exact ⟨rest, fun l => (each l).2 (mem_allLanes l)⟩

end

/-! ## The store (R2, R27) -/

theorem Store.restartSlot_manifest (list : List Entry) (st : Store) (k j : Fin 16) : (Store.restartSlot list st k).manifest j =
    if j = k then (st.manifest k).bind (Manifest.restarted (list.countP (fun e => e.key.slot == k))) else st.manifest j := by
  unfold Store.restartSlot
  cases hk : st.manifest k with
  | none =>
    by_cases hj : j = k
    · rw [if_pos hj, hj]; exact hk
    · rw [if_neg hj]
  | some m => exact Store.manifest_put st k j _

/-- What a slot gives back to the frame pool. -/
def Store.slotReturns (st : Store) (k : Fin 16) : Nat := ((st.manifest k).map Manifest.returned).getD 0

theorem Store.restartSlot_free (list : List Entry) (st : Store) (k : Fin 16) : (Store.restartSlot list st k).free = st.free + st.slotReturns k := by
  unfold Store.restartSlot Store.slotReturns
  cases st.manifest k <;> rfl

theorem Store.restartSlot_rollups (list : List Entry) (st : Store) (k : Fin 16) :
    (Store.restartSlot list st k).unit = st.unit ∧ (Store.restartSlot list st k).fifo = st.fifo := by
  unfold Store.restartSlot
  cases st.manifest k <;> exact ⟨rfl, rfl⟩

/-- The store when these slots have restarted. -/
theorem Store.restartSlots (list : List Entry) : ∀ (ks : List (Fin 16)) (st : Store), ks.Nodup →
    (∀ j, (ks.foldl (Store.restartSlot list) st).manifest j =
      if j ∈ ks then (st.manifest j).bind (Manifest.restarted (list.countP (fun e => e.key.slot == j))) else st.manifest j) ∧
    (ks.foldl (Store.restartSlot list) st).free = st.free + (ks.map st.slotReturns).sum ∧
    (ks.foldl (Store.restartSlot list) st).unit = st.unit ∧ (ks.foldl (Store.restartSlot list) st).fifo = st.fifo
  | [], st, _ => ⟨fun _ => rfl, rfl, rfl, rfl⟩
  | k :: ks, st, hn => by
    obtain ⟨fresh, rest⟩ := List.nodup_cons.1 hn
    obtain ⟨manifests, free, unit, fifo⟩ := Store.restartSlots list ks (Store.restartSlot list st k) rest
    have other : ∀ j, j ≠ k → (Store.restartSlot list st k).manifest j = st.manifest j := fun j hj => by rw [Store.restartSlot_manifest, if_neg hj]
    rw [List.foldl_cons]
    refine ⟨fun j => ?_, ?_, ?_, ?_⟩
    · rw [manifests j]
      by_cases hj : j = k
      · subst hj
        rw [if_neg fresh, if_pos List.mem_cons_self, Store.restartSlot_manifest, if_pos rfl]
      · simp only [other j hj, List.mem_cons, hj, false_or]
    · have same : ks.map (Store.restartSlot list st k).slotReturns = ks.map st.slotReturns :=
        List.map_congr_left fun j hj => by unfold Store.slotReturns; rw [other j fun e => fresh (e ▸ hj)]
      rw [free, same, Store.restartSlot_free, List.map_cons, List.sum_cons]
      omega
    · exact unit.trans (Store.restartSlot_rollups list st k).1
    · exact fifo.trans (Store.restartSlot_rollups list st k).2

theorem FrameRecord.restarted_eq (x : FrameRecord) : x.restarted =
    if x.state = .inRepair then { x with state := .suspect, detail := none, visiting := false } else { x with visiting := false } := by
  unfold FrameRecord.restarted
  split <;> rfl

theorem Manifest.restarted_eq (m : Manifest) (n : Nat) : m.restarted n = if m.state = .loading ∨ m.state = .closing then none
    else some { m with records := m.records.map FrameRecord.restarted, campaignPins := 0, suspectPins := n } := by
  unfold Manifest.restarted
  cases m.state <;> simp

theorem Manifest.returned_eq (m : Manifest) : m.returned = if m.state = .ready ∨ m.state = .discordant then 0 else m.count := by
  unfold Manifest.returned
  cases m.state <;> simp

/-- The Fixity Store at RESTART ENGINE, slot by slot. -/
theorem Store.restarted_spec (st : Store) (list : List Entry) :
    (∀ k, (st.restarted list).manifest k = (st.manifest k).bind (Manifest.restarted (list.countP (fun e => e.key.slot == k)))) ∧
    (st.restarted list).free = st.free + (allSlots.map st.slotReturns).sum ∧ (st.restarted list).unit = none ∧ (st.restarted list).fifo = [] := by
  obtain ⟨manifests, free, unit, fifo⟩ := Store.restartSlots list allSlots { st with unit := none, fifo := [] } allSlots_nodup
  exact ⟨fun k => (manifests k).trans (if_pos (mem_allSlots k)), free, unit, fifo⟩

/-- The manifests held after the restart are the READY and the DISCORDANT ones. -/
theorem Store.restarted_held (st : Store) (list : List Entry) : (st.restarted list).slots.toList.countP Option.isSome =
    allSlots.countP (fun k => (st.manifest k).any (fun m => decide (m.state = .ready ∨ m.state = .discordant))) := by
  have slots : (st.restarted list).slots.toList = allSlots.map (st.restarted list).manifest := by
    rw [allSlots_eq]
    exact List.ext_getElem (by simp) fun i h1 h2 => by simp [Store.manifest]
  rw [slots, List.countP_map]
  refine congrArg (fun p => allSlots.countP p) (funext fun k => ?_)
  rw [Function.comp_apply, (Store.restarted_spec st list).1 k]
  cases st.manifest k with
  | none => rfl
  | some m =>
    rw [Option.bind_some, Manifest.restarted_eq]
    cases h : m.state <;> simp [h]

/-! ## The notices (R204, R207) -/

/-- With a place for each, notices other than LOG_ADVANCED join the outbound queue in order. -/
theorem Port.queueAll_places : ∀ (ns : List Notice) (p : Port), (∀ n ∈ ns, ∀ q : Port, q.queueNotice n = q.place n) → p.noticesUsed + ns.length ≤ 12 →
    ns.foldl Port.queueNotice p = { p with outbound := p.outbound ++ ns.map OutFrame.notice }
  | [], p, _, _ => by simp
  | n :: ns, p, hn, hc => by
    rw [List.length_cons] at hc
    have placed : p.queueNotice n = { p with outbound := p.outbound ++ [.notice n] } := (hn n List.mem_cons_self p).trans (if_pos (by omega))
    have used : ({ p with outbound := p.outbound ++ [.notice n] } : Port).noticesUsed = p.noticesUsed + 1 := by
      unfold Port.noticesUsed
      rw [List.countP_append]
      rfl
    rw [List.foldl_cons, placed, Port.queueAll_places ns _ (fun m hm => hn m (List.mem_cons_of_mem n hm)) (by omega)]
    simp

/-- A reply and the notices raised with it, when there is a place for each (R200, R204). -/
theorem Port.answer_places (p : Port) (r : Request) (rep : Reply) (hn : ∀ n ∈ p.raised, ∀ q : Port, q.queueNotice n = q.place n)
    (hc : p.noticesUsed + p.raised.length ≤ 12) : p.answer r rep = { p with
      inbound := p.inbound.tail, outbound := p.outbound ++ .reply (replyKind r.kind) r.tag rep :: p.raised.map OutFrame.notice, raised := [] } := by
  unfold Port.answer Port.flush
  refine (Port.queueAll_places _ _ hn ?_).trans ?_
  · unfold Port.noticesUsed at hc ⊢
    rw [List.countP_append]
    exact hc
  · simp

/-! ## The whole (R207) -/

/-- The block that RESTART ENGINE leaves, but for its lanes: the runs aborted, the mode HELD, and the engine's time started (R196, R208). -/
def Block.heldWith (p : Block) (w : WakeMode) (t : Nat) (notices : List Notice) (lanes : Vector Lane 8) : Block := { p with
  port := { p.port with raised := p.port.raised ++ notices }, lanes := lanes
  duty := { p.duty.aborted allLanes with mode := .held, wake := w, holdTimer := none }, epoch := t, asks := [] }

/-- CALIBRATION_DONE of each run in hand, in rising order of the lanes. -/
def Block.abortedNotices (b : Block) : List Notice := (allLanes.filter (fun l => (b.duty.calibration[l]).isSome)).map b.abortedNotice

def Block.restartedWith (b : Block) (lanes : Vector Lane 8) : Block := b.partsRestarted.heldWith b.duty.restartWake b.clock b.abortedNotices lanes

theorem Block.heldWith_lanes (p : Block) (w : WakeMode) (t : Nat) (notices : List Notice) (lanes lanes' : Vector Lane 8) :
    { p.heldWith w t notices lanes with lanes := lanes' } = p.heldWith w t notices lanes' := rfl

theorem Block.partsRestarted_notices (b : Block) : b.partsRestarted.abortedNotices = b.abortedNotices := by
  have duty : b.partsRestarted.duty = b.duty := rfl
  have lane : ∀ l, b.partsRestarted.lane l = b.lane l := fun _ => rfl
  unfold Block.abortedNotices Block.abortedNotice
  simp only [duty, lane]

theorem Block.lanesRestarted_spec {p : Block} (h : p.pool = Pool.reset) (w : WakeMode) (t : Nat) :
    ∃ lanes, p.lanesRestarted.dutyRestarted w t = p.heldWith w t p.abortedNotices lanes ∧ ∀ l, (p.lane l).RestartsTo ((p.heldWith w t p.abortedNotices lanes).lane l) := by
  obtain ⟨relaned, restarts⟩ := Block.lanesRestart h
  have calibrations := Block.restartCalibrations allLanes (allLanes.foldl Block.restartLaneState p) allLanes_nodup
  unfold Block.lanesRestarted
  generalize allLanes.foldl Block.restartLaneState p = lanesDone at relaned restarts calibrations
  obtain ⟨lanes, asks, rfl⟩ : ∃ lanes asks, lanesDone = { p with lanes := lanes, asks := asks } := ⟨_, _, relaned⟩
  have notices : ({ p with lanes := lanes, asks := asks } : Block).abortedNotice = p.abortedNotice := funext fun l => by
    unfold Block.abortedNotice
    rw [(restarts l).settings]
  rw [calibrations, notices]
  exact ⟨lanes, rfl, restarts⟩

theorem Block.partsRestarted_waiting (b : Block) : ∀ e ∈ b.partsRestarted.repair.list, e.phase = .waiting := fun e he => by
  unfold Block.partsRestarted Block.repairRestarted at he
  obtain ⟨x, _, rfl⟩ := List.mem_map.1 he
  rfl

theorem Block.restarted_spec (b : Block) : ∃ lanes, b.restarted = b.restartedWith lanes ∧
    ∀ l, ∃ mid, (b.lane l).RestartsTo mid ∧ mid.DecidedTo ((b.restartedWith lanes).lane l) := by
  obtain ⟨lanes, held, restarts⟩ := Block.lanesRestarted_spec (p := b.partsRestarted) rfl b.duty.restartWake b.clock
  obtain ⟨decided, decides⟩ := Block.restartDecisions (b := b.partsRestarted.lanesRestarted.dutyRestarted b.duty.restartWake b.clock) (by
    rw [held]
    exact b.partsRestarted_waiting)
  generalize hd : allLanes.foldl Block.restartDecision (b.partsRestarted.lanesRestarted.dutyRestarted b.duty.restartWake b.clock) = done at decided decides
  rw [held] at decided decides
  have whole : b.restarted = done := by unfold Block.restarted; exact hd
  have same : b.restartedWith done.lanes = done := by
    unfold Block.restartedWith
    rw [← Block.partsRestarted_notices]
    exact (decided.trans (Block.heldWith_lanes _ _ _ _ _ _)).symm
  refine ⟨done.lanes, whole.trans same.symm, fun l => ?_⟩
  rw [same]
  exact ⟨_, restarts l, decides l⟩

theorem Block.entryRestarted_eq (b : Block) (e : Entry) : b.entryRestarted e = { e with
    phase := .waiting, extents := none, context := none, stepLane := none, awaits := none
    interrupted := e.interrupted || e.stepLane.any (fun l => (b.lane l).exchange.isRewrite) } := by
  unfold Block.entryRestarted Block.rewriteInFlight
  cases e.stepLane <;> rfl

section
variable (b : Block) (lanes : Vector Lane 8)

theorem Block.restartedWith_store : (b.restartedWith lanes).store = b.store.restarted b.repair.list := by
  unfold Block.restartedWith Block.heldWith Block.partsRestarted
  dsimp only

theorem Block.restartedWith_capture : (b.restartedWith lanes).capture = b.capture.map CaptureSlot.restarted := by
  unfold Block.restartedWith Block.heldWith Block.partsRestarted
  dsimp only

theorem Block.restartedWith_duty : (b.restartedWith lanes).duty =
    { b.duty.aborted allLanes with mode := .held, wake := b.duty.restartWake, holdTimer := none } := by
  unfold Block.restartedWith Block.heldWith Block.partsRestarted
  dsimp only

theorem Block.restartedWith_repair : (b.restartedWith lanes).repair = b.repairRestarted := by
  unfold Block.restartedWith Block.heldWith Block.partsRestarted
  dsimp only

end

theorem Block.restartedWith_engineUp (b : Block) (lanes : Vector Lane 8) : (b.restartedWith lanes).engineUp .restart =
    .engineUp .restart (b.recorder.nextSequence - 1)
      (allSlots.countP (fun k => (b.store.manifest k).any (fun m => decide (m.state = .ready ∨ m.state = .discordant)))) b.repair.list.length
      b.sched.nextId b.duty.restartWake := by
  unfold Block.engineUp Block.restartedWith Block.heldWith Block.partsRestarted Block.repairRestarted Recorder.lastSequence
  dsimp only
  rw [Store.restarted_held, List.length_map]

theorem Block.restartEngine_eq (b : Block) : b.restartEngine = (b.restarted.raise (b.restarted.engineUp .restart), .done []) := by
  unfold Block.restartEngine Block.done
  rfl

theorem restartEngine_answered {s : State} {tag : Byte} {body : List Byte} (h : s.Takes 0x3F tag body) : exec (.restartEngine tag body) s =
    .next (s.answered (s.blk.restarted.raise (s.blk.restarted.engineUp .restart)) 0x3F tag (.done [])) := by
  have arm : exec (.restartEngine tag body) s = s.request 0x3F tag body Block.restartEngine := rfl
  rw [arm, State.request_takes h, Block.restartEngine_eq]

/-- A kept record is SUSPECT where it was IN_REPAIR, and not visiting (R27). -/
theorem FrameRecord.restarted_fun : FrameRecord.restarted = fun x : FrameRecord =>
    if x.state = .inRepair then { x with state := .suspect, detail := none, visiting := false } else { x with visiting := false } :=
  funext FrameRecord.restarted_eq

/-- The block of RESTART ENGINE leaves nothing to do. -/
theorem Block.restartedWith_quiet (b : Block) (lanes : Vector Lane 8) (n : Notice) : ((b.restartedWith lanes).raise n).quiet :=
  ⟨rfl, Or.inl rfl⟩

theorem State.answered_blk_of_quiet {b : Block} (h : b.quiet) (s : State) (kind tag : Byte) (rep : Reply) :
    (s.answered b kind tag rep).blk = { b with port := b.port.answer { kind := kind, tag := tag, body := [] } rep } := by
  unfold State.answered
  rw [Block.settleWork_quiet h]

theorem Block.raise_withPort (b : Block) (n : Notice) (p : Port) : ({ b.raise n with port := p } : Block) = { b with port := p } := rfl

/-- The port after RESTART ENGINE: the frame being sent, the reply, and the notices. -/
theorem Port.restart_answer {p : Port} (told : p.raised = []) (aborted : List Notice) (up : Notice) (ha : ∀ n ∈ aborted ++ [up], ∀ q : Port, q.queueNotice n = q.place n)
    (hc : aborted.length ≤ 8) (tag : Byte) : ({ p.restarted with raised := p.raised ++ aborted ++ [up] } : Port).answer { kind := 0x3F, tag := tag, body := [] } (.done []) =
      { p with inbound := [], gap := false, dropped := 0, outbound := p.outbound.take 1 ++ .reply 0xBF tag (.done []) :: (aborted ++ [up]).map OutFrame.notice } := by
  have taken : ∀ {α : Type} (l : List α), (l.take 1).tail = [] := fun l => by cases l <;> rfl
  have used : ∀ ns, ({ p.restarted with raised := ns } : Port).noticesUsed ≤ 1 := fun _ =>
    (List.countP_le_length (p := OutFrame.isNotice)).trans (List.length_take_le 1 p.outbound)
  rw [Port.answer_places]
  · unfold Port.restarted
    dsimp only
    rw [told, taken]
    rfl
  · dsimp only
    rw [told]
    exact ha
  · dsimp only
    rw [told, List.nil_append, List.length_append, List.length_singleton]
    exact (Nat.add_le_add (used (aborted ++ [up])) (Nat.succ_le_succ hc)).trans (by decide)

theorem Block.abortedNotices_length (b : Block) : b.abortedNotices.length ≤ 8 := by
  unfold Block.abortedNotices
  rw [List.length_map]
  exact List.length_filter_le _ _

theorem Store.slotReturns_eq (st : Store) (k : Fin 16) : st.slotReturns k =
    match st.manifest k with | some m => if m.state = .ready ∨ m.state = .discordant then 0 else m.count | none => 0 := by
  unfold Store.slotReturns
  cases st.manifest k with
  | none => rfl
  | some m => exact m.returned_eq

theorem Duty.aborted_lane (d : Duty) (l : Fin 8) : (d.aborted allLanes).calibration[l] = none ∧
    (d.aborted allLanes).lastCalibration[l] = if (d.calibration[l]).isSome then some (.aborted .restart) else d.lastCalibration[l] := by
  unfold Duty.aborted
  simp [mem_allLanes]

/-- A lane after its restart and the decision on keep-alive (R70, R196). -/
theorem Lane.restarted_spec {ln mid ln' : Lane} (h : ln.RestartsTo mid) (k : mid.DecidedTo ln') :
    ln'.settings = ln.settings ∧ ln'.restarts = 0 ∧ ln'.pacing = none ∧ ln'.gate = none ∧ ln'.nextSession = ln.nextSession ∧
    (ln.state = .engaged ∨ ln.state = .calibrating ∨ (ln.state = .ready ∧ ln.item = none) →
      ln'.state = (if ln.settings.keepAlive then LaneState.ready else .off) ∧ ln'.session = none ∧ ln'.putDownByHold = (ln.putDownByHold || !ln.settings.keepAlive)) ∧
    (ln.state = .yielding → ln'.state = .lent ∧ ln'.resumeTarget = some .ready ∧ ln'.session = none) ∧
    (ln.state = .off ∨ ln.state = .settling ∨ ln.state = .lent ∨ ln.state = .stalled → ln' = { ln with restarts := 0, pacing := none, gate := none }) := by
  have kept : mid.state ≠ .ready → ln' = mid := fun hs => k.kept fun hi => hs hi.1
  have shared : ln'.settings = mid.settings ∧ ln'.restarts = mid.restarts ∧ ln'.pacing = mid.pacing ∧ ln'.gate = mid.gate ∧ ln'.nextSession = mid.nextSession := by
    by_cases hi : mid.idleUnkept
    · obtain ⟨sent, rfl⟩ := k.down hi
      exact ⟨rfl, rfl, rfl, rfl, rfl⟩
    · rw [k.kept hi]
      exact ⟨rfl, rfl, rfl, rfl, rfl⟩
  obtain ⟨settings, restarts, pacing, gate, next⟩ := shared
  refine ⟨settings.trans h.settings, restarts.trans h.restarts, pacing.trans h.pacing, gate.trans h.gate, next.trans h.next, fun hs => ?_, fun hs => ?_, fun hs => ?_⟩
  · obtain ⟨ready, item, session⟩ := h.free hs
    cases ha : ln.settings.keepAlive with
    | true =>
      rw [k.kept fun hi => Bool.false_ne_true (hi.2.2.symm.trans ((congrArg LaneSettings.keepAlive h.settings).trans ha)), h.byHold]
      exact ⟨ready, session, (Bool.or_false _).symm⟩
    | false =>
      obtain ⟨sent, rfl⟩ := k.down ⟨ready, item, (congrArg LaneSettings.keepAlive h.settings).trans ha⟩
      exact ⟨rfl, rfl, (Bool.or_true _).symm⟩
  · obtain ⟨lent, target, session⟩ := h.lent hs
    rw [kept (by rw [lent]; exact LaneState.noConfusion)]
    exact ⟨lent, target, session⟩
  · have away := h.away hs
    rw [kept (by rw [away]; rcases hs with hs | hs | hs | hs <;> rw [hs] <;> exact LaneState.noConfusion), away]

/-- Settles O59: the parts by `Block.restarted_spec`, each lane through its restart and the decision on keep-alive. -/
theorem restartEngineKeeps : Obligations.RestartEngineKeeps := by
  intro s tag body h b r wake aborted kept up
  obtain ⟨lanes, he, hlane⟩ := Block.restarted_spec b
  have hr : r = b.restartedWith lanes := he
  have told : b.port.raised = [] := h.told
  obtain ⟨manifests, free, unit, fifo⟩ := Store.restarted_spec b.store b.repair.list
  have answer : exec (.restartEngine tag body) s = .next (s.answered (r.raise (r.engineUp .restart)) 0x3F tag (.done [])) := restartEngine_answered h
  clear_value r
  subst hr
  have hup : (b.restartedWith lanes).engineUp .restart = up := b.restartedWith_engineUp lanes
  rw [← Block.restartedWith_store b lanes] at manifests free unit fifo
  refine ⟨answer, ⟨_, answer, ?_⟩, rfl, rfl, rfl, rfl, rfl, rfl, ⟨rfl, rfl, rfl, rfl, rfl, rfl⟩,
    fun l => ?_, fun k => ?_, fun k m hm => ?_, fun k hk => (manifests k).trans (by rw [hk]; rfl), ?_, ⟨unit, fifo⟩, ?_, fun l => ?_⟩
  · have notices : b.abortedNotices = aborted := by unfold Block.abortedNotices Block.abortedNotice; rfl
    have port : ((b.restartedWith lanes).raise up).port = { b.port.restarted with raised := b.port.raised ++ b.abortedNotices ++ [up] } := rfl
    have places : ∀ n ∈ b.abortedNotices ++ [up], ∀ q : Port, q.queueNotice n = q.place n := fun n hn q => by
      rcases List.mem_append.1 hn with hn | hn
      · obtain ⟨l, _, rfl⟩ := List.mem_map.1 hn
        rfl
      · rw [List.mem_singleton.1 hn]; rfl
    rw [State.answered_blk_of_quiet (b.restartedWith_quiet lanes _), Block.raise_withPort, hup, port,
      Port.restart_answer told b.abortedNotices up places b.abortedNotices_length, notices]
  · rw [Block.restartedWith_duty]
    exact Duty.aborted_lane b.duty l
  · rw [Block.restartedWith_capture]
    exact Vector.getElem_map _ _
  · rw [manifests k, hm, Option.bind_some, Manifest.restarted_eq, FrameRecord.restarted_fun]
  · rw [free, List.map_congr_left fun k _ => b.store.slotReturns_eq k] <;> rfl
  · rw [Block.restartedWith_repair]
    exact ⟨rfl, rfl, List.map_congr_left fun e _ => b.entryRestarted_eq e⟩
  · obtain ⟨mid, restarts, decides⟩ := hlane l
    exact Lane.restarted_spec restarts decides

end Sys2Proof.Machine
end

section
/-! SUPPORT. What the end of a campaign's session, and the start passes that follow a verdict claim, leave of the records and of the campaigns (R20, R23, R56, R105, R110, R116). -/
namespace Sys2Proof.Machine

/-! ## A record while nothing gives it an outcome -/

/-- The repair claims of R23 and the clearing of the visiting mark: a record keeps its queued mark, goes to IN_REPAIR only when it is
queued and SUSPECT, and comes back from there to SUSPECT. -/
structure FrameRecord.Turns (r r' : FrameRecord) : Prop where
  kept   : r'.length = r.length ∧ r'.digest = r.digest ∧ r'.last = r.last ∧ r'.queued = r.queued
  visit  : r.visiting = false → r'.visiting = false
  detail : r.detail = none → r'.detail = none
  state  : r'.state = r.state ∨ (r'.state = .suspect ∧ r.state = .inRepair) ∨ (r'.state = .inRepair ∧ r.state = .suspect ∧ r.queued = true)

theorem FrameRecord.Turns.refl (r : FrameRecord) : r.Turns r := ⟨⟨rfl, rfl, rfl, rfl⟩, id, id, .inl rfl⟩

theorem FrameRecord.Turns.trans {r r' r'' : FrameRecord} (h : r.Turns r') (k : r'.Turns r'') : r.Turns r'' := by
  obtain ⟨length, digest, last, queued⟩ := h.kept
  obtain ⟨length', digest', last', queued'⟩ := k.kept
  refine ⟨⟨length'.trans length, digest'.trans digest, last'.trans last, queued'.trans queued⟩, fun hv => k.visit (h.visit hv), fun hd => k.detail (h.detail hd), ?_⟩
  rcases h.state with hs | ⟨hs, hs'⟩ | ⟨hs, hs', hq⟩
  · rw [← hs, ← queued]
    exact k.state
  · rcases k.state with ks | ⟨ks, ks'⟩ | ⟨ks, _, _⟩
    · exact .inr (.inl ⟨ks.trans hs, hs'⟩)
    · rw [hs] at ks'; cases ks'
    · exact .inl (ks.trans hs'.symm)
  · rcases k.state with ks | ⟨ks, _⟩ | ⟨_, ks', _⟩
    · exact .inr (.inr ⟨ks.trans hs, hs', hq⟩)
    · exact .inl (ks.trans hs'.symm)
    · rw [hs] at ks'; cases ks'

theorem FrameRecord.turns_started {r : FrameRecord} (hs : r.state = .suspect) (hq : r.queued = true) : r.Turns (r.enter .inRepair) :=
  ⟨⟨rfl, rfl, rfl, rfl⟩, id, fun _ => rfl, .inr (.inr ⟨rfl, hs, hq⟩)⟩

theorem FrameRecord.turns_returned (r : FrameRecord) : r.Turns (if r.state = .inRepair then r.enter .suspect else r) := by
  split
  · next hs => exact ⟨⟨rfl, rfl, rfl, rfl⟩, id, fun _ => rfl, .inr (.inl ⟨rfl, hs⟩)⟩
  · exact .refl r

theorem FrameRecord.turns_cleared (r : FrameRecord) : r.Turns { r with visiting := false } := ⟨⟨rfl, rfl, rfl, rfl⟩, fun _ => rfl, id, .inl rfl⟩

/-! ## A block while nothing settles -/

/-- The recorder and the entries' names stay, each record turns, and of a campaign at most the state and the cause it is held for change. -/
structure Later (a b : Block) : Prop where
  recorder  : b.recorder = a.recorder
  keys      : b.repair.keys = a.repair.keys
  records   : ∀ k n r, a.store.record k n = some r → ∃ r', b.store.record k n = some r' ∧ r.Turns r'
  campaigns : ∀ id c, a.campaign id = some c → ∃ st cause, b.campaign id = some { c with state := st, heldCause := cause }

theorem Later.of_eq {a b : Block} (h1 : b.recorder = a.recorder) (h2 : b.repair = a.repair) (h3 : b.store = a.store) (h4 : b.sched = a.sched) : Later a b :=
  ⟨h1, by rw [h2], fun k n r hr => ⟨r, by rw [h3]; exact hr, .refl r⟩, fun id c hc => ⟨c.state, c.heldCause, by unfold Block.campaign; rw [h4]; exact hc⟩⟩

theorem Later.refl (b : Block) : Later b b := .of_eq rfl rfl rfl rfl

theorem Later.trans {a b c : Block} (h : Later a b) (k : Later b c) : Later a c := by
  refine ⟨k.recorder.trans h.recorder, k.keys.trans h.keys, fun i n r hr => ?_, fun id x hx => ?_⟩
  · obtain ⟨r', hr', turns⟩ := h.records i n r hr
    obtain ⟨r'', hr'', turns'⟩ := k.records i n r' hr'
    exact ⟨r'', hr'', turns.trans turns'⟩
  · obtain ⟨st, cause, hst⟩ := h.campaigns id x hx
    obtain ⟨st', cause', hst'⟩ := k.campaigns id { x with state := st, heldCause := cause } hst
    exact ⟨st', cause', hst'⟩

/-! ## The store and the Repair Engine -/

theorem Later.startPass (b : Block) : Later b b.startPass := by
  have passed := Passed.startPass b
  have aside := (Aside.refl b).startPass
  refine ⟨aside.recorder, passed.keys, fun k n r hr => ?_, fun id c hc => ⟨c.state, c.heldCause, by unfold Block.campaign; rw [aside.sched]; exact hc⟩⟩
  rcases passed.records k n with same | ⟨-, x, hx, hs, hq, -, hb⟩
  · exact ⟨r, same.trans hr, .refl r⟩
  · rw [hr] at hx
    cases hx
    exact ⟨_, hb, FrameRecord.turns_started hs hq⟩

/-- A claim at one record that turns it. -/
theorem Later.updRecord (b : Block) (k : Fin 16) (frame : Nat) {f : FrameRecord → FrameRecord} (hf : ∀ r : FrameRecord, r.Turns (f r)) :
    Later b (b.updStore (fun st => st.updRecord k frame f)) := by
  refine ⟨rfl, rfl, fun j n r hr => ?_, fun id c hc => ⟨c.state, c.heldCause, hc⟩⟩
  rw [Block.updStore_store, Store.record_updRecord_at, hr]
  split
  · exact ⟨f r, rfl, hf r⟩
  · exact ⟨r, rfl, .refl r⟩

theorem Later.freeEntry (b : Block) (k : EntryKey) : Later b (b.freeEntry k) := by
  refine ⟨?_, b.freeEntry_keys k, fun j n r hr => ⟨r, by rw [b.freeEntry_store k]; exact hr, .refl r⟩, fun id c hc => ⟨c.state, c.heldCause, ?_⟩⟩
  · unfold Block.freeEntry
    split <;> rfl
  · unfold Block.freeEntry
    split <;> exact hc

theorem Later.updEntry (b : Block) (k : EntryKey) {f : Entry → Entry} (hf : ∀ e, (f e).key = e.key) : Later b (b.updEntry k f) :=
  ⟨rfl, RepairEngine.keys_upd _ k hf, fun _ _ r hr => ⟨r, hr, .refl r⟩, fun _ c hc => ⟨c.state, c.heldCause, hc⟩⟩

theorem Later.entryToWaiting (b : Block) (k : EntryKey) : Later b (b.entryToWaiting k) :=
  (Later.freeEntry b k).trans (.trans (.updRecord _ _ _ FrameRecord.turns_returned)
    (.trans (.updEntry _ k (f := Entry.inWaiting) fun _ => rfl) (.startPass _)))

theorem Later.foldl {α : Type} {f : Block → α → Block} (hf : ∀ b x, Later b (f b x)) : ∀ (xs : List α) (b : Block), Later b (xs.foldl f b)
  | [], b => .refl b
  | x :: xs, b => (hf b x).trans (Later.foldl hf xs (f b x))

theorem Later.leftService (b : Block) (l : Fin 8) : Later b (b.leftService l) :=
  Later.foldl (f := fun acc (e : Entry) => acc.entryToWaiting e.key) (fun b e => Later.entryToWaiting b e.key) _ b

theorem Later.abandonVisit (b : Block) (k : Fin 16) (frame : Nat) : Later b (b.abandonVisit k frame) := by
  refine Later.trans (Later.updRecord b k frame FrameRecord.turns_cleared) ?_
  show Later (b.updStore (fun st => st.clearVisiting k frame)) ((b.updStore (fun st => st.clearVisiting k frame)).visitCleared k frame)
  unfold Block.visitCleared
  split
  · split
    · exact .startPass _
    · exact .refl _
  · exact .refl _

/-! ## The lane and the head (R56, R61, R62, R110) -/

theorem Later.headTo (b : Block) (l : Fin 8) (st : CampaignState) : Later b (b.headTo l st) := by
  unfold Block.headTo
  split
  · split
    · refine ⟨rfl, rfl, fun _ _ r hr => ⟨r, hr, .refl r⟩, fun id c hc => ?_⟩
      rw [Block.campaign_updCampaign b _ id (fun x => { x with state := st }) fun _ => rfl, hc]
      split
      · exact ⟨st, c.heldCause, rfl⟩
      · exact ⟨c.state, c.heldCause, rfl⟩
    · exact .refl b
  · exact .refl b

theorem Later.toReady (b : Block) (l : Fin 8) : Later b (b.toReady l) := by
  obtain ⟨ls, ready, -⟩ := b.toReady_rest l
  rw [ready]
  exact .of_eq rfl rfl rfl rfl

theorem Later.toLent (b : Block) (l : Fin 8) (target : ResumeTarget) : Later b (b.toLent l target) :=
  Later.trans (b := (b.becomeLent l target).laneNotice l .yield) (.of_eq rfl rfl rfl rfl) (.trans (.headTo _ l .yielded) (.leftService _ l))

theorem Later.dropHalt (b : Block) (l : Fin 8) : Later b ((b.dropExchange l).haltSession l) := by
  obtain ⟨lanes, pool, asks, e⟩ := b.dropExchange_rest l
  rw [Block.haltSession_eq, e]
  exact .of_eq rfl rfl rfl rfl

theorem Later.endOwner (b : Block) (l : Fin 8) : Later b (b.endOwner l) := by
  refine (Later.dropHalt b l).trans ?_
  unfold Block.endOwner
  dsimp only
  split
  · exact .toLent _ l .ready
  · exact .toReady _ l
  · exact .toReady _ l
  all_goals exact .refl _

/-- A campaign that ends its session changes no campaign but by its state, and settles nothing. -/
theorem Later.campaignEndsSession (b : Block) (c : Campaign) : Later b (b.campaignEndsSession c) := by
  unfold Block.campaignEndsSession
  split
  · split
    · split
      · exact (Later.endOwner b _).trans (.abandonVisit _ _ _)
      · exact .endOwner b _
    · exact .refl b
  · exact .refl b

def Campaign.heldFor (cause : HeldCause) (c : Campaign) : Campaign := { c with state := .held, heldCause := some cause }

theorem Block.holdCampaign_campaign (b : Block) (id n : Nat) (cause : HeldCause) :
    (b.holdCampaign id cause).campaign n = if n = id then (b.campaign n).map (Campaign.heldFor cause) else b.campaign n := by
  obtain ⟨sched, -, -, -, -⟩ := b.holdCampaign_spec id cause
  unfold Block.campaign
  rw [sched]
  exact Scheduler.find_upd_at b.sched id n (f := Campaign.heldFor cause) fun _ => rfl

theorem Later.holdCampaign (b : Block) (id : Nat) (cause : HeldCause) : Later b (b.holdCampaign id cause) := by
  obtain ⟨-, recorder, store, -, -⟩ := b.holdCampaign_spec id cause
  have repair : (b.holdCampaign id cause).repair = b.repair := by
    unfold Block.holdCampaign Block.campaignNotice
    split <;> rfl
  refine ⟨recorder, by rw [repair], fun k n r hr => ⟨r, by rw [store]; exact hr, .refl r⟩, fun n c hc => ?_⟩
  rw [Block.holdCampaign_campaign, hc]
  split
  · exact ⟨.held, some cause, rfl⟩
  · exact ⟨c.state, c.heldCause, rfl⟩

/-! ## The verdict claim and the enqueue it may call for (R21, R130, R151, R171) -/

/-- A record as the verdict claim writes it (R21). -/
def FrameRecord.given (r : FrameRecord) (v : Verdict) (frameFinding : Bool) : FrameRecord :=
  { r with state := if frameFinding then .suspect else .sound, detail := none, last := some v, visiting := false }

/-- What a record is once a campaign has claimed its verdict: SOUND and unqueued without a frame finding, and with one SUSPECT or
IN_REPAIR, unqueued only if it was and no enqueue was asked for. -/
structure FrameRecord.Judged (r : FrameRecord) (v : Verdict) (frameFinding asked : Bool) (r' : FrameRecord) : Prop where
  given   : r'.last = some v ∧ r'.visiting = false ∧ r'.length = r.length ∧ r'.digest = r.digest ∧ r'.detail = none
  sound   : frameFinding = false → r'.state = .sound ∧ r'.queued = false
  suspect : frameFinding = true → r'.state = .suspect ∨ (r'.state = .inRepair ∧ r'.queued = true)
  queued  : frameFinding = true → r.queued = true → r'.queued = true
  alone   : frameFinding = true → r.queued = false → asked = false → r'.state = .suspect ∧ r'.queued = false

theorem FrameRecord.Judged.turns {r r' r'' : FrameRecord} {v : Verdict} {ff asked : Bool} (h : r.Judged v ff asked r') (k : r'.Turns r'') : r.Judged v ff asked r'' := by
  obtain ⟨last, visiting, length, digest, detail⟩ := h.given
  obtain ⟨length', digest', last', queued'⟩ := k.kept
  refine ⟨⟨last'.trans last, k.visit visiting, length'.trans length, digest'.trans digest, k.detail detail⟩,
    fun hf => ?_, fun hf => ?_, fun hf hq => queued'.trans (h.queued hf hq),
    fun hf hq ha => ?_⟩
  · obtain ⟨hs, hq⟩ := h.sound hf
    refine ⟨?_, queued'.trans hq⟩
    rcases k.state with ks | ⟨-, ks⟩ | ⟨-, ks, -⟩
    · exact ks.trans hs
    · rw [hs] at ks; cases ks
    · rw [hs] at ks; cases ks
  · rcases k.state with ks | ⟨ks, -⟩ | ⟨ks, -, kq⟩
    · rw [ks, queued']
      exact h.suspect hf
    · exact .inl ks
    · exact .inr ⟨ks, queued'.trans kq⟩
  · obtain ⟨hs, hq'⟩ := h.alone hf hq ha
    refine ⟨?_, queued'.trans hq'⟩
    rcases k.state with ks | ⟨ks, -⟩ | ⟨-, -, kq⟩
    · exact ks.trans hs
    · exact ks
    · rw [hq'] at kq; cases kq

theorem Store.verdictClaim_record (st : Store) (k : Fin 16) (n : Nat) (v : Verdict) (ff : Bool) :
    (st.verdictClaim k n v ff).record k n = (st.record k n).map (fun r => r.given v ff) := Store.record_updRecord _ _ _ _

/-- The record that an unqueue claim leaves (R22). -/
theorem Store.unqueueClaim_record (st : Store) (k : Fin 16) (n : Nat) : (st.unqueueClaim k n).record k n = (st.record k n).map (fun r => { r with queued := false }) := by
  unfold Store.unqueueClaim
  exact (Store.record_updManifest (f := fun m => { m with suspectPins := m.suspectPins - 1 }) (fun _ _ => rfl) k n).trans (Store.record_updRecord _ _ _ _)

theorem Store.queueClaim_record (st : Store) (k : Fin 16) (n : Nat) : (st.queueClaim k n).record k n = (st.record k n).map (fun r => { r with queued := true }) := by
  unfold Store.queueClaim
  exact (Store.record_updManifest (f := fun m => { m with suspectPins := m.suspectPins + 1 }) (fun _ _ => rfl) k n).trans (Store.record_updRecord _ _ _ _)

theorem Store.queueGranted_record {st : Store} {k : Fin 16} {n : Nat} {r : FrameRecord} (hr : st.record k n = some r) (h : st.queueGranted k n = true) :
    r.state = .suspect ∧ r.queued = false := by
  unfold Store.queueGranted at h
  rw [hr] at h
  cases hm : st.manifest k with
  | none => rw [hm] at h; cases h
  | some m =>
    rw [hm] at h
    simp only [Bool.and_eq_true, beq_iff_eq, Bool.not_eq_true'] at h
    obtain ⟨⟨-, suspect⟩, unqueued⟩ := h
    exact ⟨suspect, unqueued⟩

section
variable {b : Block} {k : Fin 16} {n : Nat} {r : FrameRecord} (hr : b.store.record k n = some r) (v : Verdict)
include hr

/-- The block when the verdict has been written, before the Repair Engine is told. -/
theorem Block.verdictWritten_record (ff : Bool) : (b.updStore (fun st => st.verdictClaim k n v ff)).store.record k n = some (r.given v ff) := by
  rw [Block.updStore_store, Store.verdictClaim_record, hr]
  rfl

theorem Block.giveVerdict_unqueued (hq : r.queued = false) (ff : Bool) : b.giveVerdict k n v ff = b.updStore (fun st => st.verdictClaim k n v ff) := by
  unfold Block.giveVerdict
  dsimp only
  rw [Block.verdictWritten_record hr v ff]
  exact if_neg (by rw [show (r.given v ff).queued = false from hq]; exact Bool.false_ne_true)

theorem Block.giveVerdict_suspect (hq : r.queued = true) : b.giveVerdict k n v true = (b.updStore (fun st => st.verdictClaim k n v true)).startPass := by
  unfold Block.giveVerdict
  dsimp only
  rw [Block.verdictWritten_record hr v true]
  exact if_pos hq

theorem Block.giveVerdict_sound (hq : r.queued = true) :
    b.giveVerdict k n v false = ((b.updStore (fun st => st.verdictClaim k n v false)).dropEntry { slot := k, frame := n }).startPass := by
  unfold Block.giveVerdict
  dsimp only
  rw [Block.verdictWritten_record hr v false]
  exact if_pos hq

/-- The verdict claim with its tells: the record is judged, and a queued record found SOUND has lost its entry (R171). -/
theorem Block.giveVerdict_judged (ff asked : Bool) : ∃ r', (b.giveVerdict k n v ff).store.record k n = some r' ∧ r.Judged v ff asked r' ∧
    (ff = false → r.queued = true → (b.giveVerdict k n v ff).repair.find { slot := k, frame := n } = none) := by
  have written := Block.verdictWritten_record hr v ff
  cases hq : r.queued with
  | false =>
    rw [Block.giveVerdict_unqueued hr v hq]
    refine ⟨_, written, ⟨⟨rfl, rfl, rfl, rfl, rfl⟩, fun hf => ⟨by rw [hf]; rfl, hq⟩,
      fun hf => .inl (by rw [hf]; rfl), fun _ hq' => ?_, fun hf _ _ => ⟨by rw [hf]; rfl, hq⟩⟩, fun _ hq' => by cases hq'⟩
    rw [hq] at hq'
    cases hq'
  | true =>
    cases ff with
    | true =>
      rw [Block.giveVerdict_suspect hr v hq]
      obtain ⟨r', hr', turns⟩ := (Later.startPass _).records k n _ written
      have judged : r.Judged v true asked (r.given v true) :=
        ⟨⟨rfl, rfl, rfl, rfl, rfl⟩, nofun, fun _ => .inl rfl, fun _ _ => hq, fun _ hq' => by rw [hq] at hq'; cases hq'⟩
      exact ⟨r', hr', judged.turns turns, nofun⟩
    | false =>
      rw [Block.giveVerdict_sound hr v hq]
      generalize hd : (b.updStore (fun st => st.verdictClaim k n v false)).dropEntry { slot := k, frame := n } = dropped
      have absent : (⟨k, n⟩ : EntryKey) ∉ dropped.repair.keys := by rw [← hd]; exact RepairEngine.keys_remove _ _
      have record : dropped.store.record k n = some { r.given v false with queued := false } := by
        rw [← hd]
        refine (Store.unqueueClaim_record _ k n).trans ?_
        rw [written]
        rfl
      have passed := Passed.startPass dropped
      refine ⟨_, (passed.record_of_absent absent).trans record, ⟨⟨rfl, rfl, rfl, rfl, rfl⟩, fun _ => ⟨rfl, rfl⟩, nofun, nofun, nofun⟩, fun _ _ => ?_⟩
      exact RepairEngine.find_eq_none.2 (passed.keys ▸ absent)

end

/-- An enqueue request for a record that a claim has judged with a frame finding: the record stays judged (R151). -/
theorem Block.enqueue_judged {b : Block} {k : EntryKey} {r r' : FrameRecord} {v : Verdict} (hr : b.store.record k.slot k.frame = some r') (h : r.Judged v true true r')
    (cause : Option FindingClass) (seq awaits : Option Nat) (damaged : Fin 8) (allowed : Bool) :
    ∃ r'', (b.enqueue k cause seq awaits damaged allowed).store.record k.slot k.frame = some r'' ∧ r.Judged v true true r'' := by
  unfold Block.enqueue
  split
  · exact ⟨r', hr, h⟩
  · split
    · exact ⟨r', hr, h⟩
    · split
      · next m _ source _ hg =>
        obtain ⟨hs, hq⟩ := Store.queueGranted_record hr hg.2
        have queued : (b.appendEntry k cause seq awaits damaged source allowed).store.record k.slot k.frame = some { r' with queued := true } := by
          refine (Store.queueClaim_record _ _ _).trans ?_
          rw [hr]
          rfl
        have judged : r.Judged v true true { r' with queued := true } := ⟨h.given, nofun, fun _ => .inl hs, fun _ _ => rfl, nofun⟩
        obtain ⟨r'', hr'', turns⟩ := (Later.startPass _).records _ _ _ queued
        exact ⟨r'', hr'', judged.turns turns⟩
      · exact ⟨r', hr, h⟩

/-- The verdict claim, then the enqueue its answer asks for (R103, R130). -/
theorem Block.claimVerdict_judged {b : Block} {c : Campaign} {n : Nat} {r : FrameRecord} (hr : b.store.record c.slot n = some r) (v : Verdict) {ans : Answer}
    (ha : ans.enqueue = true → ans.frameFinding = true) : ∃ r', (b.claimVerdict c n v ans).store.record c.slot n = some r' ∧ r.Judged v ans.frameFinding ans.enqueue r' ∧
      (ans.frameFinding = false → r.queued = true → (b.claimVerdict c n v ans).repair.find { slot := c.slot, frame := n } = none) := by
  obtain ⟨r', hr', judged, gone⟩ := Block.giveVerdict_judged hr v ans.frameFinding ans.enqueue
  unfold Block.claimVerdict
  cases he : ans.enqueue with
  | false =>
    rw [he] at judged
    exact ⟨r', hr', judged, gone⟩
  | true =>
    have hf := ha he
    rw [he, hf] at judged
    rw [hf] at hr' ⊢
    obtain ⟨r'', hr'', judged'⟩ := Block.enqueue_judged (k := { slot := c.slot, frame := n }) hr' judged ans.cause ans.sequence ans.awaits c.lane ans.rewrite
    exact ⟨r'', hr'', judged', nofun⟩

end Sys2Proof.Machine
end

section
/-! SUPPORT. What a campaign does with a frame's result (R103, R104, R115, R116, R127 to R130, R134, R140, R141). -/
namespace Sys2Proof.Machine

/-! ## The classes of a result (R39, R125) -/

theorem ClassSet.highest_eq_none (s : ClassSet) : ClassSet.highest s = none ↔ s = 0 := by
  have all : ∀ c : FindingClass, c ∈ FindingClass.all := fun c => by cases c <;> decide
  rw [ClassSet.eq_zero_iff]
  unfold ClassSet.highest
  rw [List.find?_eq_none]
  exact ⟨fun h c => Bool.eq_false_iff.2 (h c (all c)), fun h c _ => Bool.eq_false_iff.1 (h c)⟩

theorem ClassSet.has_frameLevel (c : FindingClass) : ClassSet.has ClassSet.frameLevel c = true ↔ 1 ≤ c.number ∧ c.number ≤ 5 := by
  cases c <;> decide

/-- A set meets the frame-level classes when one of the classes 1 to 5 stands in it. -/
theorem ClassSet.meets_frameLevel (s : ClassSet) : s &&& ClassSet.frameLevel ≠ 0 ↔ ∃ k : FindingClass, 1 ≤ k.number ∧ k.number ≤ 5 ∧ ClassSet.has s k = true := by
  rw [ne_eq, ClassSet.eq_zero_iff, not_forall]
  refine exists_congr fun c => ?_
  rw [Bool.not_eq_false, ClassSet.has_and, Bool.and_eq_true, ClassSet.has_frameLevel]
  exact ⟨fun ⟨hs, h1, h5⟩ => ⟨h1, h5, hs⟩, fun ⟨h1, h5, hs⟩ => ⟨hs, h1, h5⟩⟩

theorem Decision.frameFinding_iff (d : Decision) : d.frameFinding = true ↔ ∃ k : FindingClass, 1 ≤ k.number ∧ k.number ≤ 5 ∧ ClassSet.has d.recognised k = true := by
  rw [← ClassSet.meets_frameLevel]
  exact bne_iff_ne

theorem Decision.causeClass_iff (d : Decision) : d.causeClass.isSome = true ↔ ∃ k : FindingClass, 1 ≤ k.number ∧ k.number ≤ 5 ∧ ClassSet.has d.noted k = true := by
  rw [← ClassSet.meets_frameLevel, Option.isSome_iff_ne_none, ne_eq, Decision.causeClass, ClassSet.highest_eq_none]

/-- A result of code 0 hands no condition, and none hands IDENTITY. -/
theorem conditionsOf_sound {length : Nat} {expected : Word64} {res : FrameResult} (h : verdictOf length expected res = .sound) :
    conditionsOf length expected res = 0 := by
  cases res with
  | complete received digest =>
    unfold verdictOf at h
    unfold conditionsOf
    dsimp only at h ⊢
    by_cases hr : received = length
    · rw [if_pos hr] at h ⊢
      by_cases hd : digest = expected
      · rw [if_pos hd]
      · rw [if_neg hd] at h
        cases h
    · rw [if_neg hr] at h
      cases h
  | fault => cases h
  | notFound => cases h
  | substituted => cases h
  | restartLimit => cases h

theorem conditionsOf_identity (length : Nat) (expected : Word64) (res : FrameResult) : ClassSet.has (conditionsOf length expected res) .identity = false := by
  cases res with
  | complete received digest =>
    unfold conditionsOf
    dsimp only
    split
    · split <;> decide
    · split
      · decide
      · split <;> decide
  | fault => exact (by decide : ClassSet.has FindingClass.unreadable.set .identity = false)
  | notFound => exact (by decide : ClassSet.has FindingClass.missing.set .identity = false)
  | substituted => exact (by decide : ClassSet.has (FindingClass.missing.set ||| FindingClass.stray.set) .identity = false)
  | restartLimit => exact (by decide : ClassSet.has FindingClass.unreadable.set .identity = false)

/-! ## The Recorder's decision (R127, R128) -/

section
variable (r : Recorder) (p : ProfileChoice) (disregard conditions : ClassSet)

theorem Recorder.judge_noted {k : FindingClass} (h : ClassSet.has (r.judge p disregard conditions).noted k = true) :
    ClassSet.has (r.judge p disregard conditions).recognised k = true := by
  unfold Recorder.judge at h
  dsimp only at h
  rw [ClassSet.has_and, Bool.and_eq_true] at h
  exact h.1

theorem Recorder.judge_outcome (h : ClassSet.has conditions .identity = false) :
    (r.judge p disregard conditions).outcome = if (r.judge p disregard conditions).halts ≠ 0 then .halt else .goOn := by
  have noted : ClassSet.has (r.judge p disregard conditions).noted .identity = false := Bool.eq_false_iff.2 fun hn => by
    have recognised := r.judge_noted p disregard conditions hn
    unfold Recorder.judge at recognised
    dsimp only at recognised
    rw [ClassSet.has_and, h] at recognised
    cases recognised
  have identity : (if ClassSet.has (r.judge p disregard conditions).noted .identity then EventOutcome.finish else .goOn) = .goOn :=
    if_neg (by rw [noted]; exact Bool.false_ne_true)
  rw [← identity]
  rfl

/-- A decision halts with a halt code, and goes on without one. -/
theorem Decision.haltCode_none (d : Decision) : d.haltCode = none ↔ d.halts = 0 := by
  unfold Decision.haltCode
  rw [Option.map_eq_none_iff, ClassSet.highest_eq_none]

theorem Recorder.judge_unrecognised (h : conditions = 0) : (r.judge p disregard conditions).recognised = 0 := by
  subst h
  exact BitVec.zero_and

end

/-! ## The event and its answer (R115, R128, R130, R134, R141) -/

section
variable {p : Block} {c : Campaign} {ev : Event} (h : (p.recorder.judge c.profile c.disregard ev.conditions).recognised ≠ 0)
include h

/-- A recognised event flags its noted classes, and its finding is logged or made pending. -/
theorem Block.takeEvent_recorder : (p.takeEvent c ev).2.recorder =
    let d := p.recorder.judge c.profile c.disregard ev.conditions
    let f := makeFinding p.store c ev d
    if p.recorder.logsNow then (p.recorder.flag d.noted).append f else (p.recorder.flag d.noted).await f (p.recorder.callsForSuspect ev d) := by
  have taken := congrArg (fun x : Answer × Block => x.2.recorder) (show p.takeEvent c ev = _ from if_neg h)
  refine taken.trans ?_
  have kept : ∀ (b : Block) (f : Finding) (w : Bool), (b.keepFinding f w).recorder = if b.recorder.logsNow then b.recorder.append f else b.recorder.await f w := fun b f w => by
    unfold Block.keepFinding
    split <;> rfl
  dsimp only
  split
  · exact kept _ _ _
  · exact kept _ _ _

theorem Block.takeEvent_answer : (p.takeEvent c ev).1.frameFinding = (p.recorder.judge c.profile c.disregard ev.conditions).frameFinding ∧
    (p.takeEvent c ev).1.enqueue = p.recorder.callsForSuspect ev (p.recorder.judge c.profile c.disregard ev.conditions) := by
  rw [show p.takeEvent c ev = _ from if_neg h]
  exact ⟨rfl, rfl⟩

end

/-! ## The campaign acts on the answer (R104, R115, R116) -/

theorem Campaign.advance_eq (c : Campaign) : c.advance = { c with
    resumePoint := c.resumePoint.bind (fun p => if 0 < c.step ∧ p + c.step ≤ c.windowLast then some (p + c.step) else none), frameRestarts := 0 } := by
  unfold Campaign.advance
  cases c.resumePoint <;> rfl

theorem Counts.add_eq (k : Counts) (v : Verdict) : k.add v =
    { sound := if v = .sound then k.sound + 1 else k.sound, damaged := if v = .damaged then k.damaged + 1 else k.damaged,
      missized := if v = .missized then k.missized + 1 else k.missized, uncomparable := if v = .uncomparable then k.uncomparable + 1 else k.uncomparable,
      skipped := k.skipped } := by
  cases v <;> rfl

section
variable (b : Block) (id : Nat) (ans : Answer) (viaLane : Bool)

theorem Block.applyAnswer_goesOn (ho : ans.outcome = .goOn) (hp : ans.pending = false) : b.applyAnswer id ans viaLane = b.updCampaign id (Campaign.takeAnswer ans) := by
  unfold Block.applyAnswer
  dsimp only
  split
  · rfl
  · rw [ho]
    exact if_neg (by rw [hp]; exact Bool.false_ne_true)

variable {c : Campaign} (hc : (b.updCampaign id (Campaign.takeAnswer ans)).campaign id = some c)
include hc

/-- A campaign that halts, or whose finding is pending, is held once its session has ended. -/
theorem Block.applyAnswer_holds {cause : HeldCause} (h : (ans.outcome = .halt ∧ cause = if ans.pending then .logFull else .finding) ∨
      (ans.outcome = .goOn ∧ ans.pending = true ∧ cause = .logFull)) :
    ∃ ended, Later (b.updCampaign id (Campaign.takeAnswer ans)) ended ∧ b.applyAnswer id ans viaLane = ended.holdCampaign id cause := by
  refine ⟨if viaLane then (b.updCampaign id (Campaign.takeAnswer ans)).campaignEndsSession c else b.updCampaign id (Campaign.takeAnswer ans), ?_, ?_⟩
  · split
    · exact .campaignEndsSession _ c
    · exact .refl _
  · unfold Block.applyAnswer
    dsimp only
    rw [hc]
    rcases h with ⟨ho, rfl⟩ | ⟨ho, hp, rfl⟩
    · rw [ho]
    · rw [ho]
      exact if_pos hp

end

/-- A campaign that acts on an answer that does not end it settles nothing, and changes no campaign but by its state and the cause it is held for. -/
theorem Later.applyAnswer {b : Block} {id : Nat} {ans : Answer} {c : Campaign} (hc : (b.updCampaign id (Campaign.takeAnswer ans)).campaign id = some c)
    (ho : ans.outcome ≠ .finish) (viaLane : Bool) : Later (b.updCampaign id (Campaign.takeAnswer ans)) (b.applyAnswer id ans viaLane) := by
  have held : ∀ {cause : HeldCause}, ((ans.outcome = .halt ∧ cause = if ans.pending then .logFull else .finding) ∨
      (ans.outcome = .goOn ∧ ans.pending = true ∧ cause = .logFull)) →
      Later (b.updCampaign id (Campaign.takeAnswer ans)) (b.applyAnswer id ans viaLane) := fun h => by
    obtain ⟨ended, later, e⟩ := Block.applyAnswer_holds b id ans viaLane hc h
    rw [e]
    exact later.trans (.holdCampaign ended id _)
  cases hans : ans.outcome with
  | finish => exact absurd hans ho
  | halt => exact held (.inl ⟨hans, rfl⟩)
  | goOn =>
    cases hp : ans.pending with
    | true => exact held (.inr ⟨hans, hp, rfl⟩)
    | false =>
      rw [b.applyAnswer_goesOn id ans viaLane hans hp]
      exact .refl _

/-! ## The whole (R103) -/

/-- The campaign with a verdict counted, its resume point moved on, and an answer taken. -/
def Campaign.resulted (c : Campaign) (v : Verdict) (ans : Answer) : Campaign := Campaign.takeAnswer ans (Campaign.advance { c with counts := c.counts.add v })

/-- The event of a result: its answer, and the block with the verdict counted and the event taken. -/
def Block.resultOf (b : Block) (c : Campaign) (frame : Nat) (r : FrameRecord) (length : Nat) (res : FrameResult) : Answer × Block :=
  (b.updCampaign c.id (fun x => { x with counts := x.counts.add (verdictOf length r.digest res) })).resultEvent c frame (verdictOf length r.digest res)
    (conditionsOf length r.digest res) res.delivered

/-- The Recorder's decision on a result. -/
def Block.decisionOf (b : Block) (c : Campaign) (r : FrameRecord) (length : Nat) (res : FrameResult) : Decision :=
  b.recorder.judge c.profile c.disregard (conditionsOf length r.digest res)

/-- The event that a result other than SOUND makes (R103, R134). -/
def eventOf (frame : Nat) (r : FrameRecord) (length : Nat) (res : FrameResult) : Event :=
  { conditions := conditionsOf length r.digest res, frame := some (verdictOf length r.digest res, frame), delivered := res.delivered, annotation := none }

/-- The block when the verdict has been claimed and the campaign has taken the answer, before the campaign acts on it. -/
def Block.claimedOf (b : Block) (c : Campaign) (frame : Nat) (r : FrameRecord) (length : Nat) (res : FrameResult) : Block :=
  let out := b.resultOf c frame r length res
  ((out.2.claimVerdict c frame (verdictOf length r.digest res) out.1).updCampaign c.id Campaign.advance).updCampaign c.id (Campaign.takeAnswer out.1)

section
variable {b : Block} {c : Campaign} {frame : Nat} {r : FrameRecord} {length : Nat} {res : FrameResult}

theorem Block.decisionOf_noted {k : FindingClass} (h : ClassSet.has (b.decisionOf c r length res).noted k = true) :
    ClassSet.has (b.decisionOf c r length res).recognised k = true := Recorder.judge_noted _ _ _ _ h

/-- A result's event halts the campaign when a halting class is recognised, and otherwise lets it go on: none hands IDENTITY. -/
theorem Block.decisionOf_outcome : (b.decisionOf c r length res).outcome = if (b.decisionOf c r length res).halts ≠ 0 then .halt else .goOn :=
  Recorder.judge_outcome _ _ _ _ (conditionsOf_identity _ _ _)

/-- A result with no class recognised makes no event. -/
theorem Block.resultOf_quiet (h : (b.decisionOf c r length res).recognised = 0) : b.resultOf c frame r length res =
    (Answer.empty, b.updCampaign c.id (fun x => { x with counts := x.counts.add (verdictOf length r.digest res) })) := by
  unfold Block.resultOf Block.resultEvent
  split
  · rfl
  · exact Block.takeEvent_none h

/-- A result with a class recognised makes an event, for it is not SOUND. -/
theorem Block.resultOf_event (h : (b.decisionOf c r length res).recognised ≠ 0) : b.resultOf c frame r length res =
    (b.updCampaign c.id (fun x => { x with counts := x.counts.add (verdictOf length r.digest res) })).takeEvent c (eventOf frame r length res) := by
  have unsound : verdictOf length r.digest res ≠ .sound := fun hv => h (Recorder.judge_unrecognised _ _ _ _ (conditionsOf_sound hv))
  unfold Block.resultOf Block.resultEvent
  exact if_neg unsound

theorem Block.resultOf_sched : (b.resultOf c frame r length res).2.sched =
    b.sched.upd c.id (fun x => { x with counts := x.counts.add (verdictOf length r.digest res) }) := by
  by_cases h : (b.decisionOf c r length res).recognised = 0
  · rw [Block.resultOf_quiet h]
    rfl
  · rw [Block.resultOf_event h, Block.takeEvent_sched]
    rfl

theorem Block.resultOf_record (k : Fin 16) (n : Nat) : (b.resultOf c frame r length res).2.store.record k n = b.store.record k n := by
  by_cases h : (b.decisionOf c r length res).recognised = 0
  · rw [Block.resultOf_quiet h]
    rfl
  · rw [Block.resultOf_event h, Block.takeEvent_record]
    rfl

/-- The answer to a result: whether a frame finding is recognised, and whether an enqueue is asked for (R130). -/
theorem Block.resultOf_answer : (b.resultOf c frame r length res).1.frameFinding = (b.decisionOf c r length res).frameFinding ∧
    (b.resultOf c frame r length res).1.enqueue =
      ((b.decisionOf c r length res).causeClass.isSome && (b.recorder.profiles[(b.decisionOf c r length res).profile]).enqueue) := by
  by_cases h : (b.decisionOf c r length res).recognised = 0
  · have finding : (b.decisionOf c r length res).frameFinding = false := Bool.eq_false_iff.2 fun hf => by
      obtain ⟨k, -, -, hk⟩ := (Decision.frameFinding_iff _).1 hf
      rw [(ClassSet.eq_zero_iff _).1 h k] at hk
      cases hk
    have cause : (b.decisionOf c r length res).causeClass.isSome = false := Bool.eq_false_iff.2 fun hf => by
      obtain ⟨k, -, -, hk⟩ := (Decision.causeClass_iff _).1 hf
      have recognised := Block.decisionOf_noted hk
      rw [(ClassSet.eq_zero_iff _).1 h k] at recognised
      cases recognised
    rw [Block.resultOf_quiet h, finding, cause]
    exact ⟨rfl, rfl⟩
  · rw [Block.resultOf_event h]
    exact Block.takeEvent_answer h

theorem Block.resultOf_asks (h : (b.resultOf c frame r length res).1.enqueue = true) : (b.resultOf c frame r length res).1.frameFinding = true := by
  obtain ⟨finding, enqueue⟩ := Block.resultOf_answer (b := b) (c := c) (frame := frame) (r := r) (length := length) (res := res)
  rw [enqueue, Bool.and_eq_true] at h
  obtain ⟨k, h1, h5, hk⟩ := (Decision.causeClass_iff _).1 h.1
  rw [finding]
  exact (Decision.frameFinding_iff _).2 ⟨k, h1, h5, Block.decisionOf_noted hk⟩

theorem Block.claimedOf_recorder : (b.claimedOf c frame r length res).recorder = (b.resultOf c frame r length res).2.recorder :=
  (Block.claimVerdict_filed _ c frame _ _).1.recorder

theorem Block.claimedOf_campaign (hc : b.campaign c.id = some c) : (b.claimedOf c frame r length res).campaign c.id =
    some (c.resulted (verdictOf length r.digest res) (b.resultOf c frame r length res).1) := by
  have claimed : ((b.resultOf c frame r length res).2.claimVerdict c frame (verdictOf length r.digest res) (b.resultOf c frame r length res).1).campaign c.id =
      some { c with counts := c.counts.add (verdictOf length r.digest res) } := by
    unfold Block.campaign
    rw [(Block.claimVerdict_filed _ c frame _ _).1.sched, Block.resultOf_sched]
    refine (Scheduler.find_upd _ _ (fun x => { x with counts := x.counts.add (verdictOf length r.digest res) }) fun _ => rfl).trans ?_
    rw [show b.sched.find c.id = some c from hc]
    rfl
  unfold Block.claimedOf
  dsimp only
  rw [Block.campaign_updCampaign _ _ _ (Campaign.takeAnswer _) fun _ => rfl, if_pos rfl, Block.campaign_updCampaign _ _ _ Campaign.advance fun _ => rfl, if_pos rfl, claimed]
  rfl

theorem Block.claimedOf_record (hr : b.store.record c.slot frame = some r) : ∃ r', (b.claimedOf c frame r length res).store.record c.slot frame = some r' ∧
    r.Judged (verdictOf length r.digest res) (b.resultOf c frame r length res).1.frameFinding (b.resultOf c frame r length res).1.enqueue r' ∧
      ((b.resultOf c frame r length res).1.frameFinding = false → r.queued = true →
        (b.claimedOf c frame r length res).repair.find { slot := c.slot, frame := frame } = none) :=
  Block.claimVerdict_judged ((Block.resultOf_record c.slot frame).trans hr) _ Block.resultOf_asks

/-- The answer to a result's event is the Recorder's decision (R129). -/
theorem Block.resultOf_decided (h : (b.decisionOf c r length res).recognised ≠ 0) : (b.resultOf c frame r length res).1.noted = (b.decisionOf c r length res).noted ∧
    (b.resultOf c frame r length res).1.outcome = (b.decisionOf c r length res).outcome ∧
    (b.resultOf c frame r length res).1.haltCode = (b.decisionOf c r length res).haltCode ∧ (b.resultOf c frame r length res).1.pending = !b.recorder.logsNow := by
  obtain ⟨noted, outcome, haltCode, pending, -⟩ := Block.takeEvent_spec
    (b.updCampaign c.id (fun x => { x with counts := x.counts.add (verdictOf length r.digest res) })) c (eventOf frame r length res) h
  rw [Block.resultOf_event h]
  exact ⟨noted, outcome, haltCode, pending⟩

/-- What a result's event leaves of the recorder (R132, R140, R141). -/
theorem Block.resultOf_recorder (h : (b.decisionOf c r length res).recognised ≠ 0) : (b.resultOf c frame r length res).2.recorder =
    if b.recorder.logsNow then (b.recorder.flag (b.decisionOf c r length res).noted).append (makeFinding b.store c (eventOf frame r length res) (b.decisionOf c r length res))
    else (b.recorder.flag (b.decisionOf c r length res).noted).await (makeFinding b.store c (eventOf frame r length res) (b.decisionOf c r length res))
      (b.recorder.callsForSuspect (eventOf frame r length res) (b.decisionOf c r length res)) := by
  rw [Block.resultOf_event h]
  exact Block.takeEvent_recorder h

/-- A result's event ends no campaign. -/
theorem Block.resultOf_outcome : (b.resultOf c frame r length res).1.outcome ≠ .finish := by
  by_cases h : (b.decisionOf c r length res).recognised = 0
  · rw [Block.resultOf_quiet h]
    exact nofun
  · obtain ⟨-, outcome, -, -⟩ := Block.resultOf_decided (frame := frame) h
    rw [outcome, Block.decisionOf_outcome]
    split <;> exact nofun

theorem Block.campaignResult_eq (hc : b.campaign c.id = some c) (hr : b.store.record c.slot frame = some r) (hl : r.length = some length) (viaLane : Bool) :
    b.campaignResult c.id frame res viaLane =
      (((b.resultOf c frame r length res).2.claimVerdict c frame (verdictOf length r.digest res) (b.resultOf c frame r length res).1).updCampaign c.id
        Campaign.advance).applyAnswer c.id (b.resultOf c frame r length res).1 viaLane := by
  unfold Block.campaignResult
  rw [hc]
  dsimp only
  rw [Store.expects_of hr hl]
  rfl

theorem Later.campaignResult (hc : b.campaign c.id = some c) (hr : b.store.record c.slot frame = some r) (hl : r.length = some length) (viaLane : Bool) :
    Later (b.claimedOf c frame r length res) (b.campaignResult c.id frame res viaLane) := by
  rw [Block.campaignResult_eq hc hr hl]
  exact Later.applyAnswer (Block.claimedOf_campaign hc) Block.resultOf_outcome viaLane

/-- A result with no class recognised: the verdict is counted and claimed, and the campaign moves on. -/
theorem Block.campaignResult_quiet (hc : b.campaign c.id = some c) (hr : b.store.record c.slot frame = some r) (hl : r.length = some length) (viaLane : Bool)
    (h : (b.decisionOf c r length res).recognised = 0) : b.campaignResult c.id frame res viaLane = b.claimedOf c frame r length res := by
  rw [Block.campaignResult_eq hc hr hl]
  refine Block.applyAnswer_goesOn _ _ _ viaLane ?_ ?_
  · rw [Block.resultOf_quiet h]
    rfl
  · rw [Block.resultOf_quiet h]
    rfl

theorem Block.claimedOf_still : Still b (b.claimedOf c frame r length res) := by
  have still : Still b (b.resultOf c frame r length res).2 := ((Still.refl b).updCampaign _ _).resultEvent _ _ _ _ _
  exact .updCampaign (.updCampaign (.claimVerdict still c frame _ _) _ _) _ _

/-- The campaign moves on by its step, with the verdict counted. -/
theorem Campaign.resulted_empty (c : Campaign) (v : Verdict) : c.resulted v Answer.empty = { c with
    counts := c.counts.add v
    resumePoint := c.resumePoint.bind (fun p => if 0 < c.step ∧ p + c.step ≤ c.windowLast then some (p + c.step) else none), frameRestarts := 0 } := by
  unfold Campaign.resulted Campaign.takeAnswer
  rw [Campaign.advance_eq]
  simp [Answer.empty]

theorem Campaign.resulted_point (c : Campaign) (v : Verdict) (ans : Answer) : (c.resulted v ans).resumePoint =
    c.resumePoint.bind (fun p => if 0 < c.step ∧ p + c.step ≤ c.windowLast then some (p + c.step) else none) := by
  unfold Campaign.resulted
  rw [Campaign.advance_eq]
  rfl

theorem Campaign.resulted_stands (c : Campaign) (v : Verdict) (ans : Answer) : (c.resulted v ans).state = c.state ∧ (c.resulted v ans).heldCause = c.heldCause := by
  unfold Campaign.resulted
  rw [Campaign.advance_eq]
  exact ⟨rfl, rfl⟩

/-- The halt code is the answer's where it has one. -/
theorem Campaign.resulted_haltCode (c : Campaign) (v : Verdict) (ans : Answer) : (c.resulted v ans).haltCode = (ans.haltCode <|> c.haltCode) := by
  unfold Campaign.resulted Campaign.takeAnswer
  cases ans.haltCode <;> rfl

/-- A SOUND result leaves an unqueued record as its verdict claim writes it. -/
theorem Block.claimedOf_sound (hr : b.store.record c.slot frame = some r) (hv : verdictOf length r.digest res = .sound) (hq : r.queued = false) :
    (b.claimedOf c frame r length res).store.record c.slot frame = some (r.given .sound false) := by
  have quiet : (b.decisionOf c r length res).recognised = 0 := Recorder.judge_unrecognised _ _ _ _ (conditionsOf_sound hv)
  unfold Block.claimedOf
  rw [Block.resultOf_quiet quiet, hv]
  show ((b.updCampaign c.id (fun x => { x with counts := x.counts.add .sound })).giveVerdict c.slot frame .sound false).store.record c.slot frame = _
  have record : (b.updCampaign c.id (fun x => { x with counts := x.counts.add .sound })).store.record c.slot frame = some r := hr
  rw [Block.giveVerdict_unqueued record .sound hq]
  exact Block.verdictWritten_record record .sound false

/-- A campaign that acts by being held: the campaign it leaves. -/
theorem Block.campaignResult_held (hc : b.campaign c.id = some c) (hr : b.store.record c.slot frame = some r) (hl : r.length = some length) (viaLane : Bool)
    {cause : HeldCause} (h : ((b.resultOf c frame r length res).1.outcome = .halt ∧ cause = if (b.resultOf c frame r length res).1.pending then .logFull else .finding) ∨
      ((b.resultOf c frame r length res).1.outcome = .goOn ∧ (b.resultOf c frame r length res).1.pending = true ∧ cause = .logFull)) :
    (b.campaignResult c.id frame res viaLane).campaign c.id =
      some ((c.resulted (verdictOf length r.digest res) (b.resultOf c frame r length res).1).heldFor cause) := by
  have claimed := Block.claimedOf_campaign (frame := frame) (r := r) (length := length) (res := res) hc
  obtain ⟨ended, later, e⟩ := Block.applyAnswer_holds _ c.id _ viaLane claimed h
  obtain ⟨st, was, hended⟩ := later.campaigns c.id _ claimed
  rw [Block.campaignResult_eq hc hr hl, e, Block.holdCampaign_campaign, if_pos rfl, hended]
  rfl

/-- A campaign that goes on with its finding logged stays as it stands. -/
theorem Block.campaignResult_goesOn (hc : b.campaign c.id = some c) (hr : b.store.record c.slot frame = some r) (hl : r.length = some length) (viaLane : Bool)
    (ho : (b.resultOf c frame r length res).1.outcome = .goOn) (hp : (b.resultOf c frame r length res).1.pending = false) :
    b.campaignResult c.id frame res viaLane = b.claimedOf c frame r length res := by
  rw [Block.campaignResult_eq hc hr hl]
  exact Block.applyAnswer_goesOn _ _ _ viaLane ho hp

/-- What a recognised event makes of the campaign (R104, R115, R116): it is held when it halts or its finding is pending, and otherwise stays as it stands. -/
theorem Block.campaignResult_campaign (hc : b.campaign c.id = some c) (hr : b.store.record c.slot frame = some r) (hl : r.length = some length) (viaLane : Bool)
    (h : (b.decisionOf c r length res).recognised ≠ 0) :
    let d := b.decisionOf c r length res
    let after := b.campaignResult c.id frame res viaLane
    ∃ c', after.campaign c.id = some c' ∧ c'.counts = c.counts.add (verdictOf length r.digest res) ∧
      c'.resumePoint = c.resumePoint.bind (fun p => if 0 < c.step ∧ p + c.step ≤ c.windowLast then some (p + c.step) else none) ∧ c'.noted = c.noted ||| d.noted ∧
      (d.outcome = .halt → c'.state = .held ∧ c'.haltCode = d.haltCode ∧ c'.heldCause = some (if b.recorder.logsNow then .finding else .logFull)) ∧
      (d.outcome = .goOn → b.recorder.logsNow = false → c'.state = .held ∧ c'.heldCause = some .logFull) ∧
      (d.outcome = .goOn → b.recorder.logsNow = true → c'.state = c.state ∧ c'.heldCause = c.heldCause ∧ c'.haltCode = c.haltCode ∧
        after.lanes = b.lanes ∧ after.pool = b.pool) := by
  intro d after
  obtain ⟨noted, outcome, haltCode, pending⟩ := Block.resultOf_decided (frame := frame) h
  have point := c.resulted_point (verdictOf length r.digest res) (b.resultOf c frame r length res).1
  have classes : (c.resulted (verdictOf length r.digest res) (b.resultOf c frame r length res).1).noted = c.noted ||| d.noted := congrArg (c.noted ||| ·) noted
  have code := c.resulted_haltCode (verdictOf length r.digest res) (b.resultOf c frame r length res).1
  obtain ⟨stands, cause⟩ := c.resulted_stands (verdictOf length r.digest res) (b.resultOf c frame r length res).1
  rw [haltCode] at code
  have decided : d.outcome = if d.halts ≠ 0 then .halt else .goOn := Block.decisionOf_outcome
  by_cases halts : d.halts = 0
  case neg =>
    rw [if_pos halts] at decided
    have held := Block.campaignResult_held hc hr hl viaLane (.inl ⟨outcome.trans decided, rfl⟩)
    obtain ⟨x, hx⟩ := Option.ne_none_iff_exists'.1 (mt d.haltCode_none.1 halts)
    refine ⟨_, held, rfl, point, classes, fun _ => ⟨rfl, ?_, ?_⟩, fun ho => ?_, fun ho => ?_⟩
    · rw [hx]
      rw [show (b.decisionOf c r length res).haltCode = some x from hx] at code
      exact code
    · rw [pending]
      cases b.recorder.logsNow <;> rfl
    · rw [decided] at ho; cases ho
    · rw [decided] at ho; cases ho
  case pos =>
    rw [if_neg (not_not.2 halts)] at decided
    rw [show (b.decisionOf c r length res).haltCode = none from d.haltCode_none.2 halts] at code
    have runs : ∀ {P : Prop}, d.outcome = .halt → P := fun ho => by rw [decided] at ho; cases ho
    cases hlog : b.recorder.logsNow with
    | true =>
      have stays : after = b.claimedOf c frame r length res :=
        Block.campaignResult_goesOn hc hr hl viaLane (outcome.trans decided) (by rw [pending, hlog]; rfl)
      rw [stays]
      exact ⟨_, Block.claimedOf_campaign hc, rfl, point, classes, runs, fun _ => nofun,
        fun _ _ => ⟨stands, cause, code, Block.claimedOf_still.lanes, Block.claimedOf_still.pool⟩⟩
    | false =>
      have held := Block.campaignResult_held hc hr hl viaLane (.inr ⟨outcome.trans decided, by rw [pending, hlog]; rfl, rfl⟩)
      exact ⟨_, held, rfl, point, classes, runs, fun _ _ => ⟨rfl, rfl⟩, fun _ => nofun⟩

end

theorem FrameResult.delivered_eq (res : FrameResult) : res.delivered = match res with | .substituted _ n => some n | _ => none := by
  cases res <;> rfl

/-- Settles O49: the recorder's part from the event, the record's from the verdict claim and what follows it, the campaign's from its answer. -/
theorem resultsAreCounted : Obligations.ResultsAreCounted := by
  intro b id frame res c r length viaLane hc hr hl v d after next count counts frameFinding frameNoted delivered
  obtain rfl : c.id = id := Scheduler.find_id hc
  have hcounts : c.counts.add v = counts := Counts.add_eq _ _
  have later : Later (b.claimedOf c frame r length res) after := Later.campaignResult hc hr hl viaLane
  have recorder : after.recorder = (b.resultOf c frame r length res).2.recorder := later.recorder.trans Block.claimedOf_recorder
  have quiet : v = .sound ∨ d.recognised = 0 → d.recognised = 0 := fun h => h.elim (fun hv => Recorder.judge_unrecognised _ _ _ _ (conditionsOf_sound hv)) id
  obtain ⟨finding, asks⟩ := Block.resultOf_answer (b := b) (c := c) (frame := frame) (r := r) (length := length) (res := res)
  refine ⟨fun h => ?_, fun hv hq => ?_, ?_, fun _ h => ?_⟩
  · have stays : after = b.claimedOf c frame r length res := Block.campaignResult_quiet hc hr hl viaLane (quiet h)
    refine ⟨?_, ?_, by rw [stays]; exact Block.claimedOf_still.lanes, by rw [stays]; exact Block.claimedOf_still.pool⟩
    · rw [stays, Block.claimedOf_campaign hc, Block.resultOf_quiet (quiet h), Campaign.resulted_empty, show c.counts.add (verdictOf length r.digest res) = counts from hcounts]
    · rw [recorder, Block.resultOf_quiet (quiet h)]
      rfl
  · rw [show after = _ from Block.campaignResult_quiet hc hr hl viaLane (quiet (.inl hv)), Block.claimedOf_sound hr hv hq]
    rfl
  · obtain ⟨r1, hr1, claimed, gone⟩ := Block.claimedOf_record (c := c) (length := length) (res := res) hr
    obtain ⟨r', hr', turns⟩ := later.records _ _ _ hr1
    have judged := claimed.turns turns
    obtain ⟨last, visiting, length', digest, detail⟩ := judged.given
    rw [finding] at gone judged
    have found : d.frameFinding = true ↔ frameFinding := d.frameFinding_iff
    refine ⟨r', hr', last, visiting, length', digest, detail, fun hn => ?_, fun hf => ⟨judged.suspect (found.2 hf), judged.queued (found.2 hf), fun hq ha => ?_⟩⟩
    · have none := Bool.eq_false_iff.2 (mt found.1 hn)
      obtain ⟨sound, unqueued⟩ := judged.sound none
      exact ⟨sound, unqueued, fun hq => RepairEngine.find_eq_none.2 (later.keys ▸ RepairEngine.find_eq_none.1 (gone none hq))⟩
    · refine judged.alone (found.2 hf) hq (asks.trans (Bool.eq_false_iff.2 fun he => ha ?_))
      obtain ⟨cause, enqueue⟩ := Bool.and_eq_true_iff.1 he
      exact ⟨d.causeClass_iff.1 cause, enqueue⟩
  · have taken := recorder.trans (Block.resultOf_recorder h)
    refine ⟨?_, ?_, fun hlog => ?_, fun hlog => ?_⟩
    · obtain ⟨c', hc', hcount, rest⟩ := Block.campaignResult_campaign hc hr hl viaLane h
      exact ⟨c', hc', hcount.trans hcounts, rest⟩
    · rw [taken]
      split <;> rfl
    · rw [if_pos hlog] at taken
      rw [taken]
      exact ⟨rfl, rfl, _, List.getLast?_concat, rfl, rfl, rfl, rfl, rfl, rfl, rfl, rfl, res.delivered_eq, rfl, rfl⟩
    · rw [if_neg (by rw [hlog]; exact Bool.false_ne_true)] at taken
      rw [taken]
      exact ⟨rfl, rfl, _, rfl, rfl, rfl, rfl, res.delivered_eq, rfl⟩

end Sys2Proof.Machine
end

section
/-! SUPPORT. What a command can be, said once over the 64 commands, and that a step leaves nothing over (R31, R57, R204). -/
namespace Sys2Proof.Machine

/-! ## What a command can be -/

/-- How a command's meaning is made: a step that is no request, a request, a start, the assertion of the reset line, or nothing. -/
inductive State.Runs (s : State) : Host.Outcome State Fault Refusal → Prop
  | event (f : Block → Block) : s.Runs (s.event f)
  | request (kind tag : Byte) (body : List Byte) (owner : Block → Block × Reply) : s.Runs (s.request kind tag body owner)
  | start (cause : EngineCause) : s.Runs (.next { s with blk := Block.started cause })
  | asserted : s.Runs (.next { s with blk := s.blk.assertReset })
  | nothing : s.Runs (.next s)

theorem execResetLineReleased_runs (s : State) : s.Runs (execResetLineReleased s) := by
  unfold execResetLineReleased
  split
  · exact .start .resetLine
  · exact .nothing

theorem execNotARequestKind_runs (kind tag : Byte) (body : List Byte) (s : State) : s.Runs (execNotARequestKind kind tag body s) := by
  unfold execNotARequestKind
  split
  · exact .event id
  · exact .request kind tag body _

/-- Every command is made in one of the ways of `State.Runs`. -/
theorem exec_runs (c : Instr) (s : State) : s.Runs (exec c s) := by
  cases c with
  | powerUp => exact .start .powerUp
  | resetLineAsserted => exact .asserted
  | resetLineReleased => exact execResetLineReleased_runs s
  | notARequestKind kind tag body => exact execNotARequestKind_runs kind tag body s
  | openManifest | loadRecords | completeManifest | eraseManifest | bindCopies | readManifest | readRecords => exact .request _ _ _ _
  | bringUpLane | putDownLane | restartLane | setLane | readLane | setCapture | readCapture => exact .request _ _ _ _
  | verify | resumeCampaign | abandonCampaign | dismissCampaign | readCampaign => exact .request _ _ _ _
  | readFindings | acknowledge | setProfile | selectProfile | readFlags | clearFlags => exact .request _ _ _ _
  | enqueueSuspects | withdrawSuspect | readSuspects | setRepair => exact .request _ _ _ _
  | setDuty | hold | wake | setPacing | calibrateLane | readDuty | restartEngine => exact .request _ _ _ _
  | controlLinkFrame | frameGapExpired | frameSent => exact .event _
  | hello | header | mark | payload | endUnit | trailer | notFound | fault | annotation => exact .event _
  | yield | resume | rewriteDone | rewriteFailed | unknownUnitType | rewriteEndSent => exact .event _
  | settleWaitExpired | stallTimerExpired | freshnessTimerExpired | holdTimerExpired | pacingGateOpens | rollupCompletes => exact .event _

/-! ## Nothing left over -/

/-- A start leaves no arbiter to ask, no claim and no notice beside the ENGINE_UP it has queued (R206). -/
theorem Block.started_done (cause : EngineCause) : (Block.started cause).quiet ∧ (Block.started cause).told :=
  ⟨⟨rfl, .inl rfl⟩, rfl⟩

theorem State.Runs.done {s t : State} {o : Host.Outcome State Fault Refusal} (h : s.Runs o) (before : s.blk.quiet ∧ s.blk.told) (e : o = .next t) :
    t.blk.quiet ∧ t.blk.told := by
  cases h with
  | event f => cases e; exact Block.eventStep_done before f
  | request kind tag body owner => cases e; exact Block.requestStep_done before _ owner
  | start cause => cases e; exact Block.started_done cause
  | asserted => cases e; exact before
  | nothing => cases e; exact before

/-- Settles O5: a tick and the assertion of the reset line leave what stood, a start has nothing to do, and every other command ends by settling its work
and flushing its notices. -/
theorem stepLeavesNothingOver : Obligations.StepLeavesNothingOver := by
  intro s t hq ht e
  unfold step at e
  split at e
  · cases e
    exact ⟨hq, ht⟩
  · next c rest _ => exact (exec_runs c (s.withPending rest)).done ⟨hq, ht⟩ e

end Sys2Proof.Machine
end

section
/-! SUPPORT. The verdict and the conditions of a complete result (R39, R40), and checks taken in pieces (R28, R33). -/
namespace Sys2Proof.Machine

/-! ## A complete result (R39, R40) -/

section
variable {length n : Nat} {expected d : Word64}

theorem verdictOf_full : verdictOf length expected (.complete length d) = if d = expected then .sound else .damaged := if_pos rfl

theorem conditionsOf_full : conditionsOf length expected (.complete length d) = if d = expected then 0 else FindingClass.content.set := if_pos rfl

theorem verdictOf_missized (h : n ≠ length) : verdictOf length expected (.complete n d) = .missized := if_neg h

theorem conditionsOf_short (h : n < length) : conditionsOf length expected (.complete n d) = FindingClass.short.set :=
  (if_neg (Nat.ne_of_lt h)).trans (if_pos h)

theorem conditionsOf_long (h : length < n) : conditionsOf length expected (.complete n d) =
    if d = expected then FindingClass.long.set else FindingClass.long.set ||| FindingClass.content.set :=
  (if_neg (Nat.ne_of_gt h)).trans (if_neg (Nat.lt_asymm h))

end

/-- Settles O15: the causes of code 3, then a complete result of the recorded length, a short one and a long one. -/
theorem verdictRows : Obligations.VerdictRows := by
  intro length expected
  refine ⟨fun _ _ => ⟨rfl, rfl⟩, fun _ => ⟨rfl, rfl⟩, fun _ _ => ⟨rfl, rfl⟩, ⟨rfl, rfl⟩, fun d hd => ?sound, fun d hd => ?damaged, fun n d hn => ?short,
    fun n d hn hd => ?long, fun n d hn hd => ?longDamaged⟩
  case sound => exact ⟨verdictOf_full.trans (if_pos hd), conditionsOf_full.trans (if_pos hd)⟩
  case damaged => exact ⟨verdictOf_full.trans (if_neg hd), conditionsOf_full.trans (if_neg hd)⟩
  case short => exact ⟨verdictOf_missized (Nat.ne_of_lt hn), conditionsOf_short hn⟩
  case long => exact ⟨verdictOf_missized (Nat.ne_of_gt hn), (conditionsOf_long hn).trans (if_pos hd)⟩
  case longDamaged => exact ⟨verdictOf_missized (Nat.ne_of_gt hn), (conditionsOf_long hn).trans (if_neg hd)⟩

/-! ## Digests in pieces (R28, R33) -/

theorem l64Update_append (r : Word64) (xs ys : List Byte) : l64Update r (xs ++ ys) = l64Update (l64Update r xs) ys :=
  List.foldl_append

/-- What a unit digests of two pieces: of the second, what the recorded length leaves behind the first. -/
theorem DigestUnit.digestible_append (u : DigestUnit) (xs ys : List Byte) : u.digestible (xs ++ ys) = u.digestible xs ++ (u.take xs).digestible ys := by
  show (xs ++ ys).take (u.claim.recLength - u.received) = xs.take (u.claim.recLength - u.received) ++ ys.take (u.claim.recLength - (u.received + xs.length))
  rw [List.take_append, Nat.sub_sub]

theorem DigestUnit.take_append (u : DigestUnit) (xs ys : List Byte) : (u.take xs).take ys = u.take (xs ++ ys) := by
  have bytes : u.received + xs.length + ys.length = u.received + (xs ++ ys).length := by rw [List.length_append, Nat.add_assoc]
  have digest : l64Update (u.take xs).remainder ((u.take xs).digestible ys) = l64Update u.remainder (u.digestible (xs ++ ys)) := by
    rw [u.digestible_append, l64Update_append]
    rfl
  rw [DigestUnit.take, digest]
  exact congrArg (fun n => { u with received := n, remainder := l64Update u.remainder (u.digestible (xs ++ ys)) }) bytes

/-- Settles O14: the three values by evaluation, the pieces by `l64Update_append` and `DigestUnit.take_append`. -/
theorem checksAndDigests : Obligations.ChecksAndDigests :=
  ⟨by decide +kernel, by decide +kernel, by decide +kernel, by decide +kernel, l64Update_append, DigestUnit.take_append⟩

end Sys2Proof.Machine
end

section
/-! SUPPORT. MARK and PAYLOAD in the exchange that awaits them (R33, R36, R52, R75, R77, R79, R81, R193). -/
namespace Sys2Proof.Machine

/-! ## Units of the open session -/

/-- A session unit that is heard and whose body has its form takes its effect. -/
theorem State.event_heard {α : Type} {s : State} {l : Fin 8} {type session : Byte} {body : List Byte} {crc : Word32} (h : s.Hears l type session body crc)
    {parsed : Option α} {x : α} (hp : parsed = some x) (f : α → Block → Block) :
    s.event (Block.sessionUnit type l session body crc parsed f) = .next (s.after (f x s.blk)) := by
  rw [State.event_live h.live, Block.sessionUnit_heard h hp]

/-! ## The exchange goes on under a new stall timer (R52) -/

/-- The exchange in flight becomes `x`, and the stall timer starts with the full limit. -/
def Block.goesOn (b : Block) (l : Fin 8) (x : Exchange) : Block :=
  b.updLane l (fun ln => { ln with exchange := x, stallTimer := some (b.clock + (b.lane l).settings.stallLimit * 500000) })

theorem Block.goesOn_lane (b : Block) (l : Fin 8) (x : Exchange) :
    (b.goesOn l x).lane l = { b.lane l with exchange := x, stallTimer := some (b.clock + (b.lane l).settings.stallLimit * 500000) } :=
  Block.lane_updLane_self b l _

/-- A unit of an exchange that the stall timer times starts it again. -/
theorem Block.restartStall_exchange (b : Block) (l : Fin 8) {x : Exchange} (hx : x.timed = true) :
    (b.updLane l (fun ln => { ln with exchange := x })).restartStall l = b.goesOn l x := by
  unfold Block.restartStall Block.startStall Block.goesOn
  rw [Block.lane_updLane_self, if_pos hx, Block.updLane_updLane]
  exact Block.updLane_congr rfl

theorem Block.restartStall_setFrame (b : Block) (l : Fin 8) (f : FrameExchange) : (b.setFrame l f).restartStall l = b.goesOn l (.frame f) :=
  Block.restartStall_exchange b l rfl

/-- The stall timer is started apart from the digest units. -/
theorem Block.restartStall_updPool (b : Block) (l : Fin 8) (f : Pool → Pool) : (b.updPool f).restartStall l = (b.restartStall l).updPool f := by
  unfold Block.restartStall
  rw [Block.updPool_lane]
  split <;> rfl

/-- The stall timer is started apart from the calibrations. -/
theorem Block.restartStall_updDuty (b : Block) (l : Fin 8) (f : Duty → Duty) : (b.updDuty f).restartStall l = (b.restartStall l).updDuty f := by
  unfold Block.restartStall
  rw [Block.updDuty_lane]
  split <;> rfl

/-! ## MARK (R33, R36, R75) -/

/-- The lengths a MARK may announce: R71's, and none past the reader's largest frame. -/
theorem Lane.admitsLength_iff (ln : Lane) (n : Nat) : ln.admitsLength n = true ↔ ∃ c, ln.caps = some c ∧ 1 ≤ n ∧ n ≤ 268435456 ∧ n ≤ c.largest := by
  unfold Lane.admitsLength
  cases ln.caps with
  | none => simp
  | some c =>
    simp only [Bool.and_eq_true, decide_eq_true_eq, Option.some.injEq, exists_eq_left', and_assoc]
    exact Iff.rfl

theorem Block.frameBegins_eq (b : Block) (l : Fin 8) (f : FrameExchange) (length : Nat) : b.frameBegins l f length =
    (b.goesOn l (.frame { f with phase := .receiving, delivered := some f.fetched, announced := some length })).updPool
      (fun p => p.updHeld l (fun u => { u with running := true })) := by
  unfold Block.frameBegins
  rw [Block.restartStall_updPool, Block.restartStall_setFrame]

/-- The block as a substituting MARK leaves it for the owner: the draining has started and the unit is released. -/
def Block.drains (b : Block) (l : Fin 8) (f : FrameExchange) (delivered length : Nat) : Block :=
  (b.goesOn l (.frame { f with phase := .draining, delivered := some delivered, announced := some length })).updPool (fun p => p.release l)

theorem Block.drains_owner (b : Block) (l : Fin 8) (f : FrameExchange) (delivered length : Nat) :
    ((b.drains l f delivered length).lane l).owner = (b.lane l).owner := by
  unfold Block.drains
  rw [Block.updPool_lane, Block.goesOn_lane]
  rfl

theorem Block.drains_eq (b : Block) (l : Fin 8) (f : FrameExchange) (delivered length : Nat) :
    ((b.setFrame l { f with phase := .draining, delivered := some delivered, announced := some length }).updPool (fun p => p.release l)).restartStall l =
      b.drains l f delivered length := by
  rw [Block.restartStall_updPool, Block.restartStall_setFrame]
  rfl

section
variable {b : Block} {l : Fin 8} {u : DigestUnit} (hu : b.pool.heldBy l = some u)
include hu

theorem Block.frameSubstituted_campaign {id : Nat} (ho : (b.lane l).owner = some (.campaign id)) (f : FrameExchange) (delivered length : Nat) :
    b.frameSubstituted l f delivered length = (b.drains l f delivered length).campaignResult id f.fetched (.substituted u.received delivered) true := by
  unfold Block.frameSubstituted
  dsimp only
  rw [Block.drains_eq, Block.drains_owner, ho, Pool.receivedBy_of_held hu]

theorem Block.frameSubstituted_entry {k : EntryKey} (ho : (b.lane l).owner = some (.entry k)) (f : FrameExchange) (delivered length : Nat) :
    b.frameSubstituted l f delivered length = (b.drains l f delivered length).repairResult l k (.substituted u.received delivered) := by
  unfold Block.frameSubstituted
  dsimp only
  rw [Block.drains_eq, Block.drains_owner, ho, Pool.receivedBy_of_held hu]

end

section
variable {b : Block} {l : Fin 8}

/-- A MARK is awaited in AWAITING_MARK alone. -/
theorem Block.markTaken_unawaited (h : ∀ f, (b.lane l).exchange = .frame f → f.phase ≠ .awaitingMark) (m : Nat × Nat) : Block.markTaken l m b = b.malformed l := by
  unfold Block.markTaken
  cases hx : (b.lane l).exchange with
  | frame f =>
    dsimp only
    cases hp : f.phase with
    | awaitingMark => exact absurd hp (h f hx)
    | receiving => rfl
    | draining => rfl
  | idle => rfl
  | opening => rfl
  | closing => rfl
  | rewrite frame endSent => rfl
  | calibration length bytes => rfl

theorem Block.markTaken_awaited {f : FrameExchange} (hx : (b.lane l).exchange = .frame f) (hp : f.phase = .awaitingMark) (n length : Nat) :
    Block.markTaken l (n, length) b =
      if (b.lane l).admitsLength length then if n = f.fetched then b.frameBegins l f length else b.frameSubstituted l f n length else b.malformed l := by
  unfold Block.markTaken
  rw [hx]
  dsimp only
  rw [hp]

end

/-- Settles O46: a MARK that is not awaited, one whose length is not admitted, the fetched frame and another. -/
theorem markBegins : Obligations.MarkBegins := by
  intro s l session body crc n length hh hp ln answer admitted limit
  have taken : answer = .next (s.after (Block.markTaken l (n, length) s.blk)) := State.event_heard hh hp (Block.markTaken l)
  refine ⟨fun h => ?_, fun f hx hf => ?_⟩
  · rw [taken, Block.markTaken_unawaited h]
  rw [Block.markTaken_awaited hx hf] at taken
  refine ⟨fun ha => ?_, fun ha hn => ?_, fun ha hn => ?_⟩
  · rw [taken, if_neg (mt (ln.admitsLength_iff length).1 ha)]
  · subst hn
    rw [if_pos ((ln.admitsLength_iff length).2 ha), if_pos rfl, Block.frameBegins_eq] at taken
    exact taken
  · rw [if_pos ((ln.admitsLength_iff length).2 ha), if_neg hn] at taken
    refine ⟨fun u id hu ho => ?_, fun u k hu ho => ?_⟩
    · rw [Block.frameSubstituted_campaign hu ho] at taken
      exact taken
    · rw [Block.frameSubstituted_entry hu ho] at taken
      exact taken

/-! ## PAYLOAD (R33, R77, R79, R81, R155, R193) -/

theorem FrameExchange.fits_iff {f : FrameExchange} {a : Nat} (h : f.announced = some a) (n : Nat) : f.fits n = true ↔ f.soFar + n ≤ a := by
  unfold FrameExchange.fits
  rw [h]
  exact decide_eq_true_iff

/-- The frame exchange with more bytes counted. -/
def FrameExchange.counts (f : FrameExchange) (n : Nat) : FrameExchange := { f with soFar := f.soFar + n }

/-- A frame that is received: its bytes are staged, then counted and digested. -/
theorem Block.payloadReceived_eq (b : Block) (l : Fin 8) (f : FrameExchange) (body : List Byte) : b.payloadReceived l f body =
    ((b.stagePayload l body).goesOn l (.frame (f.counts body.length))).updPool (fun p => p.updHeld l (fun u => u.take body)) := by
  unfold Block.payloadReceived
  rw [Block.restartStall_updPool, Block.restartStall_setFrame]
  rfl

/-- A calibration with `n` more bytes, which keeps the time of its first PAYLOAD. -/
def Calibration.takes (c : Calibration) (now n : Nat) : Calibration := { c with firstAt := some (c.firstAt.getD now), bytes := c.bytes + n }

theorem Block.payloadCalibration_eq (b : Block) (l : Fin 8) (length bytes : Nat) (body : List Byte) : b.payloadCalibration l length bytes body =
    (b.goesOn l (.calibration length (bytes + body.length))).updDuty (fun d => { d with
      calibration := d.calibration.set l.val ((b.duty.calibration[l]).map (fun c => c.takes b.clock body.length)) l.isLt }) := by
  unfold Block.payloadCalibration
  dsimp only
  rw [Block.restartStall_updDuty, Block.restartStall_exchange b l rfl]
  rfl

section
variable {b : Block} {l : Fin 8}

section
variable {u : DigestUnit} (hu : b.pool.heldBy l = some u)
include hu

/-- A unit of a campaign frame or of a read-back stages nothing. -/
theorem Block.stagePayload_unstaged (hk : u.claim.kind ≠ .sourceFetch) (body : List Byte) : b.stagePayload l body = b := by
  unfold Block.stagePayload
  rw [hu]
  dsimp only
  cases h : u.claim.kind with
  | sourceFetch => exact absurd h hk
  | campaignFrame => rfl
  | readback => rfl

theorem Block.stagePayload_source {k : EntryKey} {e : Entry} (hk : u.claim.kind = .sourceFetch) (ho : u.claim.owner = .entry k) (he : b.repair.find k = some e)
    (body : List Byte) : b.stagePayload l body = { b with staging := stageBytes (e.extents.getD []) u.received (u.digestible body) b.staging } := by
  unfold Block.stagePayload
  rw [hu]
  dsimp only
  rw [hk, ho]
  dsimp only
  rw [he]

end

/-- A PAYLOAD is awaited in a frame exchange and in a calibration exchange alone. -/
theorem Block.payloadTaken_unawaited (hf : ∀ f, (b.lane l).exchange ≠ .frame f) (hc : ∀ size bytes, (b.lane l).exchange ≠ .calibration size bytes)
    (body : List Byte) : Block.payloadTaken l body b = b.malformed l := by
  unfold Block.payloadTaken
  cases hx : (b.lane l).exchange with
  | frame f => exact absurd hx (hf f)
  | calibration size bytes => exact absurd hx (hc size bytes)
  | idle => rfl
  | opening => rfl
  | closing => rfl
  | rewrite frame endSent => rfl

theorem Block.payloadTaken_calibration {size bytes : Nat} (hx : (b.lane l).exchange = .calibration size bytes) (body : List Byte) :
    Block.payloadTaken l body b = if bytes + body.length ≤ size then b.payloadCalibration l size bytes body else b.malformed l := by
  unfold Block.payloadTaken
  rw [hx]

variable {f : FrameExchange} (hx : (b.lane l).exchange = .frame f)
include hx

/-- A PAYLOAD before the frame has begun. -/
theorem Block.payloadTaken_awaiting (hp : f.phase = .awaitingMark) (body : List Byte) : Block.payloadTaken l body b = b.malformed l := by
  unfold Block.payloadTaken
  rw [hx]
  dsimp only
  rw [hp]

/-- More bytes than the frame announced. -/
theorem Block.payloadTaken_unfit (hp : f.phase ≠ .awaitingMark) {body : List Byte} (h : ¬f.fits body.length = true) :
    Block.payloadTaken l body b = b.malformed l := by
  unfold Block.payloadTaken
  rw [hx]
  dsimp only
  cases phase : f.phase with
  | awaitingMark => exact absurd phase hp
  | receiving => exact if_neg h
  | draining => exact if_neg h

theorem Block.payloadTaken_receiving {body : List Byte} (hp : f.phase = .receiving) (h : f.fits body.length = true) :
    Block.payloadTaken l body b = b.payloadReceived l f body := by
  unfold Block.payloadTaken
  rw [hx]
  dsimp only
  rw [hp]
  exact if_pos h

theorem Block.payloadTaken_draining {body : List Byte} (hp : f.phase = .draining) (h : f.fits body.length = true) :
    Block.payloadTaken l body b = b.goesOn l (.frame (f.counts body.length)) := by
  obtain ⟨phase, fetched, delivered, announced, soFar⟩ := f
  obtain rfl : phase = .draining := hp
  unfold Block.payloadTaken
  rw [hx]
  exact (if_pos h).trans (Block.restartStall_setFrame b l _)

end

/-- Settles O47: a PAYLOAD that is not awaited, one of a frame exchange by its phase and the bytes announced, and one of a calibration exchange. -/
theorem payloadTaken : Obligations.PayloadTaken := by
  intro s l session body crc hh hp ln n answer malformed limit taken unit
  have answers : answer = .next (s.after (Block.payloadTaken l body s.blk)) := State.event_heard hh hp (Block.payloadTaken l)
  refine ⟨fun hf hc => ?none, fun f hx => ⟨fun hf => ?awaiting, fun a ha hf hn => ?tooMany, fun a ha hf hn => ?draining, fun a u ha hf hn hu => ?receiving⟩,
    fun size bytes hx => ⟨fun hn => ?tooLong, fun hn => ?calibration⟩⟩
  case none => exact answers.trans (by rw [Block.payloadTaken_unawaited hf hc])
  case awaiting => exact answers.trans (by rw [Block.payloadTaken_awaiting hx hf])
  case tooMany =>
    have unfit : ¬f.fits body.length = true := mt (FrameExchange.fits_iff ha _).1 (Nat.not_le.2 hn)
    exact answers.trans (by rw [Block.payloadTaken_unfit hx hf unfit])
  case draining =>
    rw [Block.payloadTaken_draining hx hf ((FrameExchange.fits_iff ha _).2 hn)] at answers
    exact answers
  case receiving =>
    rw [Block.payloadTaken_receiving hx hf ((FrameExchange.fits_iff ha _).2 hn), Block.payloadReceived_eq] at answers
    refine ⟨fun hk => ?_, fun k e hk ho he => ?_⟩
    · rw [Block.stagePayload_unstaged hu hk] at answers
      exact answers
    · rw [Block.stagePayload_source hu hk ho he] at answers
      exact answers
  case tooLong =>
    rw [Block.payloadTaken_calibration hx, if_neg (Nat.not_le.2 hn)] at answers
    exact answers
  case calibration =>
    rw [Block.payloadTaken_calibration hx, if_pos hn, Block.payloadCalibration_eq] at answers
    exact answers

end Sys2Proof.Machine
end

section
/-! SUPPORT. The bounds of the lanes over a step (R44, R47, R53); the requests, units and timers that take a lane to SETTLING or from it to READY (R49, R50, R54, R63, R111), and SET
LANE (R48, R65, R182). -/
namespace Sys2Proof.Machine

/-- Settles O10: of the bounds that every step keeps, those of the lanes. -/
theorem stepKeepsLaneBounds : Obligations.StepKeepsLaneBounds :=
  fun _ _ hs e => (step_stays e).lanes hs

/-! ## A lane changed and its LANE_CHANGED (R68) -/

/-- A change of a lane with its LANE_CHANGED: the cause is stored in the same change, and the notice gives the lane as changed. -/
theorem Block.updLane_laneNotice (b : Block) (l : Fin 8) (f : Lane → Lane) (cause : LaneCause) :
    (b.updLane l f).laneNotice l cause =
      (b.updLane l (fun ln => { f ln with lastCause := cause })).raise (.laneChanged l (f (b.lane l)).state cause (f (b.lane l)).restarts) := by
  unfold Block.laneNotice
  dsimp only
  rw [Block.updLane_updLane, Block.lane_updLane_self]

/-- A change that leaves the lane as it is. -/
theorem Block.updLane_id (b : Block) (l : Fin 8) : b.updLane l id = b := by
  unfold Block.updLane
  simp

/-- A lane that enters SETTLING, before its LANE_CHANGED (R49). -/
def Lane.settling (clock : Nat) (unit : SentUnit) (ln : Lane) : Lane :=
  { ln with
    state := .settling, item := none, session := none, helloTaken := false, settleExpired := false, settleTimer := some (clock + ln.settings.settleWait * 1000),
    stallTimer := none, resumeTarget := none, sent := ln.sent ++ [unit] }

/-- HELLO or RESTART sent and the settle timer started are one change of the lane (R49). -/
theorem Block.updLane_enterSettling (b : Block) (l : Fin 8) (f : Lane → Lane) (unit : SentUnit) (cause : LaneCause) :
    (b.updLane l f).enterSettling l unit cause = (b.updLane l (fun ln => { (f ln).settling b.clock unit with lastCause := cause })).raise
      (.laneChanged l .settling cause (f (b.lane l)).restarts) := by
  unfold Block.enterSettling Block.beginSettling Block.send
  rw [Block.updLane_updLane, Block.updLane_updLane, Block.updLane_laneNotice]
  rfl

/-! ## BRING UP LANE and RESTART LANE (R49, R54) -/

/-- Settles O30. -/
theorem lanesSettle : Obligations.LanesSettle := by
  intro s tag body settling
  refine ⟨fun h => ⟨fun hr => State.request_refused h (Block.onLane_range hr _), fun l hl => ⟨fun hoff => ?_, fun hoff => ?_⟩⟩,
    fun h => ⟨fun hr => State.request_refused h (Block.onLane_range hr _), fun l hl => ⟨fun hst => ?_, fun hst => ?_⟩⟩⟩
  · exact State.request_refused h ((Block.onLane_at hl _).trans (if_neg hoff))
  · have owner : s.blk.bringUpLane body = Block.done ((s.blk.updLane l (fun ln => { ln with restarts := 0, putDownByHold := false })).enterSettling l .hello .bringUp) [] :=
      (Block.onLane_at hl _).trans (if_pos hoff)
    rw [Block.updLane_enterSettling] at owner
    exact State.request_raises h owner h.quiet rfl
  · exact State.request_refused h ((Block.onLane_at hl _).trans (if_neg hst))
  · have owner : s.blk.restartLane body = Block.done ((s.blk.updLane l (fun ln => { ln with restarts := 0 })).enterSettling l .restart .hostRestart) [] :=
      (Block.onLane_at hl _).trans (if_pos hst)
    rw [Block.updLane_enterSettling] at owner
    exact State.request_raises h owner h.quiet rfl

/-! ## From SETTLING to READY (R50) -/

/-- The change of a lane, READY and LANE_CHANGED with cause SETTLED are one change of the lane and one notice. -/
theorem Block.updLane_settled (b : Block) (l : Fin 8) (f : Lane → Lane) : (b.updLane l f).settled l =
    (((b.updLane l (fun ln => { f ln with state := .ready, restarts := 0, settleTimer := none, stallTimer := none, lastCause := .settled })).raise
      (.laneChanged l .ready .settled 0)).enteredService l).ask l := by
  unfold Block.settled
  dsimp only
  rw [Block.updLane_updLane, Block.updLane_laneNotice]

/-- A HELLO in SETTLING: its capabilities are stored, and with the settle wait expired the lane is READY (R50). -/
theorem Block.helloTaken_settling {b : Block} {l : Fin 8} (h : (b.lane l).state = .settling) (c : Caps) : Block.helloTaken l c b =
    if (b.lane l).settleExpired then (b.updLane l (fun ln => { ln with caps := some c, helloTaken := true })).settled l
    else b.updLane l (fun ln => { ln with caps := some c, helloTaken := true }) := by
  unfold Block.helloTaken Block.storeCaps
  rw [h]
  dsimp only
  rw [Block.updLane_updLane]

/-- A HELLO in LENT: the lane will settle again (R50, R63). -/
theorem Block.helloTaken_lent {b : Block} {l : Fin 8} (h : (b.lane l).state = .lent) (c : Caps) : Block.helloTaken l c b =
    b.updLane l (fun ln => { ln with caps := some c, resumeTarget := some .settle }) := by
  unfold Block.helloTaken Block.storeCaps
  rw [h]
  exact Block.updLane_updLane b l _ _

/-- A HELLO in OFF or STALLED is discarded (R50). -/
theorem Block.helloTaken_discarded {b : Block} {l : Fin 8} (h : (b.lane l).state = .off ∨ (b.lane l).state = .stalled) (c : Caps) :
    Block.helloTaken l c b = b := by
  unfold Block.helloTaken
  rcases h with h | h <;> rw [h]

/-- A HELLO on a lane in service is malformed (R50). -/
theorem Block.helloTaken_malformed {b : Block} {l : Fin 8}
    (h : (b.lane l).state = .ready ∨ (b.lane l).state = .engaged ∨ (b.lane l).state = .calibrating ∨ (b.lane l).state = .yielding) (c : Caps) :
    Block.helloTaken l c b = b.malformed l := by
  unfold Block.helloTaken
  rcases h with h | h | h | h <;> rw [h]

/-- A link unit that passes its checks, in a live part. -/
theorem State.event_linked {α : Type} {s : State} (h : s.Idle) {type : Byte} {body : List Byte} {crc : Word32} (hc : unitCrcGood type 0 body crc = true)
    {parsed : Option α} {x : α} (hp : parsed = some x) (l : Fin 8) (f : α → Block → Block) :
    s.event (Block.linkUnit type l 0 body crc parsed f) = .next (s.after (f x s.blk)) :=
  (State.event_live h.live _).trans (by rw [Block.linkUnit_taken hc hp])

/-- Settles O31, state of the lane by state. -/
theorem helloSettles : Obligations.HelloSettles := by
  intro s l body crc c h hcrc hp answer
  have answers : answer = .next (s.after (Block.helloTaken l c s.blk)) := State.event_linked h hcrc hp l (Block.helloTaken l)
  refine ⟨fun hs he => ?stored, fun hs he => ?settles, fun hs => ?lent, fun hs => ?discarded, fun hs => ?malformed⟩
  case stored =>
    rw [Block.helloTaken_settling hs, he] at answers
    exact answers.trans (congrArg _ (State.after_quiet h.quiet h.told))
  case settles =>
    rw [Block.helloTaken_settling hs, he, if_pos rfl, Block.updLane_settled] at answers
    exact answers
  case lent =>
    rw [Block.helloTaken_lent hs] at answers
    exact answers.trans (congrArg _ (State.after_quiet h.quiet h.told))
  case discarded =>
    rw [Block.helloTaken_discarded hs] at answers
    exact answers.trans (congrArg _ (State.after_quiet h.quiet h.told))
  case malformed =>
    rw [Block.helloTaken_malformed hs] at answers
    exact answers

/-- The settle timer of a lane expires (R50). -/
theorem Block.settleExpires_at {b : Block} {l : Fin 8} {t : Nat} (h : (b.lane l).settleTimer = some t) : Block.settleExpires l b =
    if (b.lane l).helloTaken then ((b.clockTo t).updLane l (fun ln => { ln with settleTimer := none, settleExpired := true })).settled l
    else ((b.clockTo t).updLane l (fun ln => { ln with settleTimer := none, settleExpired := true })).startStall l := by
  unfold Block.settleExpires
  rw [h]

/-- Settles O32: HELLO taken, HELLO not taken, and the timer stopped. -/
theorem settleWaitExpires : Obligations.SettleWaitExpires := by
  intro s l h answer
  have answers : answer = .next (s.after (Block.settleExpires l s.blk)) := State.event_live h.live _
  refine ⟨fun ht => ?stopped, fun t ht => ⟨fun hn => ?waits, fun hy => ?settles⟩⟩
  case stopped => exact State.event_still h (by unfold Block.settleExpires; rw [ht]) h.quiet h.told
  case waits =>
    rw [Block.settleExpires_at ht, hn, if_neg Bool.false_ne_true] at answers
    unfold Block.startStall at answers
    rw [Block.updLane_updLane] at answers
    exact answers.trans (congrArg _ (State.after_quiet h.quiet h.told))
  case settles =>
    rw [Block.settleExpires_at ht, hy, if_pos rfl, Block.updLane_settled] at answers
    exact answers

/-! ## RESUME (R63, R111) -/

/-- A head that was YIELDED waits again, and nothing else changes (R111). -/
theorem Block.headReturned_eq {b : Block} {l : Fin 8} {c : Campaign} (hh : b.sched.head l = some c) : b.headReturned l =
    if c.state = .yielded then { b with sched := b.sched.upd c.id (fun x => { x with state := .waiting }) } else b := by
  unfold Block.headReturned
  rw [hh]
  rfl

/-- The return of the head campaign changes the campaign table alone. -/
theorem Block.headReturned_rest (b : Block) (l : Fin 8) : ∃ sched, ∀ n, (b.raise n).headReturned l = ({ b with sched := sched } : Block).raise n ∧
    b.headReturned l = { b with sched := sched } := by
  cases hh : b.sched.head l with
  | none =>
    refine ⟨b.sched, fun n => ?_⟩
    unfold Block.headReturned
    rw [Block.raise_sched, hh]
    exact ⟨rfl, rfl⟩
  | some c =>
    refine ⟨if c.state = .yielded then b.sched.upd c.id (fun x => { x with state := .waiting }) else b.sched, fun n => ?_⟩
    rw [Block.headReturned_eq (b := b.raise n) hh, Block.headReturned_eq hh]
    by_cases hy : c.state = .yielded
    · rw [if_pos hy, if_pos hy, if_pos hy]; exact ⟨rfl, rfl⟩
    · rw [if_neg hy, if_neg hy, if_neg hy]; exact ⟨rfl, rfl⟩

/-- RESUME is ignored in every state but LENT (R63). -/
theorem Block.resumeTaken_ignored {b : Block} {l : Fin 8} (h : (b.lane l).state ≠ .lent) : b.resumeTaken l = b := by
  unfold Block.resumeTaken
  cases hs : (b.lane l).state with
  | lent => exact absurd hs h
  | off => rfl
  | settling => rfl
  | ready => rfl
  | engaged => rfl
  | calibrating => rfl
  | yielding => rfl
  | stalled => rfl

/-- RESUME with resume target READY (R63). -/
theorem Block.resumeTaken_ready {b : Block} {l : Fin 8} (hs : (b.lane l).state = .lent) (ht : (b.lane l).resumeTarget = some .ready) : b.resumeTaken l =
    (((((b.updLane l (fun ln => { ln with state := .ready, resumeTarget := none, lastCause := .resume })).raise
      (.laneChanged l .ready .resume (b.lane l).restarts)).headReturned l).enteredService l).ask l) := by
  unfold Block.resumeTaken
  rw [hs, ht]
  dsimp only
  unfold Block.resumeReady
  rw [Block.updLane_laneNotice]

/-- RESUME with resume target SETTLE (R63). -/
theorem Block.resumeTaken_settle {b : Block} {l : Fin 8} (hs : (b.lane l).state = .lent) (ht : (b.lane l).resumeTarget = some .settle) : b.resumeTaken l =
    ((b.updLane l (fun ln => { ln.settling b.clock .hello with lastCause := .resume })).raise
      (.laneChanged l .settling .resume (b.lane l).restarts)).headReturned l := by
  have enters := Block.updLane_enterSettling b l id .hello .resume
  rw [Block.updLane_id] at enters
  unfold Block.resumeTaken
  rw [hs, ht]
  exact congrArg (Block.headReturned · l) enters

/-- Settles O36, by the lane's state and its resume target. -/
theorem resumeEndsTheLoan : Obligations.ResumeEndsTheLoan := by
  intro s l crc h hcrc ln answer
  have answers : answer = .next (s.after (s.blk.resumeTaken l)) := State.event_linked h hcrc (parsed := parseEmpty []) rfl l (fun _ b => b.resumeTaken l)
  refine ⟨fun hs => ?ignored, fun hs ht => ?ready, fun hs ht => ?settles, fun b c hh => Block.headReturned_eq hh⟩
  case ignored =>
    rw [Block.resumeTaken_ignored hs] at answers
    exact answers.trans (congrArg _ (State.after_quiet h.quiet h.told))
  case ready =>
    rw [Block.resumeTaken_ready hs ht] at answers
    exact answers
  case settles =>
    intro settling
    obtain ⟨sched, hr⟩ := Block.headReturned_rest settling l
    obtain ⟨raised, returned⟩ := hr (.laneChanged l .settling .resume ln.restarts)
    rw [returned]
    have moves : Block.linkUnit 0x27 l 0 [] crc (parseEmpty []) (fun _ b => b.resumeTaken l) s.blk =
        ({ settling with sched := sched } : Block).raise (.laneChanged l .settling .resume ln.restarts) :=
      (Block.linkUnit_taken hcrc rfl l _ s.blk).trans ((Block.resumeTaken_settle hs ht).trans raised)
    exact State.event_raises h moves h.quiet rfl

/-! ## SET LANE (R48, R65, R182) -/

/-- A byte that is on or off. -/
theorem onOff_eq {n : Nat} (h : n ≤ 1) : onOff n = some (n == 1) := by
  obtain rfl | rfl : n = 0 ∨ n = 1 := by omega
  · rfl
  · rfl

/-- The ranges of SET LANE's six settings (R48). -/
def setLaneGood (body : List Byte) : Prop :=
  (fieldAt body 1 2 = 50 ∨ fieldAt body 1 2 = 200 ∨ fieldAt body 1 2 = 800 ∨ fieldAt body 1 2 = 3200) ∧ 1 ≤ fieldAt body 3 1 ∧ fieldAt body 3 1 ≤ 120 ∧
    fieldAt body 4 1 ≤ 1 ∧ fieldAt body 5 1 ≤ 64 ∧ fieldAt body 6 1 ≤ 1 ∧ 1 ≤ fieldAt body 7 2 ∧ fieldAt body 7 2 ≤ 2048

/-- The six settings of a SET LANE body. -/
def LaneSettings.asked (body : List Byte) : LaneSettings :=
  { settleWait := fieldAt body 1 2, stallLimit := fieldAt body 3 1, autoRestart := fieldAt body 4 1 == 1, yieldAllowance := fieldAt body 5 1,
    keepAlive := fieldAt body 6 1 == 1, ceiling := fieldAt body 7 2 }

theorem parseSettings_good {body : List Byte} (h : setLaneGood body) : parseSettings body = some (LaneSettings.asked body) := by
  obtain ⟨hw, hs1, hs2, ha, hy, hk, hc1, hc2⟩ := h
  unfold parseSettings
  rw [onOff_eq ha, onOff_eq hk]
  exact if_pos ⟨by simpa using hw, hs1, hs2, hy, hc1, hc2⟩

theorem parseSettings_bad {body : List Byte} (h : ¬setLaneGood body) : parseSettings body = none := by
  unfold parseSettings
  split
  · next auto keep ha hk =>
    refine if_neg fun ⟨hw, hs1, hs2, hy, hc1, hc2⟩ => h ⟨by simpa using hw, hs1, hs2, ?_, hy, ?_, hc1, hc2⟩
    · exact Nat.not_lt.1 fun hn => by rw [onOff_none hn] at ha; cases ha
    · exact Nat.not_lt.1 fun hn => by rw [onOff_none hn] at hk; cases hk
  · rfl

/-- In HELD no lane has an effective ceiling, so no gate is computed again (R190). -/
theorem Block.regateIfChanged_held {b : Block} (h : b.duty.mode = .held) (l : Fin 8) : b.regateIfChanged l none = b := by
  unfold Block.regateIfChanged Duty.effectiveCeiling
  rw [h]
  exact if_pos rfl

/-- SET LANE in HELD: the settings are replaced, and the lane's arbiter is asked (R65, R182). -/
theorem Block.setLane_held {b : Block} (hm : b.duty.mode = .held) {body : List Byte} {l : Fin 8} (hl : laneOf (fieldAt body 0 1) = some l)
    (h : setLaneGood body) : b.setLane body = Block.done ((b.updLane l (fun ln => { ln with settings := LaneSettings.asked body })).ask l) [] := by
  have none_before : b.duty.effectiveCeiling l (b.lane l).settings.ceiling = none := by unfold Duty.effectiveCeiling; rw [hm]
  unfold Block.setLane
  rw [Block.onLane_at hl, parseSettings_good h]
  dsimp only
  rw [none_before, Block.regateIfChanged_held (b := b.updLane l _) hm]

/-- In HELD the arbiter leaves a lane as it is, unless it is READY with no item and without keep-alive (R57, R180, R182). -/
theorem Block.arbiter_idle_held {b : Block} {l : Fin 8} (hm : b.duty.mode = .held)
    (h : (b.lane l).settings.keepAlive = true ∨ (b.lane l).state ≠ .ready ∨ (b.lane l).item ≠ none) : b.arbiter l = b := by
  by_cases hr : (b.lane l).state = .ready ∧ (b.lane l).item = none
  · obtain ⟨hs, hi⟩ := hr
    have keep : (b.lane l).settings.keepAlive = true := h.resolve_right (by rw [hs, hi]; simp)
    have permitted : ∀ e, b.pendingLane e = none := fun e => by
      unfold Block.pendingLane Duty.permits
      rw [hm]
      dsimp only
      split
      · simp
      · rfl
    have noStep : b.pendingStep l = none := List.find?_eq_none.2 fun e _ => by rw [permitted e]; simp
    exact Block.arbiter_none hs hi (fun _ => keep) noStep (.inr (by unfold Duty.mayRun; rw [hm]))
  · unfold Block.arbiter
    exact if_neg hr

/-- A lane put down by hold (R182). -/
theorem Block.putDownByHold_lane (b : Block) (l : Fin 8) : (b.putDownByHold l false).lane l =
    { b.lane l with
      session := none, sent := (b.lane l).sent ++ ((b.lane l).session.map (fun x => SentUnit.halt x.number)).toList, state := .off, putDownByHold := true,
      lastCause := .hold, settleTimer := none, stallTimer := none } := by
  have still : Still (((b.haltSession l).updLane l (fun ln =>
      { ln with state := .off, putDownByHold := true, lastCause := .hold, settleTimer := none, stallTimer := none })).laneNotice l .hold)
      (b.putDownByHold l false) := (Still.refl _).leftService l
  rw [still.lane, Block.laneNotice_lane, Block.lane_updLane_self, Block.haltSession_lane]

/-- In HELD, a lane put down by hold leaves nothing more to do: no entry may start (R156, R180). -/
theorem Block.putDownByHold_quiet {b : Block} (hm : b.duty.mode = .held) (h : b.quiet) (l : Fin 8) : (b.putDownByHold l false).quiet := by
  have pool : (b.putDownByHold l false).pool = b.pool := (Still.leftService (Still.refl _) l).pool.trans (Block.haltSession_pool b l)
  exact ⟨((Calm.refl b).putDownByHold l hm).asks.trans h.1, by rw [pool]; exact h.2⟩

/-- A request that asks the lane's arbiter is answered with the turn that the arbiter takes, when that turn leaves nothing to do (R57). -/
theorem State.answered_ask (s : State) {b : Block} {l : Fin 8} (h : b.quiet) (turn : (b.arbiter l).quiet) (kind tag : Byte) (rep : Reply) :
    s.answered (b.ask l) kind tag rep = s.answered (b.arbiter l) kind tag rep := by
  unfold State.answered
  rw [Block.settleWork_ask h l turn, Block.settleWork_quiet turn]

/-- Settles O33: in HELD, the arbiter that SET LANE asks puts the lane down or does nothing. -/
theorem setLaneReplacesSettings : Obligations.SetLaneReplacesSettings := by
  intro s tag body h wait stall auto allowance keep ceiling inRange
  have hm : s.blk.duty.mode = .held := by simpa [requestModes] using h.mode
  refine ⟨fun hr => State.request_refused h (Block.onLane_range hr _), fun l hl => ⟨fun hb => ?bad, fun hg => ?taken⟩⟩
  case bad =>
    refine State.request_refused h ?_
    unfold Block.setLane
    rw [Block.onLane_at hl, parseSettings_bad hb]
    rfl
  case taken =>
    intro set
    have lane : set.lane l = { s.blk.lane l with settings := LaneSettings.asked body } := Block.lane_updLane_self _ _ _
    have answers : exec (.setLane tag body) s = .next (s.answered (set.ask l) 0x0B tag (.done [])) :=
      (State.request_takes h _).trans (by rw [Block.setLane_held hm hl hg]; rfl)
    refine ⟨fun hk => ?kept, fun hk hs hi => ?putDown⟩
    case kept =>
      have idle : set.arbiter l = set := Block.arbiter_idle_held hm (by
        rw [lane]
        exact hk.imp_left fun on : keep = 1 => beq_iff_eq.2 on)
      rw [State.answered_ask s (b := set) h.quiet (by rw [idle]; exact h.quiet), idle, State.answered_quiet (b := set) h.quiet rfl h.told] at answers
      exact answers
    case putDown =>
      have off : (set.lane l).settings.keepAlive = false := by
        rw [lane]
        exact beq_false_of_ne (show keep ≠ 1 by omega)
      have turn : set.arbiter l = set.putDownByHold l false :=
        Block.arbiter_held (by rw [lane]; exact hs) (by rw [lane]; exact hi) (by rw [off]; exact fun hn => Bool.false_ne_true (hn hm))
      have quiet := Block.putDownByHold_quiet (b := set) hm h.quiet l
      rw [State.answered_ask s (b := set) h.quiet (by rw [turn]; exact quiet), turn] at answers
      refine ⟨answers, ?_⟩
      rw [Block.putDownByHold_lane]
      exact ⟨rfl, rfl, rfl, rfl⟩

end Sys2Proof.Machine
end

section
/-! SUPPORT. Reader units that are turned away (R43 to R46; log entry 7): what each row of the table asks of a body, and what becomes of a malformed or a stale unit. -/
namespace Sys2Proof.Machine

/-! ## The bodies of the rows (R43, R45, R82, R211) -/

section
variable (body : List Byte)

theorem parseHello_isSome : (parseHello body).isSome = true ↔ body.length = 5 ∧ fieldAt body 0 1 ≤ 1 ∧ 1 ≤ fieldAt body 1 4 ∧ fieldAt body 1 4 ≤ 268435456 := by
  unfold parseHello
  by_cases ho : fieldAt body 0 1 ≤ 1
  · rw [onOff_eq ho]
    split <;> simp_all [maxFrameBytes]
  · rw [onOff_none (by omega)]
    simp [ho]

theorem parseHeader_isSome : (parseHeader body).isSome = true ↔ body.length = 20 := by
  unfold parseHeader; split <;> simp_all

theorem parseMark_isSome : (parseMark body).isSome = true ↔ body.length = 8 := by
  unfold parseMark; split <;> simp_all

theorem parsePayload_isSome : (parsePayload body).isSome = true ↔ 1 ≤ body.length ∧ body.length ≤ 65536 := by
  have good : payloadBodyGood body = true ↔ 1 ≤ body.length ∧ body.length ≤ 65536 := by simp [payloadBodyGood]
  unfold parsePayload
  rw [← good]
  split <;> simp_all

theorem parseEmpty_isSome : (parseEmpty body).isSome = true ↔ body.length = 0 := by
  unfold parseEmpty; split <;> simp_all

theorem parseTrailer_isSome : (parseTrailer body).isSome = true ↔ body.length = 12 := by
  unfold parseTrailer; split <;> simp_all

theorem parseNotFound_isSome : (parseNotFound body).isSome = true ↔ body.length = 13 ∧ fieldAt body 0 1 ≤ 1 := by
  unfold parseNotFound
  by_cases hl : body.length = 13
  · rw [if_pos hl, Nat.le_one_iff_eq_zero_or_eq_one]
    split
    · next h0 => simp [hl, h0]
    · next h0 => split <;> simp_all
  · rw [if_neg hl]
    simp [hl]

theorem parseFault_isSome : (parseFault body).isSome = true ↔ body.length = 5 := by
  unfold parseFault; split <;> simp_all

theorem parseFrameNumber_isSome : (parseFrameNumber body).isSome = true ↔ body.length = 4 := by
  unfold parseFrameNumber; split <;> simp_all

theorem parseAnnotation_isSome : (parseAnnotation body).isSome = true ↔
    body.length = fieldAt body 1 1 + 4 ∧ fieldAt body 1 1 ≤ 60 ∧ 0x10 ≤ fieldAt body 0 1 ∧ fieldAt body 0 1 ≤ 0xFE := by
  unfold parseAnnotation
  split
  · next h => exact iff_of_true rfl h.2
  · next h => exact iff_of_false Bool.false_ne_true fun good => h ⟨by rw [good.1]; exact Nat.le_add_left 4 _, good⟩

end

/-! ## Malformed and stale units (R46) -/

theorem Block.linkUnit_malformed {α : Type} {type session : Byte} {body : List Byte} {crc : Word32} {parsed : Option α}
    (h : unitCrcGood type session body crc = false ∨ session ≠ 0 ∨ ¬parsed.isSome = true) (l : Fin 8) (f : α → Block → Block) (b : Block) :
    b.linkUnit type l session body crc parsed f = b.malformed l := by
  unfold Block.linkUnit
  cases parsed with
  | none => rfl
  | some x => exact if_pos (h.imp_right fun h => h.resolve_right (fun hn => hn rfl))

theorem Block.sessionUnit_malformed {α : Type} {type session : Byte} {body : List Byte} {crc : Word32} {parsed : Option α}
    (h : unitCrcGood type session body crc = false ∨ session = 0 ∨ ¬parsed.isSome = true) (l : Fin 8) (f : α → Block → Block) (b : Block) :
    b.sessionUnit type l session body crc parsed f = b.malformed l := by
  unfold Block.sessionUnit
  cases parsed with
  | none => rfl
  | some x => exact if_pos (h.imp_right fun h => h.resolve_right (fun hn => hn rfl))

/-- A session unit of another session changes nothing, whatever its type (R46). -/
theorem Block.sessionUnit_stale {α : Type} {type session : Byte} {body : List Byte} {crc : Word32} {parsed : Option α} {b : Block} {l : Fin 8}
    (hc : unitCrcGood type session body crc = true) (h0 : session ≠ 0) (hp : parsed.isSome = true) (hn : (b.lane l).sessionNumber ≠ session.toNat)
    (f : α → Block → Block) : b.sessionUnit type l session body crc parsed f = b := by
  obtain ⟨x, rfl⟩ := Option.isSome_iff_exists.1 hp
  unfold Block.sessionUnit
  dsimp only
  rw [hc, if_neg fun bad => h0 (bad.resolve_left (by decide)), if_neg hn]

theorem Block.malformed_eq (b : Block) (l : Fin 8) :
    b.malformed l = if (b.lane l).state = .off ∨ (b.lane l).state = .lent ∨ (b.lane l).state = .stalled then b else b.stallEvent l := by
  unfold Block.malformed
  cases (b.lane l).state with
  | off => simp
  | lent => simp
  | stalled => simp
  | settling => simp
  | ready => simp
  | engaged => simp
  | calibrating => simp
  | yielding => simp

/-! ## The rows -/

/-- `unit` is the row of the link units of a type, and its body is a good one when `good` holds. -/
def IsLinkRow (body : List Byte) (type : Byte) (unit : Fin 8 → Byte → List Byte → Word32 → Instr) (good : Prop) : Prop :=
  ∃ (α : Type) (parsed : Option α) (f : Fin 8 → α → Block → Block), (parsed.isSome = true ↔ good) ∧
    ∀ s l session crc, exec (unit l session body crc) s = s.event (Block.linkUnit type l session body crc parsed (f l))

/-- `unit` is the row of the session units of a type, and its body is a good one when `good` holds. -/
def IsSessionRow (body : List Byte) (type : Byte) (unit : Fin 8 → Byte → List Byte → Word32 → Instr) (good : Prop) : Prop :=
  ∃ (α : Type) (parsed : Option α) (f : Fin 8 → α → Block → Block), (parsed.isSome = true ↔ good) ∧
    ∀ s l session crc, exec (unit l session body crc) s = s.event (Block.sessionUnit type l session body crc parsed (f l))

section
variable {s : State} (hs : s.blk.resetLine = false) {body : List Byte} {type session : Byte} {unit : Fin 8 → Byte → List Byte → Word32 → Instr} {good : Prop} {crc : Word32}
include hs

theorem IsLinkRow.malformed (row : IsLinkRow body type unit good) (h : unitCrcGood type session body crc = false ∨ session ≠ 0 ∨ ¬good) (l : Fin 8) :
    exec (unit l session body crc) s = .next (s.after (s.blk.malformed l)) := by
  obtain ⟨_, _, _, parses, runs⟩ := row
  rw [← parses] at h
  rw [runs, State.event_live hs, Block.linkUnit_malformed h]

theorem IsSessionRow.malformed (row : IsSessionRow body type unit good) (h : unitCrcGood type session body crc = false ∨ session = 0 ∨ ¬good) (l : Fin 8) :
    exec (unit l session body crc) s = .next (s.after (s.blk.malformed l)) := by
  obtain ⟨_, _, _, parses, runs⟩ := row
  rw [← parses] at h
  rw [runs, State.event_live hs, Block.sessionUnit_malformed h]

theorem IsSessionRow.stale (row : IsSessionRow body type unit good) {l : Fin 8} (hc : unitCrcGood type session body crc = true) (h0 : session ≠ 0)
    (hg : good) (hn : (s.blk.lane l).sessionNumber ≠ session.toNat) : exec (unit l session body crc) s = .next (s.after s.blk) := by
  obtain ⟨_, _, _, parses, runs⟩ := row
  rw [runs, State.event_live hs, Block.sessionUnit_stale hc h0 (parses.2 hg) hn]

end

/-- Settles O38: every row is a link row or a session row of its type. -/
theorem unitsTurnedAway : Obligations.UnitsTurnedAway := by
  intro s l session body crc h malformed n linkUnits sessionUnits
  have link : ∀ row ∈ linkUnits, IsLinkRow body row.1 row.2.1 row.2.2 := by
    simp only [linkUnits, List.forall_mem_cons]
    exact ⟨⟨_, parseHello body, Block.helloTaken, parseHello_isSome body, fun _ _ _ _ => rfl⟩,
      ⟨_, parseEmpty body, fun l _ b => b.yieldTaken l, parseEmpty_isSome body, fun _ _ _ _ => rfl⟩,
      ⟨_, parseEmpty body, fun l _ b => b.resumeTaken l, parseEmpty_isSome body, fun _ _ _ _ => rfl⟩, fun _ none => nomatch none⟩
  have hears : ∀ row ∈ sessionUnits, IsSessionRow body row.1 row.2.1 row.2.2 := by
    simp only [sessionUnits, List.forall_mem_cons]
    exact ⟨⟨_, parseHeader body, Block.headerTaken, parseHeader_isSome body, fun _ _ _ _ => rfl⟩,
      ⟨_, parseMark body, Block.markTaken, parseMark_isSome body, fun _ _ _ _ => rfl⟩,
      ⟨_, parsePayload body, Block.payloadTaken, parsePayload_isSome body, fun _ _ _ _ => rfl⟩,
      ⟨_, parseEmpty body, Block.endTaken, parseEmpty_isSome body, fun _ _ _ _ => rfl⟩,
      ⟨_, parseTrailer body, Block.trailerTaken, parseTrailer_isSome body, fun _ _ _ _ => rfl⟩,
      ⟨_, parseNotFound body, Block.notFoundTaken, parseNotFound_isSome body, fun _ _ _ _ => rfl⟩,
      ⟨_, parseFault body, Block.faultTaken, parseFault_isSome body, fun _ _ _ _ => rfl⟩,
      ⟨_, parseAnnotation body, Block.annotationTaken, parseAnnotation_isSome body, fun _ _ _ _ => rfl⟩,
      ⟨_, parseFrameNumber body, Block.rewriteDoneTaken, parseFrameNumber_isSome body, fun _ _ _ _ => rfl⟩,
      ⟨_, parseFrameNumber body, Block.rewriteFailedTaken, parseFrameNumber_isSome body, fun _ _ _ _ => rfl⟩, fun _ none => nomatch none⟩
  refine ⟨fun type ht => ?unknown, fun type unit good hm hb => (link _ hm).malformed h.live hb l, fun type unit good hm => ⟨fun hb => ?_, fun hc h0 hg hn => ?_⟩,
    fun b => b.malformed_eq l⟩
  case unknown => exact (State.event_live h.live _).trans (by rw [if_neg ht])
  · exact (hears _ hm).malformed h.live hb l
  · exact ((hears _ hm).stale h.live hc h0 hg hn).trans (congrArg _ (State.after_quiet h.quiet h.told))

end Sys2Proof.Machine
end

section
/-! SUPPORT. The reads of lanes, capture slots, campaigns, findings, flags, suspects and duty (R67, R90, R120, R144, R145, R176, R195): each is answered at once with the values that stand. -/
namespace Sys2Proof.Machine

/-! ## What the replies are made of (R215; log entry 9) -/

theorem CaptureSlot.bytes_eq (clock : Nat) (c : CaptureSlot) : c.bytes clock =
    [laneByte c.selector, c.kind.getD 0x00, markByte c.keepFaulty, BitVec.ofNat 8 c.window, markByte c.notify, markByte c.seen, markByte c.faulty,
      laneByte c.lastLane, BitVec.ofNat 8 (secondsLeft clock c.timer)] ++
        (match c.content with | some bs => [0x01, BitVec.ofNat 8 bs.length] ++ bs | none => [0x00, 0x00]) := by
  unfold CaptureSlot.bytes
  cases c.content with
  | some bs => rfl
  | none => rfl

/-- The exchange in flight for a campaign is its lane's while the item is the campaign's (R120). -/
theorem Block.exchangeFor_eq (b : Block) (c : Campaign) : b.exchangeFor c =
    if (b.lane c.lane).item.map Item.owner = some (.campaign c.id) then (b.lane c.lane).exchange else .idle := by
  unfold Block.exchangeFor
  cases (b.lane c.lane).item with
  | none => exact (if_neg nofun).symm
  | some it => simp only [Option.map_some, Option.some.injEq]

/-- The four contexts at most, so the summary leaves room for the entries (R154, R176). -/
theorem RepairEngine.summary_length (r : RepairEngine) : r.summary.length ≤ 1022 := by
  have contexts : r.freeContexts.length ≤ 4 := List.length_filter_le _ _
  unfold RepairEngine.summary
  simp only [List.length_append, List.length_map, List.length_cons, List.length_nil]
  have phases : RepairPhase.all.length = 5 := rfl
  omega

theorem Block.entryItems_length (b : Block) (first count : Nat) : (b.entryItems first count).length = min count (b.repair.list.length - (first - 1)) := by
  unfold Block.entryItems
  rw [List.length_map, List.length_zipIdx, List.length_take, List.length_drop]

theorem Block.entryItems_getElem? {b : Block} {first count i : Nat} {e : Entry} (hi : i < count) (he : b.repair.list[first - 1 + i]? = some e) :
    (b.entryItems first count)[i]? = some (b.entryBytes (first + i) e) := by
  unfold Block.entryItems
  rw [List.getElem?_map, List.getElem?_zipIdx, List.getElem?_take_of_lt hi, List.getElem?_drop, he]
  simp

/-- The claim of a source fetch shows the bytes written into its extents in place of those received (R41, R176). -/
theorem Block.poolShown_claim {b : Block} {e : Entry} {l : Fin 8} {i : Fin 4} {u : DigestUnit} (hp : e.phase = .fetching) (hi : b.pool.unitOf l = some i)
    (hu : b.pool.heldBy l = some u) : (b.poolShown e l).claimBytes l =
      [0x02, BitVec.ofNat 8 i.val, if u.running then 0x02 else 0x01, u.claim.kind.code] ++ beBytes 4 u.claim.frame ++ beBytes 4 u.claim.recLength ++
        beBytes 4 (min u.received u.claim.recLength) ++ beBytes 4 (u.claim.recLength - u.received) := by
  have outstanding : u.written.outstanding = u.claim.recLength - u.received := by
    show u.claim.recLength - min u.received u.claim.recLength = _
    omega
  unfold Block.poolShown Pool.claimBytes
  rw [if_pos hp, Pool.unitOf_updHeld DigestUnit.written rfl hi hu, Pool.heldBy_updHeld DigestUnit.written rfl hi hu]
  dsimp only
  rw [outstanding]
  rfl

/-- READ SUSPECTS gives a source fetch in hand with the bytes written into its extents, in both counts (R176; log entry 9). -/
theorem Block.entryBytes_fetching {b : Block} {e : Entry} {l : Fin 8} {u : DigestUnit} {f : FrameExchange} (hp : e.phase = .fetching)
    (hs : e.stepLane = some l) (hx : (b.lane l).exchange = .frame f)
    (hr : b.store.recordedLength e.key.slot e.key.frame = u.claim.recLength) (position : Nat) :
    ∃ fields, b.entryBytes position e = fields ++ [0x01, BitVec.ofNat 8 l.val] ++ (Exchange.frame { f with soFar := min f.soFar u.claim.recLength }).bytes ++
      [BitVec.ofNat 8 (b.entryNeed e)] ++ (b.poolShown e l).claimBytes l := by
  have exchange : b.exchangeShown e l = .frame { f with soFar := min f.soFar u.claim.recLength } := by
    unfold Block.exchangeShown
    rw [if_pos hp, hx, hr]
    rfl
  unfold Block.entryBytes
  rw [hs]
  dsimp only [Option.map_some]
  rw [exchange]
  exact ⟨_, congrArg (fun bs => bs ++ [BitVec.ofNat 8 (b.entryNeed e)] ++ (b.poolShown e l).claimBytes l)
    (List.append_assoc _ [0x01, BitVec.ofNat 8 l.val] _).symm⟩

/-- A pacing gate is reported by the milliseconds until it opens (R195). -/
theorem Block.gateBytes_eq (b : Block) (l : Fin 8) : b.gateBytes l = optBytes 4 (match (b.lane l).gate with
    | some t => if t ≤ b.clock then none else some (beField 4 ((t - b.clock + 999) / 1000)) | none => none) := by
  unfold Block.gateBytes
  cases (b.lane l).gate with
  | some t => rfl
  | none => rfl

/-- The end of a calibration run: elapsed time and ceiling are 0 for an aborted run, and the abort cause for a complete one (R195, R213). -/
theorem CalibrationEnd.bytes_eq : CalibrationEnd.bytes = fun e => match e with
    | .done t ceiling => [0x00] ++ beField 4 t ++ beBytes 2 ceiling ++ [0x00]
    | .aborted cause => [0x01, 0x00, 0x00, 0x00, 0x00, 0x00, 0x00, cause.code] := by
  funext e
  cases e with
  | done t ceiling => rfl
  | aborted cause => rfl

/-! ## The seven reads -/

/-- READ CAMPAIGN of an id other than 0: the campaign's values, or ABSENT (R120). -/
theorem Block.readCampaign_named {b : Block} {body : List Byte} (h0 : fieldAt body 0 2 ≠ 0) :
    b.readCampaign body = match b.campaign (fieldAt body 0 2) with | none => b.refuse .absent | some c => b.done (b.campaignBytes c) :=
  if_neg h0

/-- Settles O41, read by read. -/
theorem readsChangeNothing : Obligations.ReadsChangeNothing := by
  intro s tag body on
  have marks : on = markByte := rfl
  refine ⟨fun h => ?lane, fun h => ?capture, fun h => ?campaign, fun h => ?findings, fun h => ?flags, fun h => ?suspects, ?fetching, fun h => ?duty⟩
  case lane =>
    refine ⟨fun hr => State.request_refused h (Block.onLane_range hr _), fun l hl => ?_⟩
    refine (State.request_read h (Block.onLane_at hl _)).trans ?_
    simp only [marks, Block.laneBytes, LaneSettings.bytes, List.append_assoc]
    rfl
  case capture =>
    intro first count inRange values
    refine ⟨fun hr => State.request_refused h (if_neg hr), fun hr => ⟨_, _, State.request_read h (if_pos hr), listResults_spec (Nat.zero_le _) _, ?_, fun k hk1 hk2 => ?_⟩⟩
    · rw [List.length_map, List.length_take, List.length_drop, Vector.length_toList]
      omega
    · rw [List.getElem?_map, List.getElem?_take_of_lt (by omega), List.getElem?_drop, Nat.add_sub_cancel' hk1, Vector.getElem?_toList, Vector.getElem?_eq_getElem k.isLt]
      exact congrArg some (CaptureSlot.bytes_eq _ _)
  case campaign =>
    intro answer listed
    refine ⟨fun h0 => ⟨_, State.request_read h (if_pos h0), listResults_spec (Nat.zero_le _) _⟩, fun h0 hc => State.request_refused h (by rw [Block.readCampaign_named h0, hc]; rfl), fun c h0 hc => ?_⟩
    intro item values
    refine (State.request_read h (by rw [Block.readCampaign_named h0, hc]; rfl)).trans (b := .next (s.replied s.blk 0x14 tag (.done (s.blk.campaignBytes c)))) ?_
    simp only [values, item, marks, Block.campaignBytes, Block.exchangeFor_eq, Counts.bytes, classSetBytes, List.append_assoc]
  case findings =>
    intro start count found answer
    refine ⟨fun hr => State.request_refused h (if_neg hr), fun h1 h2 => State.request_read h (if_pos ⟨h1, h2⟩)⟩
  case flags =>
    exact State.request_read h rfl
  case suspects =>
    intro first count inRange answer list contexts summary
    exact ⟨fun hr => State.request_refused h (if_neg hr), fun hr => ⟨_, _, State.request_read h (if_pos hr), listResults_spec (RepairEngine.summary_length _) _,
      Block.entryItems_length _ _ _, fun i e hi he => Block.entryItems_getElem? hi he⟩⟩
  case fetching =>
    intro b position e l i u f hp hs hi hu hx hr written shown
    obtain ⟨fields, hf⟩ := Block.entryBytes_fetching hp hs hx hr position
    refine ⟨fields, ?_⟩
    rw [hf, Block.poolShown_claim hp hi hu]
    simp only [List.append_assoc]
    rfl
  case duty =>
    intro b d time lane
    have lanes : lane = b.dutyLaneBytes := by
      funext l
      unfold Block.dutyLaneBytes
      rw [Block.gateBytes_eq, CalibrationEnd.bytes_eq]
      rfl
    rw [lanes]
    exact State.request_read h rfl

end Sys2Proof.Machine
end

section
/-! SUPPORT. A rewrite: what REWRITE_END_SENT sends, and its answers REWRITE_DONE and REWRITE_FAILED (R52, R58, R62, R80, R164 to R166). -/
namespace Sys2Proof.Machine

/-! ## The PAYLOAD bodies of a rewrite (R58) -/

theorem payloadBodies_flatten : ∀ (n : Nat) (bs : List Byte), bs.length ≤ n * 65536 → (payloadBodies n bs).flatten = bs
  | 0, [], _ => rfl
  | 0, _ :: _, h => absurd h (by simp)
  | _ + 1, [], _ => rfl
  | n + 1, b :: bs, h => by
    have rest := payloadBodies_flatten n ((b :: bs).drop 65536) (by rw [List.length_drop]; omega)
    show (b :: bs).take 65536 ++ (payloadBodies n ((b :: bs).drop 65536)).flatten = b :: bs
    rw [rest, List.take_append_drop]

theorem payloadBodies_length : ∀ (n : Nat) (bs : List Byte), ∀ body ∈ payloadBodies n bs, 1 ≤ body.length ∧ body.length ≤ 65536
  | 0, _, _, h => nomatch h
  | _ + 1, [], _, h => nomatch h
  | n + 1, b :: bs, body, h => by
    rcases List.mem_cons.1 h with rfl | h
    · simp only [List.length_take, List.length_cons]
      omega
    · exact payloadBodies_length n _ body h

/-- Every body but the last is full: where bytes are left over, a body has taken 65,536. -/
theorem payloadBodies_full : ∀ (n : Nat) (bs : List Byte), ∀ body ∈ (payloadBodies n bs).dropLast, body.length = 65536
  | 0, _, _, h => nomatch h
  | _ + 1, [], _, h => nomatch h
  | n + 1, b :: bs, body, h => by
    have cut : payloadBodies (n + 1) (b :: bs) = (b :: bs).take 65536 :: payloadBodies n ((b :: bs).drop 65536) := rfl
    rw [cut] at h
    by_cases hrest : payloadBodies n ((b :: bs).drop 65536) = []
    · rw [hrest] at h
      exact nomatch h
    · rw [List.dropLast_cons_of_ne_nil hrest] at h
      rcases List.mem_cons.1 h with rfl | h
      · have left : (b :: bs).drop 65536 ≠ [] := fun hnil => hrest (by rw [hnil]; cases n <;> rfl)
        rw [List.length_take, Nat.min_eq_left]
        exact Nat.le_of_lt (Nat.lt_of_not_le fun hle => left (List.drop_eq_nil_of_le hle))
      · exact payloadBodies_full n _ body h

theorem unstageBytes_length (extents : List Nat) (m : List Host.Cell) : ∀ i n : Nat, (unstageBytes extents m i n).length = n
  | _, 0 => rfl
  | i, n + 1 => congrArg Nat.succ (unstageBytes_length extents m (i + 1) n)

/-- Units sent one after another are one change of the lane. -/
theorem Block.foldl_send {α : Type} (l : Fin 8) (unit : α → SentUnit) : ∀ (xs : List α) (b : Block),
    xs.foldl (fun acc x => acc.send l (unit x)) b = b.updLane l (fun ln => { ln with sent := ln.sent ++ xs.map unit })
  | [], b => by
    simp only [List.foldl_nil, List.map_nil, List.append_nil]
    exact (b.updLane_id l).symm
  | x :: xs, b => by
    rw [List.foldl_cons, Block.foldl_send l unit xs, Block.send, Block.updLane_updLane]
    simp only [List.append_assoc, List.singleton_append, List.map_cons]

/-! ## REWRITE_END_SENT (R52, R58) -/

theorem Block.rewriteSent_unawaited {b : Block} {l : Fin 8} (h : ∀ frame, (b.lane l).exchange ≠ .rewrite frame false) : Block.rewriteSent l b = b := by
  unfold Block.rewriteSent
  split
  · next frame _ hx _ => exact absurd hx (h frame)
  · rfl

/-- The frame leaves in its PAYLOAD bodies and END, and the stall timer starts, as one change of the lane. -/
theorem Block.rewriteSent_awaited {b : Block} {l : Fin 8} {frame : Nat} {k : EntryKey} (hx : (b.lane l).exchange = .rewrite frame false)
    (ho : (b.lane l).owner = some (.entry k)) : Block.rewriteSent l b = b.updLane l (fun x => { x with
      exchange := .rewrite frame true, stallTimer := some (b.clock + (b.lane l).settings.stallLimit * 500000)
      sent := x.sent ++ (b.rewriteBodies k).map (SentUnit.payload (b.lane l).sessionNumber) ++ [.endUnit (b.lane l).sessionNumber] }) := by
  unfold Block.rewriteSent
  rw [hx, ho]
  dsimp only
  rw [Block.foldl_send, Block.send, Block.startStall, Block.updLane_updLane, Block.updLane_updLane, Block.updLane_updLane]
  exact Block.updLane_congr rfl

/-- The bodies sent are the staged frame of the entry (R155, R164). -/
theorem Block.rewriteBodies_found {b : Block} {k : EntryKey} {e : Entry} (he : b.repair.find k = some e) : b.rewriteBodies k =
    payloadBodies (b.store.recordedLength k.slot k.frame / 65536 + 1)
      (unstageBytes (e.extents.getD []) b.staging 0 (b.store.recordedLength k.slot k.frame)) := by
  unfold Block.rewriteBodies
  rw [he]

/-! ## REWRITE_DONE and REWRITE_FAILED (R80, R165, R166) -/

section
variable {b : Block} {l : Fin 8} {n : Nat} {k : EntryKey}

theorem Block.rewriteDoneTaken_awaited (hx : (b.lane l).exchange = .rewrite n true) (ho : (b.lane l).owner = some (.entry k)) :
    Block.rewriteDoneTaken l n b = b.repairRewritten l k := by
  unfold Block.rewriteDoneTaken
  rw [hx, ho]
  exact if_pos rfl

theorem Block.rewriteDoneTaken_unawaited (h : (b.lane l).exchange ≠ .rewrite n true) : Block.rewriteDoneTaken l n b = b.malformed l := by
  unfold Block.rewriteDoneTaken
  split
  · next frame _ hx _ => exact if_neg fun e => h (by rw [e]; exact hx)
  · rfl

theorem Block.rewriteFailedTaken_awaited {sent : Bool} (hx : (b.lane l).exchange = .rewrite n sent) (ho : (b.lane l).owner = some (.entry k)) :
    Block.rewriteFailedTaken l n b = if (b.lane l).state = .yielding then (b.rewriteFailed k).endOwner l else (b.endOwner l).rewriteFailed k := by
  unfold Block.rewriteFailedTaken
  rw [hx, ho]
  exact if_pos rfl

theorem Block.rewriteFailedTaken_unawaited (h : ∀ sent, (b.lane l).exchange ≠ .rewrite n sent) : Block.rewriteFailedTaken l n b = b.malformed l := by
  unfold Block.rewriteFailedTaken
  split
  · next frame sent _ hx _ => exact if_neg fun e => h sent (by rw [e]; exact hx)
  · rfl

/-- Ending the exchange leaves the lane's state and its item. -/
theorem Block.dropExchange_stands (b : Block) (l : Fin 8) : ((b.dropExchange l).lane l).state = (b.lane l).state ∧
    ((b.dropExchange l).lane l).item = (b.lane l).item ∧ ((b.dropExchange l).lane l).session = (b.lane l).session := by
  rw [Block.dropExchange_lane]
  exact ⟨rfl, rfl, rfl⟩

theorem Block.dropExchange_stopping (b : Block) (l : Fin 8) : ((b.dropExchange l).lane l).stopping = (b.lane l).stopping := by
  obtain ⟨-, item, -⟩ := b.dropExchange_stands l
  unfold Lane.stopping
  rw [item]

/-- An entry rewritten: its lane ends the step if it is YIELDING or a duty change has stopped it, and otherwise claims a digest unit for the read-back (R165). -/
theorem Block.repairRewritten_eq (b : Block) (l : Fin 8) (k : EntryKey) : b.repairRewritten l k =
    let readback := (b.dropExchange l).updEntry k (fun e => { e with interrupted := false, phase := .readback })
    if (b.lane l).state = .yielding ∨ (b.lane l).stopping = true then (readback.endOwner l).updEntry k (fun e => { e with stepLane := none })
    else readback.claimForEntry l k .readback := by
  obtain ⟨state, -, -⟩ := b.dropExchange_stands l
  unfold Block.repairRewritten
  dsimp only
  rw [Block.updEntry_lane, state, Block.dropExchange_stopping]

/-- A rewrite attempt is counted: the entry is tested again, or settles at the second (R166). -/
theorem Block.rewriteFailed_found {e : Entry} (he : b.repair.find k = some e) : b.rewriteFailed k =
    let again := b.updEntry k (fun x => { x with rewriteAttempts := x.rewriteAttempts + 1, phase := .staged, stepLane := none })
    if e.rewriteAttempts + 1 < 2 then again.rewriteTest k else again.settleEntry k .sisterSound (some .rewriteUnreliable) := by
  have counted := RepairEngine.find_upd b.repair k (fun x => { x with rewriteAttempts := x.rewriteAttempts + 1, phase := .staged, stepLane := none }) fun _ => rfl
  rw [he] at counted
  unfold Block.rewriteFailed
  dsimp only
  rw [show (b.updEntry k (fun x => { x with rewriteAttempts := x.rewriteAttempts + 1, phase := .staged, stepLane := none })).repair.find k = _ from counted]
  rfl

end

/-- Settles O51: the end of the sending, and both answers, awaited or not. -/
theorem rewritesAreAnswered : Obligations.RewritesAreAnswered := by
  refine ⟨fun s l h => ?sent, fun s l session body crc n hp => ?answers, fun b k e he => Block.rewriteFailed_found he⟩
  case sent =>
    intro ln answer
    refine ⟨fun hx => State.event_still h (Block.rewriteSent_unawaited hx) h.quiet h.told, fun frame k e hx ho he => ?_⟩
    refine ⟨s.blk.rewriteBodies k, ?_, ?_, ?_, State.event_still h (Block.rewriteSent_awaited hx ho) h.quiet h.told⟩
    · rw [Block.rewriteBodies_found he]
      exact payloadBodies_flatten _ _ (by rw [unstageBytes_length]; omega)
    · rw [Block.rewriteBodies_found he]
      exact payloadBodies_length _ _
    · rw [Block.rewriteBodies_found he]
      exact payloadBodies_full _ _
  case answers =>
    intro ln read malformed
    refine ⟨fun hh => ?done, fun hh => ?failed⟩
    case done =>
      intro answer
      have answers : answer = .next (s.after (Block.rewriteDoneTaken l n s.blk)) := State.event_heard hh hp (Block.rewriteDoneTaken l)
      refine ⟨fun k hx ho => ?_, fun hx => by rw [answers, Block.rewriteDoneTaken_unawaited hx]⟩
      rw [Block.rewriteDoneTaken_awaited hx ho, Block.repairRewritten_eq] at answers
      refine ⟨fun hy hs => ?_, fun hy => ?_⟩
      · dsimp only at answers
        rw [if_neg (by rintro (hy' | hs'); exacts [hy hy', Bool.false_ne_true (hs.symm.trans hs')])] at answers
        exact answers
      · dsimp only at answers
        rw [if_pos hy] at answers
        exact answers
    case failed =>
      intro answer
      have answers : answer = .next (s.after (Block.rewriteFailedTaken l n s.blk)) := State.event_heard hh hp (Block.rewriteFailedTaken l)
      exact ⟨fun k x hx ho => by rw [answers, Block.rewriteFailedTaken_awaited hx ho], fun hx => by rw [answers, Block.rewriteFailedTaken_unawaited hx]⟩

end Sys2Proof.Machine
end

section
/-! SUPPORT. What an event of one class outside the frames leaves (R99, R105, R108): the Recorder's decision on it, the campaign and the Recorder once the answer is taken, and the end of
the campaign's session (R56, R115, R116). -/
namespace Sys2Proof.Machine

/-! ## The decision on one class (R125, R127, R128) -/

theorem FindingClass.set_and (k : FindingClass) (s : ClassSet) : k.set &&& s = if ClassSet.has s k then k.set else 0 := by
  rw [BitVec.and_comm]
  exact BitVec.and_twoPow s k.number

theorem FindingClass.set_ne_zero (k : FindingClass) : k.set ≠ 0 := by cases k <;> decide

theorem ClassSet.highest_set (k : FindingClass) : ClassSet.highest k.set = some k := by cases k <;> decide

theorem ClassSet.has_set (k j : FindingClass) : ClassSet.has k.set j = decide (j = k) := by cases k <;> cases j <;> decide

theorem ClassSet.has_empty (k : FindingClass) : ClassSet.has 0 k = false := BitVec.getLsbD_zero

/-- The decision on a class that is not recognised. -/
structure Decision.Passes (d : Decision) : Prop where
  recognised : d.recognised = 0
  noted      : d.noted = 0
  outcome    : d.outcome = .goOn
  haltCode   : d.haltCode = none

/-- The decision on one class disposed HALT. -/
structure Decision.Halts (d : Decision) (k : FindingClass) : Prop where
  recognised : d.recognised = k.set
  noted      : d.noted = 0
  outcome    : d.outcome = .halt
  haltCode   : d.haltCode = some { cls := k, recognised := k.set }
  logged     : d.loggedClass = some k

/-- The decision on one class disposed NOTE. -/
structure Decision.Notes (d : Decision) (k : FindingClass) : Prop where
  recognised : d.recognised = k.set
  noted      : d.noted = k.set
  outcome    : d.outcome = if k = .identity then .finish else .goOn
  haltCode   : d.haltCode = none
  logged     : d.loggedClass = some k

/-- What the decision on one class is made of: its recognition by the disregard set, its disposition by the profile. -/
theorem Recorder.judge_set_fields (r : Recorder) (p : ProfileChoice) (disregard : ClassSet) (k : FindingClass) :
    let d := r.judge p disregard k.set
    let halting := ClassSet.has (r.profiles[r.resolve p]).halts k
    (ClassSet.has (~~~disregard) k = false → d.recognised = 0 ∧ d.halts = 0 ∧ d.noted = 0) ∧
      (ClassSet.has (~~~disregard) k = true → d.recognised = k.set ∧ d.halts = (if halting then k.set else 0) ∧ d.noted = if halting then 0 else k.set) := by
  intro d halting
  have halts : d.halts = d.recognised &&& (r.profiles[r.resolve p]).halts := rfl
  have noted : d.noted = d.recognised &&& ~~~(r.profiles[r.resolve p]).halts := rfl
  have recognised : d.recognised = if ClassSet.has (~~~disregard) k then k.set else 0 := k.set_and _
  refine ⟨fun hd => ?_, fun hd => ?_⟩
  · rw [halts, noted, recognised, hd]
    exact ⟨rfl, BitVec.zero_and, BitVec.zero_and⟩
  · rw [halts, noted, recognised, hd, if_pos rfl, FindingClass.set_and, FindingClass.set_and, ClassSet.has_not]
    refine ⟨rfl, rfl, ?_⟩
    show (if (!halting) = true then k.set else 0) = _
    cases halting <;> rfl

/-- One class is not recognised, or disposed HALT, or disposed NOTE. -/
theorem Recorder.judge_set (r : Recorder) (p : ProfileChoice) (disregard : ClassSet) (k : FindingClass) :
    (r.judge p disregard k.set).Passes ∨ (r.judge p disregard k.set).Halts k ∨ (r.judge p disregard k.set).Notes k := by
  obtain ⟨passed, taken⟩ := r.judge_set_fields p disregard k
  have outcome : (r.judge p disregard k.set).outcome = if (r.judge p disregard k.set).halts ≠ 0 then .halt
      else if ClassSet.has (r.judge p disregard k.set).noted .identity then .finish else .goOn := rfl
  cases hd : ClassSet.has (~~~disregard) k with
  | false =>
    obtain ⟨recognised, halts, noted⟩ := passed hd
    rw [halts, noted, if_neg (fun h => h rfl), ClassSet.has_empty] at outcome
    exact .inl ⟨recognised, noted, outcome, (Decision.haltCode_none _).2 halts⟩
  | true =>
    obtain ⟨recognised, halts, noted⟩ := taken hd
    cases hh : ClassSet.has (r.profiles[r.resolve p]).halts k with
    | true =>
      rw [hh, if_pos rfl] at halts noted
      rw [halts, if_pos k.set_ne_zero] at outcome
      refine .inr (.inl ⟨recognised, noted, outcome, ?_, ?_⟩)
      · rw [Decision.haltCode, halts, recognised, ClassSet.highest_set]
        rfl
      · rw [Decision.loggedClass, halts, if_pos k.set_ne_zero, ClassSet.highest_set]
    | false =>
      rw [hh, if_neg Bool.false_ne_true] at halts noted
      rw [halts, noted, if_neg (fun h => h rfl), ClassSet.has_set] at outcome
      refine .inr (.inr ⟨recognised, noted, ?_, (Decision.haltCode_none _).2 halts, ?_⟩)
      · rw [outcome]
        cases k <;> rfl
      · rw [Decision.loggedClass, halts, if_neg (fun h => h rfl), recognised, ClassSet.highest_set]

/-! ## The event taken by the campaign and the Recorder (R104, R115, R132, R140, R141) -/

/-- The finding of an event, as it is logged. -/
def Block.logged (b : Block) (c : Campaign) (ev : Event) (d : Decision) : Finding :=
  { makeFinding b.store c ev d with sequence := some b.recorder.nextSequence, acknowledged := false }

/-- The part once an event of a campaign is taken and its answer noted, before the campaign acts on the outcome. -/
def Block.eventNoted (b : Block) (c : Campaign) (ev : Event) : Block :=
  (b.takeEvent c ev).2.updCampaign c.id (Campaign.takeAnswer (b.takeEvent c ev).1)

/-- The campaign once the answer to an event is noted: `waits` says that the event's finding is pending. -/
def Campaign.noting (c : Campaign) (d : Decision) (waits : Bool) : Campaign :=
  { c with noted := c.noted ||| d.noted, haltCode := d.haltCode <|> c.haltCode, pendingFinding := c.pendingFinding || waits }

/-- What stands once an event outside the frames is noted. -/
structure Block.Noted (b : Block) (c : Campaign) (ev : Event) (d : Decision) (t : Block) : Prop where
  campaign : t.campaign c.id = some (c.noting d (d.recognised != 0 && !b.recorder.logsNow))
  lanes    : t.lanes = b.lanes
  pool     : t.pool = b.pool
  store    : t.store = if ClassSet.has d.noted .rollup then b.store.flagClaim c.slot else b.store
  passes   : d.recognised = 0 → t.recorder = b.recorder
  flags    : d.recognised ≠ 0 → t.recorder.flags = b.recorder.flags ||| d.noted
  logs     : d.recognised ≠ 0 → b.recorder.logsNow = true →
    t.recorder.nextSequence = b.recorder.nextSequence + 1 ∧ t.recorder.log.getLast? = some (b.logged c ev d)
  pends    : d.recognised ≠ 0 → b.recorder.logsNow = false → t.recorder.pending = b.recorder.pending ++ [{ finding := makeFinding b.store c ev d, enqueued := false }]

section
variable {b : Block} {c : Campaign} (hc : b.campaign c.id = some c) {ev : Event} (hf : ev.frame = none) {k : FindingClass} (hk : ev.conditions = k.set)

/-- The decision on an event of a campaign. -/
def Block.decides (b : Block) (c : Campaign) (ev : Event) : Decision := b.recorder.judge c.profile c.disregard ev.conditions

theorem Block.takeEvent_pending (b : Block) (c : Campaign) (ev : Event) :
    (b.takeEvent c ev).1.pending = ((b.decides c ev).recognised != 0 && !b.recorder.logsNow) := by
  by_cases h : (b.decides c ev).recognised = 0
  · rw [Block.takeEvent_none h, h]
    rfl
  · obtain ⟨-, -, -, pending, -, -, -⟩ := Block.takeEvent_spec b c ev h
    rw [pending, bne_iff_ne.2 h, Bool.true_and]

include hk in
theorem Block.takeEvent_outcome : (b.takeEvent c ev).1.noted = (b.decides c ev).noted ∧ (b.takeEvent c ev).1.outcome = (b.decides c ev).outcome ∧
    (b.takeEvent c ev).1.haltCode = (b.decides c ev).haltCode := by
  by_cases h : (b.decides c ev).recognised = 0
  · have passes : (b.decides c ev).Passes := by
      unfold Block.decides at h ⊢
      rw [hk] at h ⊢
      rcases b.recorder.judge_set c.profile c.disregard k with hp | hh | hn
      · exact hp
      · exact absurd (hh.recognised.symm.trans h) k.set_ne_zero
      · exact absurd (hn.recognised.symm.trans h) k.set_ne_zero
    rw [Block.takeEvent_none h, passes.noted, passes.outcome, passes.haltCode]
    exact ⟨rfl, rfl, rfl⟩
  · obtain ⟨noted, outcome, haltCode, -, -, -, -⟩ := Block.takeEvent_spec b c ev h
    exact ⟨noted, outcome, haltCode⟩

theorem Block.takeEvent_store {p : Block} (h : (p.decides c ev).recognised ≠ 0) : (p.takeEvent c ev).2.store =
    if ClassSet.has (p.decides c ev).noted .rollup then p.store.flagClaim c.slot else p.store := by
  have kept : ∀ (q : Block) (f : Finding) (w : Bool), (q.keepFinding f w).store = q.store := fun q f w => by
    unfold Block.keepFinding
    split <;> rfl
  rw [show p.takeEvent c ev = _ from if_neg h]
  dsimp only
  unfold Block.decides
  split
  · exact congrArg (fun st : Store => st.flagClaim c.slot) (kept _ _ _)
  · exact kept _ _ _

include hc hf hk in
/-- An event of one class outside the frames, once it is noted. -/
theorem Block.eventNoted_spec : b.Noted c ev (b.decides c ev) (b.eventNoted c ev) := by
  obtain ⟨noted, -, haltCode⟩ := Block.takeEvent_outcome (b := b) (c := c) hk
  have pending := b.takeEvent_pending c ev
  have still := (Still.refl b).takeEvent c ev
  refine ⟨?_, still.lanes, still.pool, ?_, fun h => ?_, fun h => ?_, fun h hl => ?_, fun h hl => ?_⟩
  · have found : (b.takeEvent c ev).2.campaign c.id = some c := by
      unfold Block.campaign
      rw [Block.takeEvent_sched]
      exact hc
    unfold Block.eventNoted
    rw [Block.campaign_updCampaign _ _ _ (Campaign.takeAnswer _) fun _ => rfl, if_pos rfl, found]
    refine congrArg some ?_
    unfold Campaign.takeAnswer Campaign.noting
    rw [noted, haltCode, pending]
    cases (b.decides c ev).haltCode <;> rfl
  · by_cases h : (b.decides c ev).recognised = 0
    · have none_noted : (b.decides c ev).noted = 0 := by
        have empty := noted
        rw [Block.takeEvent_none h] at empty
        exact empty.symm
      unfold Block.eventNoted
      rw [Block.takeEvent_none h, none_noted, ClassSet.has_empty]
      rfl
    · exact Block.takeEvent_store h
  · unfold Block.eventNoted
    rw [Block.takeEvent_none h]
    rfl
  · obtain ⟨-, -, -, -, flags, -, -⟩ := Block.takeEvent_spec b c ev h
    exact flags
  · obtain ⟨-, -, -, -, -, last, -⟩ := Block.takeEvent_spec b c ev h
    refine ⟨?_, last hl⟩
    have recorder := Block.takeEvent_recorder h
    dsimp only at recorder
    rw [hl, if_pos rfl] at recorder
    exact congrArg Recorder.nextSequence recorder
  · have recorder := Block.takeEvent_recorder h
    dsimp only at recorder
    rw [hl, if_neg Bool.false_ne_true] at recorder
    have wants : b.recorder.callsForSuspect ev (b.decides c ev) = false := by
      unfold Recorder.callsForSuspect
      rw [hf]
      rfl
    rw [show b.recorder.callsForSuspect ev (b.recorder.judge c.profile c.disregard ev.conditions) = _ from wants] at recorder
    exact congrArg Recorder.pending recorder

/-! ## The campaign acts (R56, R100, R104, R115, R116) -/

/-- The part once the campaign has ended its session, where it is the campaign that ends it. -/
def Block.endedFor (t : Block) (d : Campaign) (viaLane : Bool) : Block := if viaLane then t.campaignEndsSession d else t

include hc hf hk in
theorem Block.applyAnswer_noted (viaLane : Bool) :
    let t := b.eventNoted c ev
    let d := b.decides c ev
    let act := (b.takeEvent c ev).2.applyAnswer c.id (b.takeEvent c ev).1 viaLane
    let waits := d.recognised != 0 && !b.recorder.logsNow
    let ended := t.endedFor (c.noting d waits) viaLane
    (d.outcome = .finish → act = ended.closeCampaign c.id .ended (some .identity) .identity) ∧
    (d.outcome = .halt ∨ (d.outcome = .goOn ∧ waits = true) → act = ended.holdCampaign c.id (if waits then .logFull else .finding)) ∧
    (d.outcome = .goOn → waits = false → act = t) := by
  intro t d act waits ended
  obtain ⟨-, outcome, -⟩ := Block.takeEvent_outcome (b := b) (c := c) hk
  have campaign : t.campaign c.id = some (c.noting d waits) := (Block.eventNoted_spec hc hf hk).campaign
  have pending : (b.takeEvent c ev).1.pending = waits := b.takeEvent_pending c ev
  have acts : act = match d.outcome with
      | .finish => ended.closeCampaign c.id .ended (some .identity) .identity
      | .halt => ended.holdCampaign c.id (if waits then .logFull else .finding)
      | .goOn => if waits then ended.holdCampaign c.id .logFull else t := by
    show Block.applyAnswer _ _ _ _ = _
    unfold Block.applyAnswer
    dsimp only
    rw [show ((b.takeEvent c ev).2.updCampaign c.id (Campaign.takeAnswer (b.takeEvent c ev).1)).campaign c.id = _ from campaign, pending, outcome]
    rfl
  refine ⟨fun ho => ?_, fun ho => ?_, fun ho hw => ?_⟩
  · rw [acts, ho]
  · rcases ho with ho | ⟨ho, hw⟩
    · rw [acts, ho]
    · rw [acts, ho, hw]
      rfl
  · rw [acts, ho, hw]
    rfl

end

/-! ## A campaign that leaves its queue (R16, R97, R121) -/

/-- A campaign that is DONE or ENDED: its state and its causes change, CAMPAIGN_CHANGED gives its values, and it gives its pin back. -/
theorem Block.closeCampaign_spec {b : Block} {id : Nat} {c : Campaign} (hc : b.campaign id = some c) (st : CampaignState) (endCause : Option EndCause) (cause : CampaignCause) :
    let after := b.closeCampaign id st endCause cause
    after.campaign id = some { c with state := st, endCause := endCause, heldCause := none } ∧ after.recorder = b.recorder ∧
      after.store = b.store.unpinCampaign c.slot ∧ after.port.raised = b.port.raised ++ [.campaignChanged c.id c.lane c.slot st cause c.resumePoint c.counts] := by
  have closed : (b.updCampaign id (fun x => { x with state := st, endCause := endCause, heldCause := none })).campaign id =
      some { c with state := st, endCause := endCause, heldCause := none } := by
    rw [Block.campaign_updCampaign _ _ _ _ fun x => by rfl, if_pos rfl, hc]
    rfl
  unfold Block.closeCampaign
  rw [hc]
  dsimp only
  unfold Block.campaignNotice
  rw [show ((b.updCampaign id (fun x => { x with state := st, endCause := endCause, heldCause := none })).updStore (fun s => s.unpinCampaign c.slot)).campaign id = _ from closed]
  dsimp only
  obtain ⟨ls, asked⟩ := Block.ask_rest ((((b.updCampaign id (fun x => { x with state := st, endCause := endCause, heldCause := none })).updStore
    (fun s => s.unpinCampaign c.slot)).raise (.campaignChanged c.id c.lane c.slot st cause c.resumePoint c.counts))) c.lane
  rw [asked]
  exact ⟨closed, rfl, rfl, rfl⟩

/-! ## The end of a campaign's session (R56) -/

/-- The owner's end leaves the lane with neither session nor exchange, whatever its state. -/
theorem Block.endOwner_lane (b : Block) (l : Fin 8) : ((b.endOwner l).lane l).session = none ∧ ((b.endOwner l).lane l).exchange = .idle := by
  have freed : (((b.dropExchange l).haltSession l).lane l).session = none ∧ (((b.dropExchange l).haltSession l).lane l).exchange = .idle := by
    rw [Block.haltSession_lane, Block.dropExchange_lane]
    exact ⟨rfl, rfl⟩
  have ready : (((((b.dropExchange l).haltSession l).toReady l).lane l).session = none) ∧ ((((b.dropExchange l).haltSession l).toReady l).lane l).exchange = .idle := by
    unfold Block.toReady
    rw [Block.ask_lane, Block.lane_updLane_self]
    exact freed
  unfold Block.endOwner
  dsimp only
  cases (((b.dropExchange l).haltSession l).lane l).state with
  | yielding =>
    have still : Still ((((b.dropExchange l).haltSession l).becomeLent l .ready).laneNotice l .yield) (((b.dropExchange l).haltSession l).toLent l .ready) :=
      Still.tellLent _ l
    dsimp only
    rw [still.lane, Block.laneNotice_lane, Block.becomeLent_eq, Block.lane_updLane_self]
    exact ⟨rfl, freed.2⟩
  | engaged => exact ready
  | calibrating => exact ready
  | ready => exact freed
  | off => exact freed
  | settling => exact freed
  | lent => exact freed
  | stalled => exact freed

/-- A campaign that ends its session owns none on its lane any more. -/
theorem Block.campaignEndsSession_lane (b : Block) (c : Campaign) :
    ((b.campaignEndsSession c).lane c.lane).owner ≠ some (.campaign c.id) ∧
      ((b.lane c.lane).owner = some (.campaign c.id) →
        ((b.campaignEndsSession c).lane c.lane).session = none ∧ ((b.campaignEndsSession c).lane c.lane).exchange = .idle) := by
  cases hs : (b.lane c.lane).session with
  | none =>
    have owner : (b.lane c.lane).owner = none := by unfold Lane.owner; rw [hs]
    have same : b.campaignEndsSession c = b := by unfold Block.campaignEndsSession; rw [hs]
    rw [same, owner]
    exact ⟨nofun, nofun⟩
  | some s =>
    have owner : (b.lane c.lane).owner = some s.owner := by unfold Lane.owner; rw [hs]
    by_cases ho : s.owner = .campaign c.id
    · have ended : ((b.campaignEndsSession c).lane c.lane).session = none ∧ ((b.campaignEndsSession c).lane c.lane).exchange = .idle := by
        unfold Block.campaignEndsSession
        rw [hs]
        dsimp only
        rw [if_pos ho]
        split
        · next f _ _ =>
          rw [((Still.refl (b.endOwner c.lane)).abandonVisit c.slot f).lane]
          exact b.endOwner_lane c.lane
        · exact b.endOwner_lane c.lane
      refine ⟨fun h => ?_, fun _ => ended⟩
      unfold Lane.owner at h
      rw [ended.1] at h
      exact nomatch h
    · have same : b.campaignEndsSession c = b := by
        unfold Block.campaignEndsSession
        rw [hs]
        exact if_neg ho
      rw [same, owner]
      exact ⟨fun h => ho (Option.some.inj h), fun h => absurd (Option.some.inj h) ho⟩

/-! ## Manifests, their records aside -/

/-- A manifest without its records. -/
def Manifest.cover (m : Manifest) : Manifest := { m with records := [] }

/-- The manifests stay, their records aside. -/
def SameCovers (a b : Block) : Prop := ∀ k, (b.store.manifest k).map Manifest.cover = (a.store.manifest k).map Manifest.cover

theorem SameCovers.of_store {a b : Block} (h : b.store = a.store) : SameCovers a b := fun k => by rw [h]

theorem SameCovers.trans {a b c : Block} (h : SameCovers a b) (k : SameCovers b c) : SameCovers a c := fun i => (k i).trans (h i)

/-- A claim on a record changes no manifest but in its records. -/
theorem SameCovers.updRecord (b : Block) (k : Fin 16) (frame : Nat) (f : FrameRecord → FrameRecord) : SameCovers b (b.updStore (fun st => st.updRecord k frame f)) := by
  intro j
  have cover : ∀ m : Manifest, (m.updRecord frame f).cover = m.cover := fun m => by
    unfold Manifest.updRecord
    split <;> rfl
  rw [Block.updStore_store]
  unfold Store.updRecord
  rw [Store.manifest_updManifest]
  split
  · next e =>
    subst e
    rw [Option.map_map]
    exact congrArg (fun g => (b.store.manifest j).map g) (funext cover)
  · rfl

theorem SameCovers.passFrom : ∀ (ks : List EntryKey) (b : Block), SameCovers b (Block.passFrom ks b)
  | [], b => .of_store rfl
  | k :: ks, b => by
    unfold Block.passFrom
    split
    · exact SameCovers.passFrom ks b
    · next e _ =>
      split
      · split
        · exact .of_store rfl
        · next ctx _ =>
          split
          · split
            · have started : SameCovers b (b.startEntry e ctx) := by
                refine SameCovers.trans (SameCovers.updRecord b e.key.slot e.key.frame (fun r => r.enter .inRepair)) ?_
                unfold Block.startEntry
                dsimp only
                obtain ⟨ls, asked⟩ := Block.ask_rest (((b.updStore (fun st => st.repairStart e.key.slot e.key.frame)).updEntry e.key (fun x =>
                  { x with phase := .fetching, context := some ctx, extents := some (b.repair.freeExtents.take (b.entryNeed e)) })).updRepair
                    (fun r => { r with freeExtents := b.repair.freeExtents.drop (b.entryNeed e) })) e.source
                rw [asked]
                exact .of_store rfl
              exact started.trans (SameCovers.passFrom ks _)
            · exact SameCovers.passFrom ks b
          · exact .of_store rfl
      · exact SameCovers.passFrom ks b

theorem SameCovers.startPass (b : Block) : SameCovers b b.startPass := SameCovers.passFrom _ b

theorem SameCovers.entryToWaiting (b : Block) (k : EntryKey) : SameCovers b (b.entryToWaiting k) :=
  (SameCovers.of_store (b.freeEntry_store k)).trans
    (.trans (.updRecord (b.freeEntry k) k.slot k.frame _) (.trans (.of_store rfl) (.startPass (b.waitingAgain k))))

theorem SameCovers.leftService (b : Block) (l : Fin 8) : SameCovers b (b.leftService l) := by
  unfold Block.leftService
  generalize b.repair.list.filter _ = entries
  induction entries generalizing b with
  | nil => exact .of_store rfl
  | cons e entries ih => exact (SameCovers.entryToWaiting b e.key).trans (ih _)

theorem SameCovers.abandonVisit (b : Block) (k : Fin 16) (frame : Nat) : SameCovers b (b.abandonVisit k frame) := by
  refine (SameCovers.updRecord b k frame (fun r => { r with visiting := false })).trans ?_
  show SameCovers (b.updStore (fun st => st.clearVisiting k frame)) ((b.updStore (fun st => st.clearVisiting k frame)).visitCleared k frame)
  unfold Block.visitCleared
  split
  · split
    · exact .startPass _
    · exact .of_store rfl
  · exact .of_store rfl

theorem SameCovers.toLent (b : Block) (l : Fin 8) (target : ResumeTarget) : SameCovers b (b.toLent l target) := by
  have head : (((b.becomeLent l target).laneNotice l .yield).headTo l .yielded).store = b.store := by
    rw [Block.headTo_eq]
    rfl
  exact (SameCovers.of_store head).trans (.leftService _ l)

theorem SameCovers.endOwner (b : Block) (l : Fin 8) : SameCovers b (b.endOwner l) := by
  have freed : SameCovers b ((b.dropExchange l).haltSession l) := .of_store (by rw [Block.haltSession_eq, ← b.dropExchange_store l])
  have ready : SameCovers ((b.dropExchange l).haltSession l) (((b.dropExchange l).haltSession l).toReady l) := by
    obtain ⟨ls, e, -⟩ := ((b.dropExchange l).haltSession l).toReady_rest l
    rw [e]
    exact .of_store rfl
  refine freed.trans ?_
  unfold Block.endOwner
  dsimp only
  cases (((b.dropExchange l).haltSession l).lane l).state with
  | yielding => exact .toLent _ l .ready
  | engaged => exact ready
  | calibrating => exact ready
  | ready => exact .of_store rfl
  | off => exact .of_store rfl
  | settling => exact .of_store rfl
  | lent => exact .of_store rfl
  | stalled => exact .of_store rfl

theorem SameCovers.campaignEndsSession (b : Block) (c : Campaign) : SameCovers b (b.campaignEndsSession c) := by
  unfold Block.campaignEndsSession
  split
  · split
    · split
      · exact (SameCovers.endOwner b c.lane).trans (.abandonVisit _ _ _)
      · exact .endOwner b c.lane
    · exact .of_store rfl
  · exact .of_store rfl

/-- The campaign pins of a manifest stay while only records change. -/
theorem SameCovers.campaignPins {a b : Block} (h : SameCovers a b) (k : Fin 16) :
    (b.store.manifest k).map Manifest.campaignPins = (a.store.manifest k).map Manifest.campaignPins := by
  have pins := congrArg (Option.map Manifest.campaignPins) (h k)
  rw [Option.map_map, Option.map_map] at pins
  exact pins

end Sys2Proof.Machine
end

section
/-! SUPPORT. HEADER in an opening exchange, the IDENTITY event, and a repair step ended without its answer (R73, R99, R100, R114, R159, R161 to R169, R173, R174). -/
namespace Sys2Proof.Machine

/-! ## A campaign's item has its answer (R55, R62, R104, R114) -/

theorem Block.finishItem_eq {b : Block} {l : Fin 8} {item : Item} (hi : (b.lane l).item = some item) (id : Nat) : b.finishItem l id =
    if (b.lane l).state = .yielding then (b.haltSession l).toLent l .ready
    else if item.stopping then ((b.haltSession l).headTo l .waiting).toReady l
    else (b.toReady l).chooseNext id := by
  unfold Block.finishItem
  rw [hi]

/-! ## HEADER of a campaign (R99, R114) -/

section
variable {b : Block} {l : Fin 8}

/-- Ending the exchange leaves the campaigns. -/
theorem Block.dropExchange_campaign (b : Block) (l : Fin 8) (id : Nat) : (b.dropExchange l).campaign id = b.campaign id := by
  unfold Block.campaign
  rw [Block.dropExchange_sched]

theorem Block.headerTaken_unawaited (h : (b.lane l).exchange ≠ .opening) (header : Word64 × Word32 × Nat × Nat) : Block.headerTaken l header b = b.malformed l :=
  if_neg h

variable (hx : (b.lane l).exchange = .opening)
include hx

theorem Block.headerTaken_campaign {id : Nat} (ho : (b.lane l).owner = some (.campaign id)) (header : Word64 × Word32 × Nat × Nat) :
    Block.headerTaken l header b = b.campaignHeader l id header := by
  unfold Block.headerTaken Block.headerEvent
  rw [if_pos hx, ho]

theorem Block.headerTaken_entry {k : EntryKey} (ho : (b.lane l).owner = some (.entry k)) (header : Word64 × Word32 × Nat × Nat) :
    Block.headerTaken l header b = b.repairHeader l k (b.store.headerAgrees k.slot header) := by
  unfold Block.headerTaken Block.headerEvent
  rw [if_pos hx, ho]

end

/-- A header that agrees, or that the identity waiver spares, makes the campaign RUNNING; any other is an IDENTITY event (R99). -/
theorem Block.campaignHeader_found {b : Block} {id : Nat} {c : Campaign} {m : Manifest} (hc : b.campaign id = some c) (hm : b.store.manifest c.slot = some m)
    (l : Fin 8) (header : Word64 × Word32 × Nat × Nat) : b.campaignHeader l id header =
      if c.waiver = true ∨ m.identity = header then
        ((b.dropExchange l).updCampaign id (fun x => { x with state := .running, waiver := false })).finishItem l id
      else (b.dropExchange l).identityEvent id := by
  unfold Block.campaignHeader
  dsimp only
  rw [Block.dropExchange_campaign, hc]
  dsimp only
  rw [Block.dropExchange_store, hm]
  simp only [Option.map_some, Option.some.injEq]

theorem Manifest.identity_eq_iff (m : Manifest) (reel : Word64) (span : Word32) (first count : Nat) :
    m.identity = (reel, span, first, count) ↔ m.reel = reel ∧ m.span = span ∧ m.first = first ∧ m.count = count := by
  unfold Manifest.identity
  simp only [Prod.mk.injEq]

/-! ## HEADER of a repair step (R159, R164, R169) -/

theorem Store.headerAgrees_iff {st : Store} {k : Fin 16} {m : Manifest} (hm : st.manifest k = some m) (header : Word64 × Word32 × Nat × Nat) :
    st.headerAgrees k header = true ↔ m.identity = header := by
  unfold Store.headerAgrees
  rw [hm]
  exact beq_iff_eq

section
variable {b : Block} {k : EntryKey} {e : Entry} (he : b.repair.find k = some e)
include he

/-- The header of another span ends the step, and counts a failed attempt (R161, R166). -/
theorem Block.repairHeader_disagrees (l : Fin 8) : (e.phase = .fetching → b.repairHeader l k false = (b.endOwner l).sourceFailed k) ∧
    (e.phase = .rewriting ∨ e.phase = .readback → b.repairHeader l k false = (b.endOwner l).rewriteFailed k) := by
  unfold Block.repairHeader
  rw [he]
  refine ⟨fun hp => ?_, fun hp => ?_⟩
  · dsimp only
    rw [hp]
    rfl
  · rcases hp with hp | hp
    · dsimp only
      rw [hp]
      rfl
    · dsimp only
      rw [hp]
      rfl

/-- The header of the span lets the step go on, unless a duty change has stopped it (R159, R164, R169, R174). -/
theorem Block.repairHeader_agrees (l : Fin 8) :
    let ended := b.dropExchange l
    ((b.lane l).stopping = true → b.repairHeader l k true = (ended.endOwner l).stepEnded k .idle .duty) ∧
    ((b.lane l).stopping = false →
      (e.phase = .fetching → b.repairHeader l k true = ended.claimForEntry l k .sourceFetch) ∧
      (e.phase = .readback → b.repairHeader l k true = ended.claimForEntry l k .readback) ∧
      (e.phase = .rewriting → b.repairHeader l k true = ended.updLane l (fun x => { x with
        exchange := .rewrite k.frame false
        sent := x.sent ++ [.rewrite (b.lane l).sessionNumber k.frame (b.store.recordedLength k.slot k.frame)] }))) := by
  intro ended
  have number : (ended.lane l).sessionNumber = (b.lane l).sessionNumber := by
    obtain ⟨-, -, session⟩ := b.dropExchange_stands l
    unfold Lane.sessionNumber
    rw [session]
  unfold Block.repairHeader
  rw [he]
  dsimp only
  rw [if_pos rfl, Block.dropExchange_stopping]
  refine ⟨fun hs => if_pos hs, fun hs => ?_⟩
  rw [hs, if_neg Bool.false_ne_true]
  refine ⟨fun hp => by rw [hp], fun hp => by rw [hp], fun hp => ?_⟩
  rw [hp]
  dsimp only
  rw [Block.send, Block.updLane_updLane, number, Block.dropExchange_store]

end

/-! ## A step ended without its answer (R161, R162, R165, R167, R169, R173, R174) -/

theorem Block.stepEnded_found {b : Block} {k : EntryKey} {e : Entry} (he : b.repair.find k = some e) (x : Exchange) (why : Departure) :
    let after := b.stepEnded k x why
    (e.phase = .fetching → why = .stall ∨ why = .putDown → after = b.sourceFailed k) ∧
    (e.phase = .fetching → why = .yield ∨ why = .duty → after = b.entryToWaiting k) ∧
    (∀ frame sent, e.phase = .rewriting → x = .rewrite frame sent → after = (b.updEntry k (fun y => { y with interrupted := true })).rewriteFailed k) ∧
    (e.phase = .rewriting → (∀ frame sent, x ≠ .rewrite frame sent) → after = (b.updEntry k (fun y => { y with phase := .staged, stepLane := none })).rewriteTest k) ∧
    (e.phase = .readback → after = b.updEntry k (fun y => { y with stepLane := none })) ∧
    (e.phase = .waiting ∨ e.phase = .staged → after = b) := by
  intro after
  refine ⟨fun hp hw => ?_, fun hp hw => ?_, fun frame sent hp hx => ?_, fun hp hx => ?_, fun hp => ?_, fun hp => ?_⟩
  · rcases hw with rfl | rfl <;> simp only [after, Block.stepEnded, he, hp]
  · rcases hw with rfl | rfl <;> simp only [after, Block.stepEnded, he, hp]
  · simp only [after, Block.stepEnded, he, hp, hx, Exchange.isRewrite, if_true]
  · have other : x.isRewrite = false := by
      cases x with
      | rewrite frame sent => exact absurd rfl (hx frame sent)
      | idle => rfl
      | opening => rfl
      | closing => rfl
      | frame f => rfl
      | calibration length bytes => rfl
    simp only [after, Block.stepEnded, he, hp, other, Bool.false_eq_true, if_false]
  · simp only [after, Block.stepEnded, he, hp]
  · rcases hp with hp | hp <;> simp only [after, Block.stepEnded, he, hp]

/-! ## The IDENTITY event (R99, R100, R115, R116) -/

/-- The event of a span that is not the manifest's. -/
def Event.identity : Event := { conditions := FindingClass.identity.set, frame := none, delivered := none, annotation := none }

theorem Block.identityEvent_found {b : Block} {id : Nat} {c : Campaign} (hc : b.campaign id = some c) :
    b.identityEvent id = (b.takeEvent c Event.identity).2.applyAnswer id (b.takeEvent c Event.identity).1 true := by
  unfold Block.identityEvent
  rw [hc]
  rfl

/-- What an IDENTITY event leaves of the Recorder, when it is recognised (R104, R132, R140, R141). -/
theorem Block.Noted.identity {b t : Block} {c : Campaign} {d : Decision} (h : b.Noted c Event.identity d t) (hr : d.recognised = FindingClass.identity.set)
    (hl : d.loggedClass = some .identity) : t.recorder.flags = b.recorder.flags ||| d.noted ∧
      (b.recorder.logsNow = true → t.recorder.nextSequence = b.recorder.nextSequence + 1 ∧ ∃ f, t.recorder.log.getLast? = some f ∧
        f.sequence = some b.recorder.nextSequence ∧ f.cls = .identity ∧ f.recognised = FindingClass.identity.set ∧ f.campaign = c.id ∧ f.lane = c.lane ∧
        f.slot = c.slot ∧ f.frame = none ∧ f.verdict = none) ∧
      (b.recorder.logsNow = false → ∃ p, t.recorder.pending = b.recorder.pending ++ [p] ∧ p.enqueued = false) := by
  have recognised : d.recognised ≠ 0 := by rw [hr]; exact FindingClass.set_ne_zero _
  refine ⟨h.flags recognised, fun hlogs => ?_, fun hlogs => ⟨_, h.pends recognised hlogs, rfl⟩⟩
  obtain ⟨next, last⟩ := h.logs recognised hlogs
  exact ⟨next, _, last, rfl, by show d.loggedClass.getD .annotation = _; rw [hl]; rfl, hr, rfl, rfl, rfl, rfl, rfl⟩

/-- A campaign of the table that ends its session, if it owns it, and leaves the Recorder and the pins (R56). -/
theorem Block.campaignEndsSession_spec {t : Block} {x : Campaign} (hx : t.campaign x.id = some x) :
    let ended := t.endedFor x true
    ended.recorder = t.recorder ∧ (∃ st cause, ended.campaign x.id = some { x with state := st, heldCause := cause }) ∧
      (ended.lane x.lane).owner ≠ some (.campaign x.id) ∧
      (ended.store.manifest x.slot).map Manifest.campaignPins = (t.store.manifest x.slot).map Manifest.campaignPins := by
  intro ended
  have later := Later.campaignEndsSession t x
  obtain ⟨owner, -⟩ := t.campaignEndsSession_lane x
  exact ⟨later.recorder, later.campaigns x.id x hx, owner, (SameCovers.campaignEndsSession t x).campaignPins x.slot⟩

/-- The pin a campaign gives back (R9). -/
theorem Store.unpinCampaign_pins {st before : Store} {k : Fin 16} (h : (st.manifest k).map Manifest.campaignPins = (before.manifest k).map Manifest.campaignPins) :
    ((st.unpinCampaign k).manifest k).map Manifest.campaignPins = (before.manifest k).map (fun m => m.campaignPins - 1) := by
  have less := congrArg (Option.map (fun n => n - 1)) h
  rw [Option.map_map, Option.map_map] at less
  unfold Store.unpinCampaign
  rw [Store.manifest_updManifest, if_pos rfl, Option.map_map]
  exact less

/-- A recognised IDENTITY event leaves a finding of its class. -/
theorem Decision.identity_recognised {r : Recorder} {p : ProfileChoice} {disregard : ClassSet}
    (hd : (r.judge p disregard FindingClass.identity.set).outcome ≠ .goOn) :
    let d := r.judge p disregard FindingClass.identity.set
    d.recognised = FindingClass.identity.set ∧ d.loggedClass = some .identity ∧ ClassSet.has d.noted .rollup = false ∧
      (d.outcome = .finish → d.haltCode = none) ∧ (d.outcome = .halt → d.haltCode = some { cls := .identity, recognised := FindingClass.identity.set }) := by
  intro d
  rcases r.judge_set p disregard .identity with passes | halts | notes
  · exact absurd passes.outcome hd
  · refine ⟨halts.recognised, halts.logged, ?_, fun h => ?_, fun _ => halts.haltCode⟩
    · rw [show d.noted = 0 from halts.noted, ClassSet.has_empty]
    · exact EventOutcome.noConfusion (halts.outcome.symm.trans h)
  · refine ⟨notes.recognised, notes.logged, ?_, fun _ => notes.haltCode, fun h => ?_⟩
    · rw [show d.noted = _ from notes.noted, ClassSet.has_set]
      rfl
    · exact EventOutcome.noConfusion (notes.outcome.symm.trans h)

/-- What stands once an IDENTITY event is noted and the campaign's session has ended, before the campaign is ENDED or HELD. -/
structure Block.IdentityNoted (b : Block) (c : Campaign) (d : Decision) (ended : Block) : Prop where
  campaign : ∃ st cause, ended.campaign c.id = some { c.noting d !b.recorder.logsNow with state := st, heldCause := cause }
  owner    : (ended.lane c.lane).owner ≠ some (.campaign c.id)
  flags    : ended.recorder.flags = b.recorder.flags ||| d.noted
  logs     : b.recorder.logsNow = true → ended.recorder.nextSequence = b.recorder.nextSequence + 1 ∧ ∃ f, ended.recorder.log.getLast? = some f ∧
    f.sequence = some b.recorder.nextSequence ∧ f.cls = .identity ∧ f.recognised = FindingClass.identity.set ∧ f.campaign = c.id ∧ f.lane = c.lane ∧
    f.slot = c.slot ∧ f.frame = none ∧ f.verdict = none
  pends    : b.recorder.logsNow = false → ∃ p, ended.recorder.pending = b.recorder.pending ++ [p] ∧ p.enqueued = false
  pins     : (ended.store.manifest c.slot).map Manifest.campaignPins = (b.store.manifest c.slot).map Manifest.campaignPins

/-- A recognised IDENTITY event ends the session first (R56), and then the campaign acts on the outcome (R100, R116). -/
theorem Block.identityEvent_noted {b : Block} {c : Campaign} (hc : b.campaign c.id = some c) :
    let d := b.recorder.judge c.profile c.disregard FindingClass.identity.set
    d.outcome ≠ .goOn → ∃ ended, b.IdentityNoted c d ended ∧
      (d.outcome = .finish → b.identityEvent c.id = ended.closeCampaign c.id .ended (some .identity) .identity) ∧
      (d.outcome = .halt → b.identityEvent c.id = ended.holdCampaign c.id (if b.recorder.logsNow then .finding else .logFull)) := by
  intro d hd
  obtain ⟨recognised, logged, norollup, -, -⟩ := Decision.identity_recognised hd
  have waits : (d.recognised != 0 && !b.recorder.logsNow) = !b.recorder.logsNow := by
    rw [bne_iff_ne.2 (recognised ▸ FindingClass.set_ne_zero _ : d.recognised ≠ 0), Bool.true_and]
  have noted : b.Noted c Event.identity d (b.eventNoted c Event.identity) := Block.eventNoted_spec hc rfl rfl
  obtain ⟨flags, logs, pends⟩ := noted.identity recognised logged
  have campaign := noted.campaign
  have store := noted.store
  rw [norollup, if_neg Bool.false_ne_true] at store
  obtain ⟨ends, holds, -⟩ := Block.applyAnswer_noted hc (ev := Event.identity) rfl rfl true
  rw [← Block.identityEvent_found hc, show b.decides c Event.identity = d from rfl, waits] at ends holds
  rw [waits] at campaign
  obtain ⟨recorder, found, owner, pins⟩ := Block.campaignEndsSession_spec (x := c.noting d !b.recorder.logsNow) campaign
  rw [store] at pins
  rw [← recorder] at flags logs pends
  refine ⟨_, ⟨found, owner, flags, logs, pends, pins⟩, ends, fun ho => ?_⟩
  rw [holds (.inl ho)]
  cases b.recorder.logsNow <;> rfl

/-- The IDENTITY event: the session ends, and then the campaign is ENDED or HELD. -/
theorem Block.identityEvent_spec {b : Block} {id : Nat} {c : Campaign} (hc : b.campaign id = some c) :
    let d := b.recorder.judge c.profile c.disregard FindingClass.identity.set
    let after := b.identityEvent id
    let told := fun (st : CampaignState) (cause : CampaignCause) => after.port.raised.getLast? = some (.campaignChanged c.id c.lane c.slot st cause c.resumePoint c.counts)
    d.outcome ≠ .goOn → ∃ c', after.campaign id = some c' ∧ c'.counts = c.counts ∧ c'.resumePoint = c.resumePoint ∧ c'.noted = c.noted ||| d.noted ∧
      (after.lane c.lane).owner ≠ some (.campaign id) ∧ after.recorder.flags = b.recorder.flags ||| d.noted ∧
      (b.recorder.logsNow = true → after.recorder.nextSequence = b.recorder.nextSequence + 1 ∧ ∃ f, after.recorder.log.getLast? = some f ∧ f.sequence = some b.recorder.nextSequence ∧
        f.cls = .identity ∧ f.recognised = FindingClass.identity.set ∧ f.campaign = c.id ∧ f.lane = c.lane ∧ f.slot = c.slot ∧ f.frame = none ∧ f.verdict = none) ∧
      (b.recorder.logsNow = false → c'.pendingFinding = true ∧ ∃ p, after.recorder.pending = b.recorder.pending ++ [p] ∧ p.enqueued = false) ∧
      (d.outcome = .finish → c'.state = .ended ∧ c'.endCause = some .identity ∧ c'.heldCause = none ∧ c'.haltCode = c.haltCode ∧ told .ended .identity ∧
        (after.store.manifest c.slot).map Manifest.campaignPins = (b.store.manifest c.slot).map (fun m => m.campaignPins - 1)) ∧
      (d.outcome = .halt → c'.state = .held ∧ c'.heldCause = some (if b.recorder.logsNow then .finding else .logFull) ∧
        c'.haltCode = some { cls := .identity, recognised := FindingClass.identity.set } ∧ told .held (if b.recorder.logsNow then .finding else .logFull) ∧
        (after.store.manifest c.slot).map Manifest.campaignPins = (b.store.manifest c.slot).map Manifest.campaignPins) := by
  intro d after told hd
  obtain rfl : c.id = id := Scheduler.find_id hc
  obtain ⟨-, -, -, nohalt, halt⟩ := Decision.identity_recognised hd
  obtain ⟨ended, ⟨⟨st, cause, found⟩, owner, flags, logs, pends, pins⟩, ends, holds⟩ := Block.identityEvent_noted hc hd
  cases ho : d.outcome with
  | goOn => exact absurd ho hd
  | finish =>
    obtain ⟨closed, same, unpinned, raised⟩ := Block.closeCampaign_spec found .ended (some .identity) .identity
    have still := Still.closeCampaign (.refl ended) c.id .ended (some .identity) .identity
    have unhalted : (d.haltCode <|> c.haltCode) = c.haltCode := by
      rw [show d.haltCode = none from nohalt ho]
      rfl
    rw [← ends ho] at closed same unpinned raised still
    rw [← same] at flags logs pends
    rw [← still.lane] at owner
    refine ⟨_, closed, rfl, rfl, rfl, owner, flags, logs, fun hl => ⟨?_, pends hl⟩, fun _ => ⟨rfl, rfl, rfl, unhalted, ?_, ?_⟩, nofun⟩
    · show (c.pendingFinding || !b.recorder.logsNow) = true
      rw [hl]
      exact Bool.or_true _
    · show after.port.raised.getLast? = _
      rw [show after.port.raised = _ from raised]
      exact List.getLast?_concat ..
    · rw [show after.store = _ from unpinned]
      exact Store.unpinCampaign_pins pins
  | halt =>
    obtain ⟨-, same, store, -, raised⟩ := ended.holdCampaign_spec c.id (if b.recorder.logsNow then .finding else .logFull)
    have still := Still.holdCampaign (.refl ended) c.id (if b.recorder.logsNow then .finding else .logFull)
    have held := ended.holdCampaign_campaign c.id c.id (if b.recorder.logsNow then .finding else .logFull)
    rw [if_pos rfl, found, ← holds ho] at held
    have raised := raised _ found
    rw [← holds ho] at same store still raised
    rw [← same] at flags logs pends
    rw [← still.lane] at owner
    refine ⟨_, held, rfl, rfl, rfl, owner, flags, logs, fun hl => ⟨?_, pends hl⟩, nofun, fun _ => ⟨rfl, rfl, ?_, ?_, ?_⟩⟩
    · show (c.pendingFinding || !b.recorder.logsNow) = true
      rw [hl]
      exact Bool.or_true _
    · show (d.haltCode <|> c.haltCode) = _
      rw [show d.haltCode = _ from halt ho]
      rfl
    · show after.port.raised.getLast? = _
      rw [show after.port.raised = _ from raised]
      cases b.recorder.logsNow <;> exact List.getLast?_concat ..
    · rw [show after.store = _ from store]
      exact pins

/-! ## O45 -/

/-- The campaign's item has its answer once its header is taken, as its lane's state and the item's `stopping` say (R55, R62, R104, R114). -/
theorem Block.header_finishItem {b : Block} {l : Fin 8} {item : Item} (hi : (b.lane l).item = some item) (id : Nat) (f : Campaign → Campaign) :
    let running := (b.dropExchange l).updCampaign id f
    ((b.lane l).state = .yielding → running.finishItem l id = (running.haltSession l).toLent l .ready) ∧
    ((b.lane l).state ≠ .yielding → item.stopping = true → running.finishItem l id = ((running.haltSession l).headTo l .waiting).toReady l) ∧
    ((b.lane l).state ≠ .yielding → item.stopping = false → running.finishItem l id = (running.toReady l).chooseNext id) := by
  intro running
  obtain ⟨state, stands, -⟩ := b.dropExchange_stands l
  have same : running.lane l = (b.dropExchange l).lane l := rfl
  have finishes := Block.finishItem_eq (b := running) (l := l) (item := item) (by rw [same, stands, hi]) id
  rw [same, state] at finishes
  refine ⟨fun hs => ?_, fun hs ht => ?_, fun hs ht => ?_⟩
  · rw [finishes, if_pos hs]
  · rw [finishes, if_neg hs, if_pos ht]
  · rw [finishes, if_neg hs, ht, if_neg Bool.false_ne_true]

/-- Settles O45: a header of a campaign and of a repair step, the IDENTITY event that ends or holds the campaign, and the phases of an entry whose step has ended. -/
theorem headerOpens : Obligations.HeaderOpens := by
  unfold Obligations.HeaderOpens
  refine ⟨fun s l session body crc reel span first count hh hp => ?_, fun b id c hc => Block.identityEvent_spec hc, fun b k e x why he => Block.stepEnded_found he x why⟩
  intro ln answer ended agrees
  have heard : answer = .next (s.after (Block.headerTaken l (reel, span, first, count) s.blk)) := State.event_heard hh hp (Block.headerTaken l)
  refine ⟨fun hx => ?_, fun id c m item hx ho hc hm hi => ?_, fun k e m hx ho he hm => ?_⟩
  · rw [heard, Block.headerTaken_unawaited hx]
  · rw [Block.headerTaken_campaign hx ho, Block.campaignHeader_found hc hm] at heard
    have same : m.identity = (reel, span, first, count) ↔ agrees m := m.identity_eq_iff reel span first count
    intro running
    refine ⟨fun hok => ?_, fun hw ha => ?_⟩
    · rw [if_pos (hok.imp_right same.2)] at heard
      obtain ⟨yields, stops, goes⟩ := Block.header_finishItem hi id (fun x => { x with state := .running, waiver := false })
      refine ⟨fun hs => ?_, fun hs ht => ?_, fun hs ht => ?_⟩
      · rw [heard, yields hs]
      · rw [heard, stops hs ht]
      · rw [heard, goes hs ht]
    · rw [heard, if_neg]
      rintro (h | h)
      · exact Bool.false_ne_true (hw.symm.trans h)
      · exact ha (same.1 h)
  · rw [Block.headerTaken_entry hx ho] at heard
    have agreed : s.blk.store.headerAgrees k.slot (reel, span, first, count) = true ↔ agrees m :=
      (Store.headerAgrees_iff hm _).trans (m.identity_eq_iff reel span first count)
    obtain ⟨stops, goes⟩ := Block.repairHeader_agrees he l
    obtain ⟨fetch, other⟩ := Block.repairHeader_disagrees he l
    refine ⟨fun ha ht => ?_, fun ha ht => ?_, fun ha hp => ?_, fun ha hp => ?_⟩
    · rw [agreed.2 ha] at heard
      obtain ⟨fetches, reads, rewrites⟩ := goes ht
      exact ⟨fun hp => by rw [heard, fetches hp], fun hp => by rw [heard, reads hp], fun hp => by rw [heard, rewrites hp]⟩
    · rw [heard, agreed.2 ha, stops ht]
    · rw [heard, Bool.eq_false_iff.2 (fun h => ha (agreed.1 h)), fetch hp]
    · rw [heard, Bool.eq_false_iff.2 (fun h => ha (agreed.1 h)), other hp]

end Sys2Proof.Machine
end

section
/-! SUPPORT. TRAILER and NOT_FOUND in an opening or closing exchange, and the ROLLUP event (R51, R73, R74, R99, R107, R108, R161, R166, R169). -/
namespace Sys2Proof.Machine

/-! ## The ROLLUP event (R108) -/

/-- The event of a trailer that is not the manifest's. -/
def Event.rollup : Event := { conditions := FindingClass.rollup.set, frame := none, delivered := none, annotation := none }

/-- What the campaign comes to by a trailer that is not the manifest's: it acts on the event, and is DONE where that neither halts it nor leaves a finding pending. -/
def Block.rollupEnds (b : Block) (c : Campaign) : Block :=
  let act := (b.takeEvent c Event.rollup).2.applyAnswer c.id (b.takeEvent c Event.rollup).1 false
  if (b.takeEvent c Event.rollup).1.outcome = .goOn ∧ (b.takeEvent c Event.rollup).1.pending = false then act.closeCampaign c.id .done none .complete else act

theorem Store.manifest_flagClaim {st : Store} {k : Fin 16} {m : Manifest} (hm : st.manifest k = some m) (hr : m.state = .ready) :
    ((st.flagClaim k).manifest k).map Manifest.trailerDisagrees = some true := by
  unfold Store.flagClaim
  rw [Store.manifest_updManifest, if_pos rfl, hm, Option.map_some, if_pos hr]
  rfl

theorem Store.unpinCampaign_trailerDisagrees (st : Store) (k : Fin 16) :
    ((st.unpinCampaign k).manifest k).map Manifest.trailerDisagrees = (st.manifest k).map Manifest.trailerDisagrees := by
  unfold Store.unpinCampaign
  rw [Store.manifest_updManifest, if_pos rfl, Option.map_map]
  rfl

section
variable {b : Block} {c : Campaign} (hc : b.campaign c.id = some c)
include hc

/-- A ROLLUP event that goes on with no finding pending ends the campaign DONE. -/
theorem Block.rollupEnds_done (ho : (b.decides c Event.rollup).outcome = .goOn) (hw : ((b.decides c Event.rollup).recognised != 0 && !b.recorder.logsNow) = false) :
    b.rollupEnds c = (b.eventNoted c Event.rollup).closeCampaign c.id .done none .complete := by
  obtain ⟨-, -, goes⟩ := Block.applyAnswer_noted hc (ev := Event.rollup) rfl rfl false
  obtain ⟨-, outcome, -⟩ := Block.takeEvent_outcome (b := b) (c := c) (ev := Event.rollup) rfl
  unfold Block.rollupEnds
  dsimp only
  rw [outcome, Block.takeEvent_pending, if_pos ⟨ho, hw⟩, goes ho hw]

/-- A ROLLUP event that halts, or leaves a finding pending, leaves the campaign HELD. -/
theorem Block.rollupEnds_held (h : (b.decides c Event.rollup).outcome = .halt ∨
      ((b.decides c Event.rollup).outcome = .goOn ∧ ((b.decides c Event.rollup).recognised != 0 && !b.recorder.logsNow) = true)) :
    b.rollupEnds c = (b.eventNoted c Event.rollup).holdCampaign c.id
      (if ((b.decides c Event.rollup).recognised != 0 && !b.recorder.logsNow) = true then .logFull else .finding) := by
  obtain ⟨-, holds, -⟩ := Block.applyAnswer_noted hc (ev := Event.rollup) rfl rfl false
  obtain ⟨-, outcome, -⟩ := Block.takeEvent_outcome (b := b) (c := c) (ev := Event.rollup) rfl
  unfold Block.rollupEnds
  dsimp only
  rw [outcome, Block.takeEvent_pending, if_neg, holds h]
  · rfl
  · rintro ⟨ho, hw⟩
    rcases h with hh | ⟨-, hp⟩
    · exact EventOutcome.noConfusion (hh.symm.trans ho)
    · exact Bool.false_ne_true (hw.symm.trans hp)

/-- A campaign held by a ROLLUP event. -/
theorem Block.rollupEnds_heldFor (h : (b.decides c Event.rollup).outcome = .halt ∨
      ((b.decides c Event.rollup).outcome = .goOn ∧ ((b.decides c Event.rollup).recognised != 0 && !b.recorder.logsNow) = true)) :
    let waits := (b.decides c Event.rollup).recognised != 0 && !b.recorder.logsNow
    (b.rollupEnds c).campaign c.id = some ((c.noting (b.decides c Event.rollup) waits).heldFor (if waits = true then .logFull else .finding)) ∧
      (b.rollupEnds c).store = (b.eventNoted c Event.rollup).store := by
  intro waits
  have noted : b.Noted c Event.rollup (b.decides c Event.rollup) _ := Block.eventNoted_spec hc rfl rfl
  obtain ⟨-, -, store, -, -⟩ := (b.eventNoted c Event.rollup).holdCampaign_spec c.id (if waits = true then .logFull else .finding)
  rw [Block.rollupEnds_held hc h]
  refine ⟨?_, store⟩
  rw [Block.holdCampaign_campaign, if_pos rfl, noted.campaign]
  rfl

theorem Block.rollupEnds_spec : let d := b.recorder.judge c.profile c.disregard FindingClass.rollup.set
    let after := b.rollupEnds c
    (d.recognised = 0 → (after.campaign c.id).map Campaign.state = some .done ∧ after.recorder = b.recorder) ∧
    (d.recognised ≠ 0 → ∃ c', after.campaign c.id = some c' ∧ c'.trailerChecked = c.trailerChecked ∧
      (d.outcome = .halt → c'.state = .held ∧ c'.heldCause = some (if b.recorder.logsNow then .finding else .logFull)) ∧
      (d.outcome = .goOn → b.recorder.logsNow = false → c'.state = .held ∧ c'.heldCause = some .logFull) ∧
      (d.outcome = .goOn → b.recorder.logsNow = true → c'.state = .done) ∧
      (d.outcome = .goOn → ∀ m, b.store.manifest c.slot = some m → m.state = .ready → (after.store.manifest c.slot).map Manifest.trailerDisagrees = some true)) := by
  intro d after
  have noted : b.Noted c Event.rollup d (b.eventNoted c Event.rollup) := Block.eventNoted_spec hc rfl rfl
  have decided : b.decides c Event.rollup = d := rfl
  have done := Block.rollupEnds_done hc
  have held := Block.rollupEnds_heldFor hc
  rw [decided] at done held
  rcases b.recorder.judge_set c.profile c.disregard .rollup with passes | halts | notes
  · have none_recognised : d.recognised = 0 := passes.recognised
    have ends : after = _ := done passes.outcome (by rw [none_recognised]; rfl)
    obtain ⟨closed, same, -, -⟩ := Block.closeCampaign_spec noted.campaign .done none .complete
    rw [ends]
    refine ⟨fun _ => ⟨?_, same.trans (noted.passes none_recognised)⟩, fun h => absurd none_recognised h⟩
    exact congrArg (Option.map Campaign.state) closed
  · have recognised : d.recognised ≠ 0 := halts.recognised ▸ FindingClass.set_ne_zero _
    have halted : d.outcome = .halt := halts.outcome
    have waits : (d.recognised != 0 && !b.recorder.logsNow) = !b.recorder.logsNow := by rw [bne_iff_ne.2 recognised, Bool.true_and]
    obtain ⟨found, -⟩ := held (.inl halted)
    refine ⟨fun h => absurd h recognised, fun _ => ⟨_, found, rfl, fun _ => ⟨rfl, ?_⟩, ?_, ?_, ?_⟩⟩
    · rw [waits]
      cases b.recorder.logsNow <;> rfl
    all_goals rw [halted]; exact nofun
  · have recognised : d.recognised ≠ 0 := notes.recognised ▸ FindingClass.set_ne_zero _
    have goes : d.outcome = .goOn := notes.outcome
    have waits : (d.recognised != 0 && !b.recorder.logsNow) = !b.recorder.logsNow := by rw [bne_iff_ne.2 recognised, Bool.true_and]
    have flagged : (b.eventNoted c Event.rollup).store = b.store.flagClaim c.slot := by
      rw [noted.store, show d.noted = _ from notes.noted, ClassSet.has_set]
      rfl
    refine ⟨fun h => absurd h recognised, fun _ => ?_⟩
    rw [goes]
    cases hl : b.recorder.logsNow with
    | true =>
      have ends : after = _ := done goes (by rw [waits, hl]; rfl)
      obtain ⟨closed, -, unpinned, -⟩ := Block.closeCampaign_spec noted.campaign .done none .complete
      rw [← ends] at closed unpinned
      refine ⟨_, closed, rfl, nofun, nofun, fun _ _ => rfl, fun _ m hm hr => ?_⟩
      rw [unpinned]
      refine (Store.unpinCampaign_trailerDisagrees _ _).trans ?_
      rw [flagged]
      exact Store.manifest_flagClaim hm hr
    | false =>
      obtain ⟨found, store⟩ := held (.inr ⟨goes, by rw [waits, hl]; rfl⟩)
      refine ⟨_, found, rfl, nofun, fun _ _ => ⟨rfl, ?_⟩, nofun, fun _ m hm hr => ?_⟩
      · rw [waits, hl]
        rfl
      · rw [store, flagged]
        exact Store.manifest_flagClaim hm hr

end

/-! ## The closing exchange (R74, R107, R108) -/

/-- The part once the answer to CLOSE has come: the session is over, and the campaign's trailer counts as checked. -/
def Block.closedSession (b : Block) (l : Fin 8) (id : Nat) : Block :=
  ((b.dropExchange l).updLane l (fun x => { x with session := none })).updCampaign id (fun x => { x with trailerChecked := true })

theorem Block.closedSession_spec (b : Block) (l : Fin 8) (id : Nat) : let closed := b.closedSession l id
    closed.recorder = b.recorder ∧ closed.store = b.store ∧ (closed.lane l).session = none ∧
      closed.campaign id = (b.campaign id).map (fun x => { x with trailerChecked := true }) := by
  intro closed
  obtain ⟨lanes, pool, asks, dropped⟩ := b.dropExchange_rest l
  refine ⟨?_, ?_, ?_, ?_⟩
  · show (b.dropExchange l).recorder = b.recorder
    rw [dropped]
  · exact b.dropExchange_store l
  · show (((b.dropExchange l).updLane l (fun x => { x with session := none })).lane l).session = none
    rw [Block.lane_updLane_self]
  · show (((b.dropExchange l).updLane l (fun x => { x with session := none })).updCampaign id (fun x => { x with trailerChecked := true })).campaign id = _
    rw [Block.campaign_updCampaign _ _ _ _ fun _ => by rfl, if_pos rfl]
    exact congrArg _ (b.dropExchange_campaign l id)

section
variable {b : Block} {c : Campaign} (hc : b.campaign c.id = some c)
include hc

theorem Block.campaignTrailer_agrees (l : Fin 8) :
    b.campaignTrailer l c.id true = ((b.closedSession l c.id).closeCampaign c.id .done none .complete).toReady l := by
  obtain ⟨-, -, -, found⟩ := b.closedSession_spec l c.id
  rw [hc, Option.map_some] at found
  unfold Block.campaignTrailer
  dsimp only
  rw [show (((b.dropExchange l).updLane l (fun ln => { ln with session := none })).updCampaign c.id (fun c => { c with trailerChecked := true })).campaign c.id = _ from found]
  rfl

theorem Block.campaignTrailer_disagrees (l : Fin 8) :
    b.campaignTrailer l c.id false = ((b.closedSession l c.id).rollupEnds { c with trailerChecked := true }).toReady l := by
  obtain ⟨-, -, -, found⟩ := b.closedSession_spec l c.id
  rw [hc, Option.map_some] at found
  unfold Block.campaignTrailer
  dsimp only
  rw [show (((b.dropExchange l).updLane l (fun ln => { ln with session := none })).updCampaign c.id (fun c => { c with trailerChecked := true })).campaign c.id = _ from found]
  rfl

end

theorem Manifest.trailerAgrees_iff (m : Manifest) (rollup : Word64) (count : Nat) :
    m.trailerAgrees rollup count = true ↔ m.expected = some rollup ∧ m.count = count := by
  unfold Manifest.trailerAgrees
  rw [Bool.and_eq_true, beq_iff_eq, beq_iff_eq]

theorem Block.trailerTaken_unawaited {b : Block} {l : Fin 8} (h : (b.lane l).exchange ≠ .closing) (trailer : Word64 × Nat) :
    Block.trailerTaken l trailer b = b.malformed l :=
  if_neg h

section
variable {b : Block} {l : Fin 8} {id : Nat} {c : Campaign} (ho : (b.lane l).owner = some (.campaign id)) (hc : b.campaign id = some c)
include ho

/-- A missing span stands for a trailer that disagrees. -/
theorem Block.closingAnswer_missing : b.closingAnswer l none = b.campaignTrailer l id false := by
  unfold Block.closingAnswer
  rw [ho]

include hc in
theorem Block.trailerTaken_closing {m : Manifest} (hm : b.store.manifest c.slot = some m) (hx : (b.lane l).exchange = .closing) (rollup : Word64) (count : Nat) :
    Block.trailerTaken l (rollup, count) b = b.campaignTrailer l id (m.trailerAgrees rollup count) := by
  unfold Block.trailerTaken Block.closingAnswer
  rw [if_pos hx, ho]
  dsimp only
  rw [hc]
  dsimp only
  rw [hm]

end

/-! ## NOT_FOUND (R73, R74, R76, R79) -/

section
variable {b : Block} {l : Fin 8} {reel : Word64} {span : Word32}

theorem Block.notFoundTaken_opening (hx : (b.lane l).exchange = .opening) :
    Block.notFoundTaken l (.span reel span) b = if (b.lane l).span = some (reel, span) then b.openingMissing l else b.malformed l := by
  unfold Block.notFoundTaken
  rw [hx]

theorem Block.notFoundTaken_closing (hx : (b.lane l).exchange = .closing) :
    Block.notFoundTaken l (.span reel span) b = if (b.lane l).span = some (reel, span) then b.closingAnswer l none else b.malformed l := by
  unfold Block.notFoundTaken
  rw [hx]

/-- A missing span where neither an opening nor a closing exchange is in flight. -/
theorem Block.notFoundTaken_span_unawaited (h1 : (b.lane l).exchange ≠ .opening) (h2 : (b.lane l).exchange ≠ .closing) :
    Block.notFoundTaken l (.span reel span) b = b.malformed l := by
  unfold Block.notFoundTaken
  cases hx : (b.lane l).exchange with
  | opening => exact absurd hx h1
  | closing => exact absurd hx h2
  | idle => rfl
  | frame f => rfl
  | rewrite frame sent => rfl
  | calibration length bytes => rfl

/-- A missing frame where no frame exchange is in flight. -/
theorem Block.notFoundTaken_frame_unawaited (h : ∀ f, (b.lane l).exchange ≠ .frame f) (n : Nat) : Block.notFoundTaken l (.frame n) b = b.malformed l := by
  unfold Block.notFoundTaken
  cases hx : (b.lane l).exchange with
  | frame f => exact absurd hx (h f)
  | opening => rfl
  | closing => rfl
  | idle => rfl
  | rewrite frame sent => rfl
  | calibration length bytes => rfl

theorem Block.openingMissing_campaign {id : Nat} (ho : (b.lane l).owner = some (.campaign id)) : b.openingMissing l = (b.dropExchange l).identityEvent id := by
  unfold Block.openingMissing
  rw [ho]
  rfl

theorem Block.openingMissing_entry {k : EntryKey} (ho : (b.lane l).owner = some (.entry k)) : b.openingMissing l = b.repairHeader l k false := by
  unfold Block.openingMissing
  rw [ho]

end

/-! ## O50 -/

/-- A trailer that disagrees, or a missing span, ends the session, and the ROLLUP event decides what the campaign comes to. -/
theorem Block.trailer_disagrees {b : Block} {l : Fin 8} {id : Nat} {c : Campaign} {m : Manifest} (hc : b.campaign id = some c) (hm : b.store.manifest c.slot = some m) :
    let d := b.recorder.judge c.profile c.disregard FindingClass.rollup.set
    (d.recognised = 0 → ∃ e : Block, b.campaignTrailer l id false = e.toReady l ∧ (e.campaign id).map Campaign.state = some .done ∧ e.recorder = b.recorder) ∧
    (d.recognised ≠ 0 → ∃ (e : Block) (c' : Campaign), b.campaignTrailer l id false = e.toReady l ∧ e.campaign id = some c' ∧ c'.trailerChecked = true ∧
      (d.outcome = .halt → c'.state = .held ∧ c'.heldCause = some (if b.recorder.logsNow then .finding else .logFull)) ∧
      (d.outcome = .goOn → b.recorder.logsNow = false → c'.state = .held ∧ c'.heldCause = some .logFull) ∧
      (d.outcome = .goOn → b.recorder.logsNow = true → c'.state = .done) ∧
      (d.outcome = .goOn → m.state = .ready → (e.store.manifest c.slot).map Manifest.trailerDisagrees = some true)) := by
  intro d
  obtain rfl : c.id = id := Scheduler.find_id hc
  obtain ⟨recorder, store, -, found⟩ := b.closedSession_spec l c.id
  rw [hc, Option.map_some] at found
  obtain ⟨passed, taken⟩ := Block.rollupEnds_spec (c := { c with trailerChecked := true }) found
  rw [recorder] at passed taken
  refine ⟨fun hr => ⟨_, Block.campaignTrailer_disagrees hc l, passed hr⟩, fun hr => ?_⟩
  obtain ⟨c', ends, checked, halts, full, goes, flagged⟩ := taken hr
  refine ⟨_, c', Block.campaignTrailer_disagrees hc l, ends, checked, halts, full, goes, fun ho hs => flagged ho m ?_ hs⟩
  rw [store]
  exact hm

/-- Settles O50: a trailer or a missing span of a campaign's session, where one that disagrees is a ROLLUP event, and the missing spans and frames of the other sessions. -/
theorem trailerChecks : Obligations.TrailerChecks := by
  unfold Obligations.TrailerChecks
  refine ⟨fun s l session body crc id c m => ?_, fun s l session body crc hh => ?_⟩
  · intro ln checked done d disagrees ho hc hm
    have wrong : ∀ answer, answer = Host.Outcome.next (s.after (s.blk.campaignTrailer l id false)) → disagrees answer := by
      rintro _ rfl
      obtain ⟨passed, taken⟩ := Block.trailer_disagrees (l := l) hc hm
      refine ⟨fun hr => ?_, fun hr => ?_⟩
      · obtain ⟨e, he, rest⟩ := passed hr
        exact ⟨e, by rw [he], rest⟩
      · obtain ⟨e, c', he, rest⟩ := taken hr
        exact ⟨e, c', by rw [he], rest⟩
    refine ⟨fun rollup count hh hp => ?_, fun reel span hh hp => ?_⟩
    · intro answer
      have heard : answer = .next (s.after (Block.trailerTaken l (rollup, count) s.blk)) := State.event_heard hh hp (Block.trailerTaken l)
      refine ⟨fun hx => ?_, fun hx he hn => ?_, fun hx hd => ?_⟩
      · rw [heard, Block.trailerTaken_unawaited hx]
      · obtain rfl : c.id = id := Scheduler.find_id hc
        obtain ⟨-, -, session, found⟩ := s.blk.closedSession_spec l c.id
        rw [hc, Option.map_some] at found
        obtain ⟨closed, -, -, -⟩ := Block.closeCampaign_spec (c := { c with trailerChecked := true }) found .done none .complete
        have still := Still.closeCampaign (.refl (s.blk.closedSession l c.id)) c.id .done none .complete
        refine ⟨?_, closed, ?_⟩
        · rw [heard, Block.trailerTaken_closing ho hc hm hx, (m.trailerAgrees_iff rollup count).2 ⟨he, hn⟩, Block.campaignTrailer_agrees hc]
          rfl
        · show (((s.blk.closedSession l c.id).closeCampaign c.id .done none .complete).lane l).session = none
          rw [still.lane, session]
      · refine wrong _ ?_
        rw [heard, Block.trailerTaken_closing ho hc hm hx, Bool.eq_false_iff.2 (fun h => hd ((m.trailerAgrees_iff rollup count).1 h))]
    · intro answer
      have heard : answer = .next (s.after (Block.notFoundTaken l (.span reel span) s.blk)) := State.event_heard hh hp (Block.notFoundTaken l)
      refine ⟨fun hx hs => wrong _ ?_, fun hx hs => ?_, fun hx hs => ?_⟩
      · rw [heard, Block.notFoundTaken_closing hx, if_pos hs, Block.closingAnswer_missing ho]
      · rw [heard, Block.notFoundTaken_opening hx, if_pos hs, Block.openingMissing_campaign ho]
      · rcases hx with hx | hx
        · rw [heard, Block.notFoundTaken_opening hx, if_neg hs]
        · rw [heard, Block.notFoundTaken_closing hx, if_neg hs]
  · intro ln answer malformed
    have heard : ∀ x, parseNotFound body = some x → answer = .next (s.after (Block.notFoundTaken l x s.blk)) :=
      fun x hp => State.event_heard hh hp (Block.notFoundTaken l)
    refine ⟨fun reel span k e hp hx ho he => ?_, fun n hp hx => ?_, fun reel span hp h1 h2 => ?_⟩
    · have opening := (heard _ hp).trans (by rw [Block.notFoundTaken_opening hx])
      obtain ⟨fetch, other⟩ := Block.repairHeader_disagrees he l
      refine ⟨fun hs hf => ?_, fun hs hf => ?_, fun hs => ?_⟩
      · rw [opening, if_pos hs, Block.openingMissing_entry ho, fetch hf]
      · rw [opening, if_pos hs, Block.openingMissing_entry ho, other hf]
      · rw [opening, if_neg hs]
    · rw [heard _ hp, Block.notFoundTaken_frame_unawaited hx]
    · rw [heard _ hp, Block.notFoundTaken_span_unawaited h1 h2]

end Sys2Proof.Machine
end

section
/-! SUPPORT. ANNOTATION and the freshness timer (R52, R82, R84, R86, R87, R88, R105). -/
namespace Sys2Proof.Machine

/-! ## The capture slots (R86, R87) -/

/-- A slot once an annotation of this kind has come from this lane. -/
def CaptureSlot.annotated (clock : Nat) (l : Fin 8) (kind : Byte) (content : List Byte) (passed : Bool) (c : CaptureSlot) : CaptureSlot :=
  if c.takes l kind then if passed then c.good clock l content else c.failed l content else c

/-- A slot raises CAPTURE_SEEN at this annotation. -/
def CaptureSlot.notifies (l : Fin 8) (kind : Byte) (passed : Bool) (c : CaptureSlot) : Bool := c.takes l kind && passed && c.notify

theorem CaptureSlot.takes_iff (c : CaptureSlot) (l : Fin 8) (kind : Byte) :
    c.takes l kind = true ↔ c.kind = some kind ∧ (c.selector = none ∨ c.selector = some l) := by
  unfold CaptureSlot.takes
  rw [Bool.and_eq_true, Bool.or_eq_true, beq_iff_eq, beq_iff_eq, beq_iff_eq]

theorem CaptureSlot.notifies_iff (c : CaptureSlot) (l : Fin 8) (kind : Byte) (passed : Bool) :
    c.notifies l kind passed = true ↔ (c.kind = some kind ∧ (c.selector = none ∨ c.selector = some l)) ∧ passed = true ∧ c.notify = true := by
  unfold CaptureSlot.notifies
  rw [Bool.and_eq_true, Bool.and_eq_true, CaptureSlot.takes_iff, and_assoc]

/-- A slot after an annotation with this check (R86, R87). -/
theorem CaptureSlot.annotated_eq (c : CaptureSlot) (clock : Nat) (l : Fin 8) (kind : Byte) (content : List Byte) (check : Word16) :
    c.annotated clock l kind content (annotationCheck kind content == check) =
      if c.kind = some kind ∧ (c.selector = none ∨ c.selector = some l) then
        if annotationCheck kind content = check then
          { c with content := some content, seen := true, faulty := false, lastLane := some l,
                   timer := if c.window = 0 then c.timer else some (clock + c.window * 1000000) }
        else if c.keepFaulty then { c with content := some content, lastLane := some l, faulty := true } else { c with faulty := true }
      else c := by
  unfold CaptureSlot.annotated CaptureSlot.good CaptureSlot.failed
  simp only [CaptureSlot.takes_iff, beq_iff_eq]

/-- One slot takes the annotation, and every other stays. -/
theorem Block.captureInto_spec (l : Fin 8) (kind : Byte) (content : List Byte) (passed : Bool) (b : Block) (k : Fin 16) :
    ∃ slots, Block.captureInto l kind content passed b k = { b with
        capture := slots
        port := { b.port with raised := b.port.raised ++ if (b.capture[k]).notifies l kind passed then [.captureSeen k l kind content] else [] } } ∧
      slots[k] = (b.capture[k]).annotated b.clock l kind content passed ∧ ∀ j : Fin 16, j ≠ k → slots[j] = b.capture[j] := by
  have others : ∀ (c : CaptureSlot) (j : Fin 16), j ≠ k → (b.capture.set k.val c k.isLt)[j] = b.capture[j] := fun c j hj =>
    Vector.getElem_set_ne k.isLt j.isLt fun e => hj (Fin.ext e.symm)
  have itself : ∀ c : CaptureSlot, (b.capture.set k.val c k.isLt)[k] = c := fun c => Vector.getElem_set_self k.isLt
  unfold Block.captureInto CaptureSlot.annotated CaptureSlot.notifies
  dsimp only
  cases ht : (b.capture[k]).takes l kind with
  | false => exact ⟨b.capture, by simp, rfl, fun _ _ => rfl⟩
  | true =>
    cases passed with
    | false => exact ⟨_, by simp, itself _, others _⟩
    | true =>
      cases hn : (b.capture[k]).notify with
      | false => exact ⟨_, by simp, itself _, others _⟩
      | true => exact ⟨_, by simp [Block.raise], itself _, others _⟩

/-- The slots of a list take the annotation in turn. -/
theorem Block.captureFold_spec (l : Fin 8) (kind : Byte) (content : List Byte) (passed : Bool) : ∀ (ks : List (Fin 16)) (b : Block), ks.Nodup →
    ∃ slots, ks.foldl (Block.captureInto l kind content passed) b = { b with
        capture := slots
        port := { b.port with raised := b.port.raised ++ (ks.filter (fun k => (b.capture[k]).notifies l kind passed)).map (fun k => .captureSeen k l kind content) } } ∧
      ∀ j : Fin 16, slots[j] = if j ∈ ks then (b.capture[j]).annotated b.clock l kind content passed else b.capture[j]
  | [], b, _ => ⟨b.capture, by simp, fun j => by simp⟩
  | k :: ks, b, hn => by
    obtain ⟨fresh, rest⟩ := List.nodup_cons.1 hn
    obtain ⟨mid, first, taken, kept⟩ := Block.captureInto_spec l kind content passed b k
    obtain ⟨slots, folded, each⟩ := Block.captureFold_spec l kind content passed ks (Block.captureInto l kind content passed b k) rest
    have later : ∀ j : Fin 16, j ∈ ks → mid[j] = b.capture[j] := fun j hj => kept j fun e => fresh (e ▸ hj)
    rw [first] at folded each
    have told : ks.filter (fun j => (mid[j]).notifies l kind passed) = ks.filter (fun j => (b.capture[j]).notifies l kind passed) :=
      List.filter_congr fun j hj => by rw [later j hj]
    refine ⟨slots, ?_, fun j => ?_⟩
    · rw [List.foldl_cons, first, folded]
      dsimp only
      rw [told, List.filter_cons, List.append_assoc]
      cases (b.capture[k]).notifies l kind passed <;> rfl
    · rw [each j]
      dsimp only
      by_cases hk : j = k
      · rw [hk, if_neg fresh, if_pos List.mem_cons_self, taken]
      · simp only [List.mem_cons, hk, false_or, kept j hk]

/-- All slots, once the annotation is captured. -/
theorem Block.captureAnnotation_spec (b : Block) (l : Fin 8) (kind : Byte) (content : List Byte) (passed : Bool) :
    b.captureAnnotation l kind content passed = { b with
      capture := Vector.ofFn fun k : Fin 16 => (b.capture[k]).annotated b.clock l kind content passed
      port := { b.port with
        raised := b.port.raised ++ (allSlots.filter (fun k => (b.capture[k]).notifies l kind passed)).map (fun k => .captureSeen k l kind content) } } := by
  obtain ⟨slots, folded, each⟩ := Block.captureFold_spec l kind content passed allSlots b allSlots_nodup
  have same : slots = Vector.ofFn fun k : Fin 16 => (b.capture[k]).annotated b.clock l kind content passed := by
    refine Vector.ext fun i hi => ?_
    rw [Vector.getElem_ofFn]
    exact (each ⟨i, hi⟩).trans (if_pos (mem_allSlots _))
  rw [← same]
  exact folded

/-! ## The stall timer starts again (R52) -/

/-- The stall timer's time after a unit of the session. -/
def Lane.stallAgain (clock : Nat) (ln : Lane) : Option Nat := if ln.exchange.timed then some (clock + ln.settings.stallLimit * 500000) else ln.stallTimer

theorem Block.restartStall_eq (b : Block) (l : Fin 8) : b.restartStall l = b.updLane l (fun ln => { ln with stallTimer := (b.lane l).stallAgain b.clock }) := by
  unfold Block.restartStall Lane.stallAgain
  split
  · exact Block.updLane_congr rfl
  · exact (b.updLane_id l).symm.trans (Block.updLane_congr rfl)

/-! ## An annotation is taken (R84, R86, R87) -/

/-- The part once an annotation is captured and the stall timer starts again. -/
def Block.annotated (b : Block) (l : Fin 8) (kind : Byte) (content : List Byte) (passed : Bool) : Block :=
  (b.captureAnnotation l kind content passed).restartStall l

theorem Block.annotated_eq (b : Block) (l : Fin 8) (kind : Byte) (content : List Byte) (passed : Bool) :
    b.annotated l kind content passed = { b.updLane l (fun ln => { ln with stallTimer := (b.lane l).stallAgain b.clock }) with
      capture := Vector.ofFn fun k : Fin 16 => (b.capture[k]).annotated b.clock l kind content passed
      port := { b.port with
        raised := b.port.raised ++ (allSlots.filter (fun k => (b.capture[k]).notifies l kind passed)).map (fun k => .captureSeen k l kind content) } } := by
  unfold Block.annotated
  rw [Block.captureAnnotation_spec, Block.restartStall_eq]
  rfl

/-- An annotation leaves the session open, whoever owns it. -/
theorem Block.annotated_owner (b : Block) (l : Fin 8) (kind : Byte) (content : List Byte) (passed : Bool) :
    ((b.annotated l kind content passed).lane l).owner = (b.lane l).owner := by
  rw [Block.annotated_eq]
  show ((b.updLane l (fun ln => { ln with stallTimer := (b.lane l).stallAgain b.clock })).lane l).owner = _
  rw [Block.lane_updLane_self]
  rfl

section
variable {b : Block} {l : Fin 8} {kind : Byte} {content : List Byte} {check : Word16}

theorem Block.annotationTaken_captured (h : annotationCheck kind content = check ∨ ∀ id, (b.lane l).owner ≠ some (.campaign id)) :
    Block.annotationTaken l (kind, content, check) b = b.annotated l kind content (annotationCheck kind content == check) := by
  unfold Block.annotationTaken Block.annotated
  dsimp only
  cases hp : annotationCheck kind content == check with
  | true => rfl
  | false =>
    have failed : annotationCheck kind content ≠ check := fun e => Bool.false_ne_true (hp.symm.trans (beq_iff_eq.2 e))
    have other := h.resolve_left failed
    unfold Lane.owner at other
    cases hs : (b.lane l).session with
    | none => rfl
    | some session =>
      rw [hs] at other
      cases ho : session.owner with
      | campaign id => exact absurd (congrArg some ho) (other id)
      | entry k => dsimp only; rw [ho]
      | duty => dsimp only; rw [ho]

theorem Block.annotationTaken_failed {id : Nat} {reel : Word64} {span : Word32} (hp : annotationCheck kind content ≠ check)
    (ho : (b.lane l).owner = some (.campaign id)) (hs : (b.lane l).span = some (reel, span)) :
    Block.annotationTaken l (kind, content, check) b = (b.annotated l kind content false).campaignAnnotation id kind reel span := by
  have failed : (annotationCheck kind content == check) = false := beq_eq_false_iff_ne.2 hp
  unfold Lane.owner at ho
  unfold Lane.span at hs
  unfold Block.annotationTaken Block.annotated
  dsimp only
  rw [failed]
  cases hx : (b.lane l).session with
  | none =>
    rw [hx] at ho
    exact nomatch ho
  | some session =>
    rw [hx] at ho hs
    dsimp only at ho hs ⊢
    rw [Option.some.inj ho, hs]

end

/-! ## The ANNOTATION event (R105, R115, R116) -/

/-- The event of an annotation that fails its check. -/
def Event.annotationOf (kind : Byte) (reel : Word64) (span : Word32) : Event :=
  { conditions := FindingClass.annotation.set, frame := none, delivered := none, annotation := some (kind, reel, span) }

theorem Block.campaignAnnotation_found {b : Block} {id : Nat} {c : Campaign} (hc : b.campaign id = some c) (kind : Byte) (reel : Word64) (span : Word32) :
    b.campaignAnnotation id kind reel span =
      (b.takeEvent c (.annotationOf kind reel span)).2.applyAnswer id (b.takeEvent c (.annotationOf kind reel span)).1 true := by
  unfold Block.campaignAnnotation
  rw [hc]
  rfl

/-- What the decision on an ANNOTATION event is. -/
theorem Decision.annotation_spec (r : Recorder) (p : ProfileChoice) (disregard : ClassSet) :
    let d := r.judge p disregard FindingClass.annotation.set
    (d.outcome = .halt ∨ d.outcome = .goOn) ∧ ClassSet.has d.noted .rollup = false ∧ (d.recognised = 0 → d.outcome = .goOn) ∧
      (d.recognised ≠ 0 → d.loggedClass = some .annotation) := by
  intro d
  rcases r.judge_set p disregard .annotation with passes | halts | notes
  · exact ⟨.inr passes.outcome, by rw [show d.noted = 0 from passes.noted, ClassSet.has_empty], fun _ => passes.outcome, fun h => absurd passes.recognised h⟩
  · refine ⟨.inl halts.outcome, by rw [show d.noted = 0 from halts.noted, ClassSet.has_empty], fun h => ?_, fun _ => halts.logged⟩
    exact absurd (halts.recognised.symm.trans h) (FindingClass.set_ne_zero _)
  · refine ⟨.inr notes.outcome, ?_, fun _ => notes.outcome, fun _ => notes.logged⟩
    rw [show d.noted = _ from notes.noted, ClassSet.has_set]
    rfl

/-- What a recognised ANNOTATION event leaves of the Recorder (R132, R139 to R141). -/
theorem Block.Noted.annotation {b t : Block} {c : Campaign} {d : Decision} {kind : Byte} {reel : Word64} {span : Word32}
    (h : b.Noted c (.annotationOf kind reel span) d t) (hr : d.recognised ≠ 0) (hl : d.loggedClass = some .annotation) :
    t.recorder.flags = b.recorder.flags ||| d.noted ∧
      (b.recorder.logsNow = true → ∃ f, t.recorder.log.getLast? = some f ∧ f.sequence = some b.recorder.nextSequence ∧ f.cls = .annotation ∧ f.annotation = some kind ∧
        f.reel = reel ∧ f.span = span ∧ f.campaign = c.id ∧ f.lane = c.lane ∧ f.slot = c.slot ∧ f.frame = none ∧ f.verdict = none) ∧
      (b.recorder.logsNow = false → ∃ p, t.recorder.pending = b.recorder.pending ++ [p] ∧ p.finding.annotation = some kind ∧ p.enqueued = false) := by
  refine ⟨h.flags hr, fun hlogs => ?_, fun hlogs => ⟨_, h.pends hr hlogs, rfl, rfl⟩⟩
  obtain ⟨-, last⟩ := h.logs hr hlogs
  exact ⟨_, last, rfl, by show d.loggedClass.getD .annotation = _; rw [hl]; rfl, rfl, rfl, rfl, rfl, rfl, rfl, rfl, rfl⟩

section
variable {b : Block} {c : Campaign} (hc : b.campaign c.id = some c) (kind : Byte) (reel : Word64) (span : Word32)
include hc

/-- An ANNOTATION event that goes on with no finding pending is noted, and no more. -/
theorem Block.campaignAnnotation_goesOn (ho : (b.decides c (.annotationOf kind reel span)).outcome = .goOn)
    (hw : ((b.decides c (.annotationOf kind reel span)).recognised != 0 && !b.recorder.logsNow) = false) :
    b.campaignAnnotation c.id kind reel span = b.eventNoted c (.annotationOf kind reel span) := by
  obtain ⟨-, -, goes⟩ := Block.applyAnswer_noted hc (ev := .annotationOf kind reel span) rfl rfl true
  rw [Block.campaignAnnotation_found hc, goes ho hw]

/-- An ANNOTATION event that halts, or leaves a finding pending, ends the campaign's session and holds it. -/
theorem Block.campaignAnnotation_holds (h : (b.decides c (.annotationOf kind reel span)).outcome = .halt ∨
      ((b.decides c (.annotationOf kind reel span)).outcome = .goOn ∧ ((b.decides c (.annotationOf kind reel span)).recognised != 0 && !b.recorder.logsNow) = true)) :
    let d := b.decides c (.annotationOf kind reel span)
    let waits := d.recognised != 0 && !b.recorder.logsNow
    let after := b.campaignAnnotation c.id kind reel span
    after.recorder = (b.eventNoted c (.annotationOf kind reel span)).recorder ∧
      (∃ st cause, after.campaign c.id = some ({ c.noting d waits with state := st, heldCause := cause }.heldFor (if waits = true then .logFull else .finding))) ∧
      (after.lane c.lane).owner ≠ some (.campaign c.id) ∧
      ((b.lane c.lane).owner = some (.campaign c.id) → (after.lane c.lane).session = none ∧ (after.lane c.lane).exchange = .idle) := by
  intro d waits after
  have noted : b.Noted c (.annotationOf kind reel span) d _ := Block.eventNoted_spec hc rfl rfl
  obtain ⟨-, holds, -⟩ := Block.applyAnswer_noted hc (ev := .annotationOf kind reel span) rfl rfl true
  have holds := holds h
  rw [← Block.campaignAnnotation_found hc] at holds
  obtain ⟨recorder, ⟨st, cause, found⟩, -, -⟩ := Block.campaignEndsSession_spec (x := c.noting d waits) noted.campaign
  obtain ⟨owner, ended⟩ := (b.eventNoted c (.annotationOf kind reel span)).campaignEndsSession_lane (c.noting d waits)
  have lanes := Still.holdCampaign (.refl ((b.eventNoted c (.annotationOf kind reel span)).endedFor (c.noting d waits) true)) c.id (if waits = true then .logFull else .finding)
  obtain ⟨-, same, -, -, -⟩ := ((b.eventNoted c (.annotationOf kind reel span)).endedFor (c.noting d waits) true).holdCampaign_spec c.id (if waits = true then .logFull else .finding)
  have held := ((b.eventNoted c (.annotationOf kind reel span)).endedFor (c.noting d waits) true).holdCampaign_campaign c.id c.id (if waits = true then .logFull else .finding)
  rw [if_pos rfl, show Block.campaign _ c.id = _ from found] at held
  rw [show after = _ from holds]
  refine ⟨same.trans recorder, ⟨st, cause, held⟩, ?_, fun hl => ?_⟩
  · rw [lanes.lane]
    exact owner
  · rw [lanes.lane]
    refine ended ?_
    rw [Block.lane_congr noted.lanes]
    exact hl

theorem Block.campaignAnnotation_spec :
    let d := b.recorder.judge c.profile c.disregard FindingClass.annotation.set
    let logs := b.recorder.logsNow
    let after := b.campaignAnnotation c.id kind reel span
    ∃ c', after.campaign c.id = some c' ∧ c'.counts = c.counts ∧ c'.resumePoint = c.resumePoint ∧ c'.frameRestarts = c.frameRestarts ∧ c'.noted = c.noted ||| d.noted ∧
      (d.recognised = 0 → after.recorder = b.recorder) ∧
      (d.recognised = 0 ∨ (d.outcome = .goOn ∧ logs = true) → after.lanes = b.lanes ∧ after.pool = b.pool ∧ after.store = b.store ∧ c'.state = c.state) ∧
      (d.recognised ≠ 0 → after.recorder.flags = b.recorder.flags ||| d.noted ∧
        (logs = true → ∃ f, after.recorder.log.getLast? = some f ∧ f.sequence = some b.recorder.nextSequence ∧ f.cls = .annotation ∧ f.annotation = some kind ∧
          f.reel = reel ∧ f.span = span ∧ f.campaign = c.id ∧ f.lane = c.lane ∧ f.slot = c.slot ∧ f.frame = none ∧ f.verdict = none) ∧
        (logs = false → ∃ p, after.recorder.pending = b.recorder.pending ++ [p] ∧ p.finding.annotation = some kind ∧ p.enqueued = false ∧ c'.pendingFinding = true)) ∧
      (d.outcome = .halt ∨ (d.recognised ≠ 0 ∧ logs = false) → c'.state = .held ∧ c'.heldCause = some (if logs then .finding else .logFull) ∧
        (after.lane c.lane).owner ≠ some (.campaign c.id) ∧
        ((b.lane c.lane).owner = some (.campaign c.id) → (after.lane c.lane).session = none ∧ (after.lane c.lane).exchange = .idle)) := by
  intro d logs after
  obtain ⟨outcome, norollup, none_goesOn, logged⟩ := Decision.annotation_spec b.recorder c.profile c.disregard
  change d.outcome = .halt ∨ d.outcome = .goOn at outcome
  change d.recognised = 0 → d.outcome = .goOn at none_goesOn
  have noted : b.Noted c (.annotationOf kind reel span) d (b.eventNoted c (.annotationOf kind reel span)) := Block.eventNoted_spec hc rfl rfl
  have store := noted.store
  rw [show ClassSet.has d.noted .rollup = false from norollup, if_neg Bool.false_ne_true] at store
  have taken : d.recognised ≠ 0 → _ := fun hr => noted.annotation hr (logged hr)
  have waiting : ∀ {p : Bool}, d.recognised ≠ 0 → logs = false → (p || (d.recognised != 0 && !b.recorder.logsNow)) = true := fun {p} hr hl => by
    rw [bne_iff_ne.2 hr, show b.recorder.logsNow = false from hl]
    exact Bool.or_true p
  by_cases hg : d.outcome = .goOn ∧ (d.recognised != 0 && !b.recorder.logsNow) = false
  · obtain ⟨ho, hw⟩ := hg
    have noneWaits : ¬(d.recognised ≠ 0 ∧ logs = false) := fun ⟨hr, hl⟩ => Bool.false_ne_true (hw.symm.trans (waiting (p := false) hr hl))
    rw [show after = _ from Block.campaignAnnotation_goesOn hc kind reel span ho hw]
    refine ⟨_, noted.campaign, rfl, rfl, rfl, rfl, noted.passes, fun _ => ⟨noted.lanes, noted.pool, store, rfl⟩, fun hr => ?_, ?_⟩
    · obtain ⟨flags, finds, pends⟩ := taken hr
      exact ⟨flags, finds, fun hl => absurd ⟨hr, hl⟩ noneWaits⟩
    · rintro (hh | hw')
      · exact EventOutcome.noConfusion (hh.symm.trans ho)
      · exact absurd hw' noneWaits
  · have h : d.outcome = .halt ∨ (d.outcome = .goOn ∧ (d.recognised != 0 && !b.recorder.logsNow) = true) :=
      outcome.imp_right fun ho => ⟨ho, Bool.eq_true_of_not_eq_false fun hw => hg ⟨ho, hw⟩⟩
    have recognised : d.recognised ≠ 0 := fun hr => hg ⟨none_goesOn hr, by rw [hr]; rfl⟩
    have waits : (d.recognised != 0 && !b.recorder.logsNow) = !b.recorder.logsNow := by rw [bne_iff_ne.2 recognised, Bool.true_and]
    obtain ⟨recorder, ⟨st, cause, held⟩, owner, ended⟩ := Block.campaignAnnotation_holds hc kind reel span h
    refine ⟨_, held, rfl, rfl, rfl, rfl, fun hr => absurd hr recognised, ?_, fun hr => ?_, fun _ => ⟨rfl, ?_, owner, ended⟩⟩
    · rintro (hr | ⟨ho, hl⟩)
      · exact absurd hr recognised
      · exact absurd ⟨ho, by rw [waits, show b.recorder.logsNow = true from hl]; rfl⟩ hg
    · rw [show after.recorder = _ from recorder]
      obtain ⟨flags, finds, pends⟩ := taken hr
      refine ⟨flags, finds, fun hl => ?_⟩
      obtain ⟨p, joined, kinds, enqueued⟩ := pends hl
      exact ⟨p, joined, kinds, enqueued, waiting hr hl⟩
    · show some (if (d.recognised != 0 && !b.recorder.logsNow) = true then HeldCause.logFull else .finding) = _
      rw [waits]
      show _ = some (if b.recorder.logsNow = true then HeldCause.finding else .logFull)
      cases b.recorder.logsNow <;> rfl

end

/-! ## O40 -/

/-- The freshness timer of a slot (R88). -/
theorem Block.freshnessExpires_cases (b : Block) (k : Fin 16) :
    ((b.capture[k]).timer = none → b.freshnessExpires k = b) ∧
    ∀ t, (b.capture[k]).timer = some t → b.freshnessExpires k =
      { b with clock := max b.clock t, capture := b.capture.set k.val { b.capture[k] with seen := false, timer := none } k.isLt } := by
  refine ⟨fun h => ?_, fun t h => ?_⟩
  · unfold Block.freshnessExpires
    rw [h]
  · unfold Block.freshnessExpires
    rw [h]
    rfl

/-- Settles O40: the slots and the stall timer once an annotation is captured, the campaign's event when it fails its check, and the freshness timer. -/
theorem annotationsAreCaptured : Obligations.AnnotationsAreCaptured := by
  unfold Obligations.AnnotationsAreCaptured
  refine ⟨fun s l session body crc kind content check hh told hp => ?_, fun s k hi => ?_⟩
  · intro answer passed matched slot seen limit captured
    have heard : answer = .next (s.after (Block.annotationTaken l (kind, content, check) s.blk)) := State.event_heard hh hp (Block.annotationTaken l)
    have isCaptured : s.blk.annotated l kind content (annotationCheck kind content == check) = captured := by
      have timers : s.blk.updLane l (fun ln => { ln with stallTimer := (s.blk.lane l).stallAgain s.blk.clock }) = s.blk.updLane l (fun x => { x with
          stallTimer := match x.exchange with | .idle => x.stallTimer | .rewrite _ false => x.stallTimer | _ => limit }) := by
        refine Block.updLane_congr (congrArg (fun timer => { s.blk.lane l with stallTimer := timer }) ?_)
        unfold Lane.stallAgain
        cases (s.blk.lane l).exchange with
        | rewrite frame sent => cases sent <;> rfl
        | idle => rfl
        | opening => rfl
        | closing => rfl
        | frame f => rfl
        | calibration length bytes => rfl
      have slots : ∀ k : Fin 16, (s.blk.capture[k]).annotated s.blk.clock l kind content (annotationCheck kind content == check) = slot k := fun k =>
        CaptureSlot.annotated_eq _ s.blk.clock l kind content check
      have notices : ∀ k : Fin 16, (s.blk.capture[k]).notifies l kind (annotationCheck kind content == check) =
          decide (matched k ∧ passed ∧ (s.blk.capture[k]).notify = true) := fun k => by
        exact Bool.eq_iff_iff.2 ((CaptureSlot.notifies_iff _ l kind _).trans
          ((and_congr_right' (and_congr_left' beq_iff_eq)).trans decide_eq_true_iff.symm))
      have none_raised : s.blk.port.raised = [] := told
      rw [Block.annotated_eq, timers, funext slots, funext notices, none_raised]
      rfl
    refine ⟨fun h => ?_, fun id c reel span hp' ho hs hc => ?_⟩
    · rw [heard, Block.annotationTaken_captured h, isCaptured]
    · obtain rfl : c.id = id := Scheduler.find_id hc
      rw [beq_eq_false_iff_ne.2 hp'] at isCaptured
      rw [Block.annotationTaken_failed hp' ho hs, isCaptured] at heard
      obtain ⟨c', found, counts, resume, restarts, noted, passes, stands, taken, holds⟩ := Block.campaignAnnotation_spec (b := captured) (c := c) hc kind reel span
      intro d logs
      have inner := (Inner.refl captured).campaignAnnotation c.id kind reel span
      refine ⟨_, c', heard, inner.capture, found, counts, resume, restarts, noted, passes, stands, taken, fun h => ?_⟩
      obtain ⟨state, cause, owner, ended⟩ := holds h
      refine ⟨state, cause, owner, ?_⟩
      rintro rfl
      refine ended ?_
      rw [← isCaptured, Block.annotated_owner]
      exact ho
  · intro c
    obtain ⟨stopped, expires⟩ := s.blk.freshnessExpires_cases k
    refine ⟨fun h => ?_, fun t h => ?_⟩
    · exact State.event_still hi (stopped h) hi.quiet hi.told
    · exact State.event_still hi (expires t h) hi.quiet hi.told

end Sys2Proof.Machine
end

section
/-! SUPPORT. SET CAPTURE (R89). -/
namespace Sys2Proof.Machine

/-! ## The body of SET CAPTURE (R89) -/

/-- The values a SET CAPTURE body may hold, its slot aside (R89). -/
def captureGood (body : List Byte) : Prop :=
  (fieldAt body 1 1 < 8 ∨ fieldAt body 1 1 = 0xFF) ∧ (fieldAt body 2 1 = 0 ∨ (0x10 ≤ fieldAt body 2 1 ∧ fieldAt body 2 1 ≤ 0xFE)) ∧
    fieldAt body 3 1 ≤ 1 ∧ fieldAt body 5 1 ≤ 1

/-- The empty slot that a SET CAPTURE body programs (R89). -/
def CaptureSlot.programmed (body : List Byte) : CaptureSlot :=
  { selector := if fieldAt body 1 1 = 0xFF then none else laneOf (fieldAt body 1 1)
    kind := if fieldAt body 2 1 = 0 then none else some (BitVec.ofNat 8 (fieldAt body 2 1))
    keepFaulty := fieldAt body 3 1 == 1, window := fieldAt body 4 1, notify := fieldAt body 5 1 == 1 }

theorem captureKind_good {n : Nat} (h : n = 0 ∨ (0x10 ≤ n ∧ n ≤ 0xFE)) : captureKind n = some (if n = 0 then none else some (BitVec.ofNat 8 n)) := by
  unfold captureKind
  by_cases h0 : n = 0
  · rw [if_pos h0, if_pos h0]
  · rw [if_neg h0, if_neg h0, if_pos (h.resolve_left h0)]

theorem captureKind_bad {n : Nat} (h : ¬(n = 0 ∨ (0x10 ≤ n ∧ n ≤ 0xFE))) : captureKind n = none := by
  unfold captureKind
  rw [if_neg (fun h0 => h (.inl h0)), if_neg (fun hr => h (.inr hr))]

theorem parseCapture_good {body : List Byte} (h : captureGood body) : parseCapture body = some (CaptureSlot.programmed body) := by
  obtain ⟨selector, kind, keep, notify⟩ := h
  unfold parseCapture
  rw [bindLane_good (by omega), captureKind_good kind, onOff_eq keep, onOff_eq notify]
  rfl

/-- Any one value outside its range leaves nothing to program. -/
theorem parseCapture_bad {body : List Byte} (h : ¬captureGood body) : parseCapture body = none := by
  unfold parseCapture
  split
  · next sel kind keep notify hs hk hf hn =>
    refine absurd ⟨?selector, ?kind, ?keep, ?notify⟩ h
    case selector => exact Decidable.by_contra fun bad => by rw [bindLane_bad (by omega)] at hs; cases hs
    case kind => exact Decidable.by_contra fun bad => by rw [captureKind_bad bad] at hk; cases hk
    case keep => exact Nat.not_lt.1 fun bad => by rw [onOff_none bad] at hf; cases hf
    case notify => exact Nat.not_lt.1 fun bad => by rw [onOff_none bad] at hn; cases hn
  · rfl

/-! ## SET CAPTURE at its owner (R89) -/

theorem Block.setCapture_range {b : Block} {body : List Byte} (h : 16 ≤ fieldAt body 0 1 ∨ ¬captureGood body) : b.setCapture body = b.refuse .range := by
  unfold Block.setCapture
  rcases h with slot | values
  · rw [slotOf_none slot]
  · rw [parseCapture_bad values]
    cases slotOf (fieldAt body 0 1) <;> rfl

theorem Block.setCapture_taken {b : Block} {body : List Byte} {k : Fin 16} (hk : slotOf (fieldAt body 0 1) = some k) (h : captureGood body) :
    b.setCapture body = Block.done { b with capture := b.capture.set k.val (CaptureSlot.programmed body) k.isLt } [] := by
  unfold Block.setCapture
  rw [hk, parseCapture_good h]

/-- Settles O39: a value out of range is refused, and a taken request programs its slot and nothing else. -/
theorem setCaptureReplaces : Obligations.SetCaptureReplaces := by
  intro s tag body h selector kind keep notify inRange
  refine ⟨fun bad => State.request_refused h (Block.setCapture_range bad), fun k hk good => ?_⟩
  intro programmed
  exact State.request_replied h (b := { s.blk with capture := s.blk.capture.set k.val programmed k.isLt }) (Block.setCapture_taken hk good) h.quiet rfl

end Sys2Proof.Machine
end

section
/-! SUPPORT. CALIBRATE LANE and the END of its run (R55, R81, R190, R192, R193). -/
namespace Sys2Proof.Machine

/-! ## CALIBRATE LANE (R192) -/

theorem Block.headBusy_iff {b : Block} {l : Fin 8} : b.headBusy l = true ↔ ∃ c, b.sched.head l = some c ∧ c.state ≠ .waiting := by
  unfold Block.headBusy
  cases b.sched.head l with
  | none => simp
  | some c => simp

theorem Block.calibrateLane_at {b : Block} {body : List Byte} {l : Fin 8} (h : laneOf (fieldAt body 0 1) = some l) : b.calibrateLane body =
    if (b.lane l).state ≠ .ready then b.refuse .state else if b.headBusy l then b.refuse .busy else Block.done (b.startCalibration l) [] :=
  Block.onLane_at h _

/-- The lane as CALIBRATE LANE leaves it: the session is open under the next number, CALIBRATE is sent, and the stall timer runs (R55, R81, R192). -/
def Lane.calibrating (clock : Nat) (ln : Lane) : Lane :=
  { ln with
    state := .calibrating, item := some { kind := .calibrationRun, owner := .duty }
    session := some { number := ln.nextSession, kind := .calibration, span := none, owner := .duty }, nextSession := nextNumber ln.nextSession
    exchange := .calibration calibrationBytes 0, stallTimer := some (clock + ln.settings.stallLimit * 500000)
    sent := ln.sent ++ [.calibrate ln.nextSession calibrationBytes] }

/-- A run started is one change of the lane, and a run in hand at the Duty Controller. -/
theorem Block.startCalibration_eq (b : Block) (l : Fin 8) : b.startCalibration l = (b.updLane l (Lane.calibrating b.clock)).updDuty (fun d => { d with
    calibration := d.calibration.set l.val (some { session := (b.lane l).nextSession, firstAt := none, bytes := 0 }) l.isLt }) := by
  have lane : (((b.openSession l .calibration none .duty).send l (.calibrate (b.lane l).nextSession calibrationBytes)).updLane l (fun ln => { ln with
      state := .calibrating, item := some { kind := .calibrationRun, owner := .duty }, exchange := .calibration calibrationBytes 0 })).startStall l =
      b.updLane l (Lane.calibrating b.clock) := by
    rw [Block.startStall, Block.send, Block.openSession, Block.updLane_updLane, Block.updLane_updLane, Block.updLane_updLane]
    exact Block.updLane_congr rfl
  rw [← lane]
  rfl

/-! ## The gate computed again (R190) -/

/-- Computing a gate again changes lanes and asks alone. -/
theorem Block.regate_rest (b : Block) (l : Fin 8) : ∃ lanes asks, b.regate l = { b with lanes := lanes, asks := asks } := by
  unfold Block.regate
  split
  · split
    · dsimp only
      split
      · obtain ⟨asks, asked⟩ := Block.ask_rest (b.updLane l (fun ln => { ln with gate := some _ })) l
        exact ⟨_, asks, by rw [asked]; rfl⟩
      · exact ⟨_, _, rfl⟩
    · exact ⟨_, _, rfl⟩
  · exact ⟨_, _, rfl⟩

/-- Of the lanes, only the gate of its own may change. -/
theorem Block.regateIfChanged_lane (b : Block) (l : Fin 8) (before : Option Nat) :
    (∃ gate, (b.regateIfChanged l before).lane l = { b.lane l with gate := gate }) ∧ ∀ j, j ≠ l → (b.regateIfChanged l before).lane j = b.lane j := by
  unfold Block.regateIfChanged
  split
  · exact ⟨⟨_, rfl⟩, fun _ _ => rfl⟩
  · obtain ⟨own, others, -⟩ := b.regate_lane l
    exact ⟨⟨_, own⟩, others⟩

theorem Block.regateIfChanged_duty (b : Block) (l : Fin 8) (before : Option Nat) : (b.regateIfChanged l before).duty = b.duty := by
  unfold Block.regateIfChanged
  split
  · rfl
  · obtain ⟨lanes, asks, e⟩ := b.regate_rest l
    rw [e]

/-! ## The END of a calibration run (R81, R193) -/

theorem Block.endTaken_calibration {b : Block} {l : Fin 8} {size bytes : Nat} (hx : (b.lane l).exchange = .calibration size bytes) :
    Block.endTaken l () b = if bytes = size then b.calibrationEnds l else b.malformed l := by
  unfold Block.endTaken
  rw [hx]

theorem Block.calibrationTime_started {b : Block} {l : Fin 8} {run : Calibration} {t : Nat} (hr : b.duty.calibration[l] = some run)
    (ht : run.firstAt = some t) : b.calibrationTime l = max 1 (b.clock - t) := by
  unfold Block.calibrationTime
  rw [hr]
  dsimp only
  rw [ht, Option.getD_some]

/-- The run is over: HALT sent, its ceiling and its end stored; the gate, the lane's return to READY and the notice are still to come (R193). -/
def Block.calibrated (b : Block) (l : Fin 8) : Block :=
  (((b.dropExchange l).haltSession l).updLane l (fun ln => { ln with settings := { ln.settings with ceiling := calibratedCeiling (b.calibrationTime l) } })).updDuty
    (fun d => { d with
      calibration := d.calibration.set l.val none l.isLt
      lastCalibration := d.lastCalibration.set l.val (some (.done (b.calibrationTime l) (calibratedCeiling (b.calibrationTime l)))) l.isLt })

theorem Block.calibrationEnds_eq (b : Block) (l : Fin 8) : b.calibrationEnds l =
    (((b.calibrated l).regateIfChanged l (b.duty.effectiveCeiling l (b.lane l).settings.ceiling)).toReady l).raise
      (.calibrationDone l (.done (b.calibrationTime l) (calibratedCeiling (b.calibrationTime l))) (calibratedCeiling (b.calibrationTime l))
        (b.lane l).settings.ceiling) := rfl

/-- The lane at the end of its run, its pacing aside (R193). -/
theorem Block.calibrationEnds_lane (b : Block) (l : Fin 8) : (b.calibrationEnds l).lane l = { b.lane l with
    state := .ready, item := none, session := none, exchange := .idle, stallTimer := none
    settings := { (b.lane l).settings with ceiling := calibratedCeiling (b.calibrationTime l) }
    sent := (b.lane l).sent ++ ((b.lane l).session.map (fun x => SentUnit.halt x.number)).toList
    gate := ((b.calibrationEnds l).lane l).gate, pacing := ((b.calibrationEnds l).lane l).pacing } := by
  obtain ⟨⟨gate, regated⟩, -⟩ := (b.calibrated l).regateIfChanged_lane l (b.duty.effectiveCeiling l (b.lane l).settings.ceiling)
  have freed := b.freed_lane l (fun ln => { ln with settings := { ln.settings with ceiling := calibratedCeiling (b.calibrationTime l) } })
  rw [Block.calibrationEnds_eq, Block.raise_lane, Block.toReady, Block.ask_lane, Block.lane_updLane_self, regated, Block.calibrated, Block.updDuty_lane, freed]

theorem Block.calibrationEnds_lane_ne (b : Block) {l j : Fin 8} (h : j ≠ l) : (b.calibrationEnds l).lane j = b.lane j := by
  obtain ⟨-, others⟩ := (b.calibrated l).regateIfChanged_lane l (b.duty.effectiveCeiling l (b.lane l).settings.ceiling)
  rw [Block.calibrationEnds_eq, Block.raise_lane, Block.toReady, Block.ask_lane, Block.lane_updLane_ne _ _ h, others j h, Block.calibrated,
    Block.updDuty_lane, Block.freed_lane_ne _ _ h]

/-- No run is in hand at its lane, and its end is the lane's most recent (R179, R193). -/
theorem Block.calibrationEnds_run (b : Block) (l : Fin 8) : (b.calibrationEnds l).duty.calibration[l] = none ∧
    (b.calibrationEnds l).duty.lastCalibration[l] = some (.done (b.calibrationTime l) (calibratedCeiling (b.calibrationTime l))) := by
  rw [Block.calibrationEnds_eq, Block.raise_duty, Block.toReady, Block.ask_duty, Block.updLane_duty, Block.regateIfChanged_duty]
  unfold Block.calibrated
  rw [Block.updDuty_duty]
  exact ⟨Vector.getElem_set_self _, Vector.getElem_set_self _⟩

theorem Block.calibrationEnds_notice (b : Block) (l : Fin 8) : (b.calibrationEnds l).port.raised.getLast? =
    some (.calibrationDone l (.done (b.calibrationTime l) (calibratedCeiling (b.calibrationTime l))) (calibratedCeiling (b.calibrationTime l))
      (b.lane l).settings.ceiling) := by
  rw [Block.calibrationEnds_eq, Block.raise_port]
  exact List.getLast?_concat

/-- Settles O58: the refusals of CALIBRATE LANE in their order and the run it starts, and the END before and after every byte has come. -/
theorem calibrateLaneRuns : Obligations.CalibrateLaneRuns := by
  refine ⟨fun s tag body h => ?starts, fun s l session crc size bytes hh hx => ?ends⟩
  case starts =>
    intro refused
    refine ⟨fun hr => State.request_refused h (Block.onLane_range hr _), fun l hl => ?_⟩
    intro ln busy
    have owner := Block.calibrateLane_at (b := s.blk) hl
    refine ⟨fun hs => ?state, fun hs hb => ?busy, fun hs hb => ?taken⟩
    case state =>
      rw [if_pos hs] at owner
      exact State.request_refused h owner
    case busy =>
      rw [if_neg (not_not_intro hs), if_pos (Block.headBusy_iff.2 hb)] at owner
      exact State.request_refused h owner
    case taken =>
      rw [if_neg (not_not_intro hs), if_neg (mt Block.headBusy_iff.1 hb), Block.startCalibration_eq] at owner
      intro n run calibrating
      have changed : s.blk.updLane l (Lane.calibrating s.blk.clock) = calibrating := Block.updLane_congr rfl
      rw [changed] at owner
      exact State.request_replied h owner h.quiet rfl
  case ends =>
    intro ln answer
    have taken : answer = .next (s.after (Block.endTaken l () s.blk)) := State.event_heard hh (parsed := parseEmpty []) rfl (Block.endTaken l)
    rw [Block.endTaken_calibration hx] at taken
    refine ⟨fun hb => ?early, fun run t hb hr ht => ?complete⟩
    case early =>
      rw [if_neg hb] at taken
      exact taken
    case complete =>
      intro time ceiling
      rw [if_pos hb] at taken
      have elapsed : s.blk.calibrationTime l = time := Block.calibrationTime_started hr ht
      obtain ⟨noRun, last⟩ := s.blk.calibrationEnds_run l
      have lane := s.blk.calibrationEnds_lane l
      have notice := s.blk.calibrationEnds_notice l
      rw [elapsed] at last lane notice
      exact ⟨s.blk.calibrationEnds l, taken, noRun, last, notice, lane, fun j hj => s.blk.calibrationEnds_lane_ne hj⟩

end Sys2Proof.Machine
end

section
/-! SUPPORT. The requests that change a campaign of the table (R97, R117, R118, R119): RESUME, ABANDON and DISMISS CAMPAIGN. -/
namespace Sys2Proof.Machine

/-! ## The lists (R92, R150) -/

/-- Settles O11: of the bounds that every step keeps, the lengths of the campaign table and of the Suspect List. -/
theorem stepKeepsListSizes : Obligations.StepKeepsListSizes :=
  fun _ _ ⟨campaigns, suspects⟩ e => ⟨(step_stays e).campaigns campaigns, (step_stays e).suspects suspects⟩

/-! ## The campaign a request names -/

theorem Block.onCampaign_absent {b : Block} {n : Nat} (h : b.campaign n = none) (f : Campaign → Block × Reply) : b.onCampaign n f = b.refuse .absent := by
  unfold Block.onCampaign
  rw [h]

theorem Block.onCampaign_found {b : Block} {n : Nat} {c : Campaign} (h : b.campaign n = some c) (f : Campaign → Block × Reply) : b.onCampaign n f = f c := by
  unfold Block.onCampaign
  rw [h]

theorem CampaignState.active_eq_false {st : CampaignState} : st.active = false ↔ st = .done ∨ st = .ended := by cases st <;> decide

/-! ## A campaign that leaves its queue or its hold (R16, R97, R121) -/

section
variable {b : Block} {id : Nat} {c : Campaign} (hc : b.campaign id = some c)
include hc

/-- CAMPAIGN_CHANGED after a change of the campaign's state gives the values it has kept (R121). -/
theorem Block.campaignNotice_upd {f : Campaign → Campaign} (hf : ∀ x, (f x).id = x.id) (cause : CampaignCause) : (b.updCampaign id f).campaignNotice id cause =
    (b.updCampaign id f).raise (.campaignChanged (f c).id (f c).lane (f c).slot (f c).state cause (f c).resumePoint (f c).counts) := by
  unfold Block.campaignNotice
  rw [Block.campaign_updCampaign b id id f hf, if_pos rfl, hc]
  rfl

theorem Block.closeCampaign_found (st : CampaignState) (endCause : Option EndCause) (cause : CampaignCause) : b.closeCampaign id st endCause cause =
    (({ b with
      sched := b.sched.upd id (fun x => { x with state := st, endCause := endCause, heldCause := none })
      store := b.store.unpinCampaign c.slot } : Block).raise (.campaignChanged c.id c.lane c.slot st cause c.resumePoint c.counts)).ask c.lane := by
  have unpinned : (b.updStore (fun s => s.unpinCampaign c.slot)).campaign id = some c := hc
  unfold Block.closeCampaign
  rw [hc]
  exact congrArg (fun d : Block => d.ask c.lane)
    (Block.campaignNotice_upd unpinned (f := fun x => { x with state := st, endCause := endCause, heldCause := none }) (fun _ => rfl) cause)

theorem Block.releaseCampaign_found (cause : CampaignCause) : b.releaseCampaign id cause =
    ((b.updCampaign id (fun x => { x with state := .waiting, heldCause := none })).raise
      (.campaignChanged c.id c.lane c.slot .waiting cause c.resumePoint c.counts)).ask c.lane := by
  unfold Block.releaseCampaign
  rw [hc]
  exact congrArg (fun d : Block => d.ask c.lane)
    (Block.campaignNotice_upd hc (f := fun x => { x with state := .waiting, heldCause := none }) (fun _ => rfl) cause)

end

/-! ## RESUME CAMPAIGN (R117) -/

theorem Campaign.earnsWaiver_iff (c : Campaign) :
    c.earnsWaiver = true ↔ c.heldCause = some .finding ∧ c.haltCode.map HaltCode.cls = some .identity := by
  unfold Campaign.earnsWaiver
  cases c.haltCode <;> simp

/-- Two changes of the campaign of an id are one. -/
theorem Scheduler.upd_upd (sc : Scheduler) (id : Nat) {f : Campaign → Campaign} (g : Campaign → Campaign) (hf : ∀ c, (f c).id = c.id) :
    (sc.upd id f).upd id g = sc.upd id (fun c => g (f c)) := by
  unfold Scheduler.upd
  dsimp only
  rw [List.map_map]
  congr 1
  refine List.map_congr_left fun c _ => ?_
  by_cases h : c.id = id <;> simp [h, hf]

/-- The release of a HELD campaign whose trailer is not checked: one change of the campaign, its notice and the ask of its lane. -/
theorem Block.resumeHeld_waits {b : Block} {c : Campaign} (hc : b.campaign c.id = some c) (ht : c.trailerChecked = false) : b.resumeHeld c =
    Block.done (((b.updCampaign c.id (fun x => { x with state := .waiting, heldCause := none, waiver := x.waiver || c.earnsWaiver })).raise
      (.campaignChanged c.id c.lane c.slot .waiting .resumed c.resumePoint c.counts)).ask c.lane) [CampaignState.waiting.code] := by
  have waived : (b.updCampaign c.id (fun x => { x with waiver := x.waiver || c.earnsWaiver })).campaign c.id = some { c with waiver := c.waiver || c.earnsWaiver } := by
    rw [Block.campaign_updCampaign _ _ _ _ fun _ => by rfl, if_pos rfl, hc]
    rfl
  have once := b.sched.upd_upd c.id (f := fun x => { x with waiver := x.waiver || c.earnsWaiver }) (fun x => { x with state := .waiting, heldCause := none }) fun _ => rfl
  unfold Block.resumeHeld
  rw [if_neg (by rw [ht]; exact Bool.false_ne_true)]
  dsimp only
  rw [Block.releaseCampaign_found waived]
  exact congrArg (fun sc => Block.done ((({ b with sched := sc } : Block).raise
    (.campaignChanged c.id c.lane c.slot .waiting .resumed c.resumePoint c.counts)).ask c.lane) [CampaignState.waiting.code]) once

/-- Settles O43: the refusals of RESUME CAMPAIGN in their order, and the two releases of a HELD campaign. -/
theorem resumeCampaignReleases : Obligations.ResumeCampaignReleases := by
  intro s tag body h refused
  refine ⟨fun hc => State.request_refused h (Block.onCampaign_absent hc _), fun c hc => ?_⟩
  have own : s.blk.campaign c.id = some c := by rw [Scheduler.find_id hc]; exact hc
  have owner : s.blk.resumeCampaign body = if c.state ≠ .held then s.blk.refuse .state
      else if c.heldCause = some .logFull then s.blk.refuse .busy else s.blk.resumeHeld c := Block.onCampaign_found hc _
  refine ⟨fun hs => ?state, fun hs hf => ?busy, fun hs hf ht => ?done, fun hs hf ht => ?waiting⟩
  case state =>
    rw [if_pos hs] at owner
    exact State.request_refused h owner
  case busy =>
    rw [if_neg (not_not_intro hs), if_pos hf] at owner
    exact State.request_refused h owner
  case done =>
    rw [if_neg (not_not_intro hs), if_neg hf, Block.resumeHeld, if_pos ht, Block.closeCampaign_found own] at owner
    exact (State.request_takes h _).trans (by rw [owner]; rfl)
  case waiting =>
    intro identity b
    have waiver : c.earnsWaiver = decide identity := Bool.eq_iff_iff.2 (c.earnsWaiver_iff.trans decide_eq_true_iff.symm)
    rw [if_neg (not_not_intro hs), if_neg hf, Block.resumeHeld_waits own ht, waiver] at owner
    exact (State.request_takes h _).trans (by rw [owner]; rfl)

/-! ## ABANDON CAMPAIGN and DISMISS CAMPAIGN (R118, R119) -/

/-- A campaign that owns no session on its lane has none to end (R56). -/
theorem Block.campaignEndsSession_none {b : Block} {c : Campaign} (h : (b.lane c.lane).owner ≠ some (.campaign c.id)) : b.campaignEndsSession c = b := by
  unfold Block.campaignEndsSession
  unfold Lane.owner at h
  cases hs : (b.lane c.lane).session with
  | none => rfl
  | some x =>
    rw [hs] at h
    exact if_neg fun e => h (congrArg some e)

theorem Block.closeCampaign_lane (b : Block) (id : Nat) (st : CampaignState) (endCause : Option EndCause) (cause : CampaignCause) (l : Fin 8) :
    (b.closeCampaign id st endCause cause).lane l = b.lane l := ((Still.refl b).closeCampaign id st endCause cause).lane l

/-- Settles O44: the session ended first, then the campaign closed; and the entry dropped. -/
theorem campaignsLeaveTheTable : Obligations.CampaignsLeaveTheTable := by
  refine ⟨fun s tag body h => ?abandon, fun s tag body h => ?dismiss⟩
  case abandon =>
    intro refused
    refine ⟨fun hc => State.request_refused h (Block.onCampaign_absent hc _), fun c hc => ?_⟩
    have own : s.blk.campaign c.id = some c := by rw [Scheduler.find_id hc]; exact hc
    have owner : s.blk.abandonCampaign body = if c.state.active then
        ((s.blk.campaignEndsSession c).closeCampaign c.id .ended (some .abandoned) .abandoned).done [] else s.blk.refuse .state := Block.onCampaign_found hc _
    refine ⟨fun hs => ?state, fun hd he => ?taken⟩
    case state =>
      rw [if_neg (by rw [CampaignState.active_eq_false.2 hs]; exact Bool.false_ne_true)] at owner
      exact State.request_refused h owner
    case taken =>
      intro quietly ended
      have active : c.state.active = true := by
        rw [← Bool.not_eq_false, CampaignState.active_eq_false]
        exact not_or.2 ⟨hd, he⟩
      rw [if_pos active] at owner
      obtain ⟨st, cause, left⟩ := (Later.campaignEndsSession s.blk c).campaigns c.id c own
      obtain ⟨campaign, -, store, raised⟩ := Block.closeCampaign_spec left .ended (some .abandoned) .abandoned
      obtain ⟨-, freed⟩ := s.blk.campaignEndsSession_lane c
      refine ⟨(State.request_takes h _).trans (by rw [owner]; rfl), Block.campaignEndsSession_none, fun ho => ?_, fun d hd => ?_, campaign, ?_, ?_⟩
      · rw [show ended.lane c.lane = quietly.lane c.lane from Block.closeCampaign_lane ..]
        exact freed ho
      · obtain ⟨closed, -⟩ := Block.closeCampaign_spec hd .ended (some .abandoned) .abandoned
        exact closed
      · rw [show ended.store = quietly.store.unpinCampaign c.slot from store]
        exact Store.unpinCampaign_pins ((SameCovers.campaignEndsSession s.blk c).campaignPins c.slot)
      · rw [show ended.port.raised = _ from raised]
        exact List.getLast?_concat
  case dismiss =>
    intro refused
    refine ⟨fun hc => State.request_refused h (Block.onCampaign_absent hc _), fun c hc => ?_⟩
    have owner : s.blk.dismissCampaign body = if c.pendingFinding then s.blk.refuse .busy else if c.state.active then s.blk.refuse .state
        else ({ s.blk with sched := s.blk.sched.drop c.id } : Block).done [] := Block.onCampaign_found hc _
    refine ⟨fun hp => ?busy, fun hp hd he => ?state, fun hp hs => ?dropped⟩
    case busy =>
      rw [if_pos hp] at owner
      exact State.request_refused h owner
    case state =>
      have active : c.state.active = true := by
        rw [← Bool.not_eq_false, CampaignState.active_eq_false]
        exact not_or.2 ⟨hd, he⟩
      rw [if_neg (by rw [hp]; exact Bool.false_ne_true), if_pos active] at owner
      exact State.request_refused h owner
    case dropped =>
      rw [if_neg (by rw [hp]; exact Bool.false_ne_true), if_neg (by rw [CampaignState.active_eq_false.2 hs]; exact Bool.false_ne_true)] at owner
      exact State.request_replied h owner h.quiet rfl

end Sys2Proof.Machine
end

section
/-! SUPPORT. ACKNOWLEDGE (R116, R140, R142, R143, R152): what logging one pending finding leaves, and the findings logged one after the other. -/
namespace Sys2Proof.Machine

/-! ## The campaign of a finding logged (R116) -/

/-- A campaign whose finding has been logged: one HELD with LOG_FULL is HELD with FINDING, DONE or WAITING, and any other stays. -/
def Campaign.releasedBy (halted : Bool) (c : Campaign) : Campaign :=
  if c.state = .held ∧ c.heldCause = some .logFull then
    if halted then { c with heldCause := some .finding }
    else if c.trailerChecked then { c with state := .done, endCause := none, heldCause := none }
    else { c with state := .waiting, heldCause := none }
  else c

/-- What the release of a campaign HELD with LOG_FULL leaves: its state and its causes change, CAMPAIGN_CHANGED gives its values, and nothing of the Recorder
or of the Repair Engine changes. -/
structure Block.Released (b after : Block) (id : Nat) (halted : Bool) : Prop where
  repair   : after.repair = b.repair
  recorder : after.recorder = b.recorder
  own      : after.campaign id = (b.campaign id).map (Campaign.releasedBy halted)
  others   : ∀ n, n ≠ id → after.campaign n = b.campaign n
  raised   : ∃ ns, after.port.raised = b.port.raised ++ ns
  told     : ∀ c, b.campaign id = some c → c.state = .held → c.heldCause = some .logFull →
    .campaignChanged c.id c.lane c.slot (c.releasedBy halted).state .logged c.resumePoint c.counts ∈ after.port.raised

/-- A change of the campaign to what the release makes of it, with its notice, is that release, whatever pin it gives back and whichever arbiter it asks. -/
theorem Block.Released.of {b : Block} {id : Nat} {halted : Bool} {c : Campaign} (hc : b.campaign id = some c) {f : Campaign → Campaign} (hf : ∀ x, (f x).id = x.id)
    (hr : c.releasedBy halted = f c) (st : Store) (asks : List (Fin 8)) :
    b.Released (({ b with sched := b.sched.upd id f, store := st, asks := asks } : Block).raise
      (.campaignChanged c.id c.lane c.slot (f c).state .logged c.resumePoint c.counts)) id halted := by
  have found : ∀ n, (b.sched.upd id f).find n = if n = id then (b.campaign n).map f else b.campaign n := fun n => Scheduler.find_upd_at b.sched id n hf
  refine ⟨rfl, rfl, (found id).trans ?_, fun n hn => (found n).trans (if_neg hn), ⟨[_], rfl⟩, fun d hd _ _ => ?_⟩
  · rw [if_pos rfl, hc, Option.map_some, Option.map_some, hr]
  · obtain rfl : c = d := Option.some.inj (hc.symm.trans hd)
    rw [hr]
    exact List.mem_append_right _ (List.mem_singleton.2 rfl)

theorem Block.releaseLogged_released (b : Block) (id : Nat) (halted : Bool) : b.Released (b.releaseLogged id halted) id halted := by
  unfold Block.releaseLogged
  cases hc : b.campaign id with
  | none => exact ⟨rfl, rfl, by rw [hc]; rfl, fun _ _ => rfl, ⟨[], (List.append_nil _).symm⟩, fun c h => by rw [hc] at h; cases h⟩
  | some c =>
    dsimp only
    by_cases held : c.state = .held ∧ c.heldCause = some .logFull
    · rw [if_pos held]
      cases halted with
      | true =>
        have released : c.releasedBy true = { c with heldCause := some .finding } := if_pos held
        have stays := Block.Released.of hc (f := fun x => { x with heldCause := some .finding }) (fun _ => rfl) released b.store b.asks
        rw [if_pos rfl, Block.campaignNotice_upd hc (f := fun x => { x with heldCause := some .finding }) fun _ => rfl]
        exact stays
      | false =>
        rw [if_neg Bool.false_ne_true]
        cases checked : c.trailerChecked with
        | true =>
          have released : c.releasedBy false = { c with state := .done, endCause := none, heldCause := none } := by
            rw [Campaign.releasedBy, if_pos held, if_neg Bool.false_ne_true, if_pos checked]
          rw [if_pos rfl, Block.closeCampaign_found hc]
          obtain ⟨asks, asked⟩ := Block.ask_rest (({ b with
            sched := b.sched.upd id (fun x => { x with state := .done, endCause := none, heldCause := none })
            store := b.store.unpinCampaign c.slot } : Block).raise (.campaignChanged c.id c.lane c.slot .done .logged c.resumePoint c.counts)) c.lane
          rw [asked]
          exact .of hc (f := fun x => { x with state := .done, endCause := none, heldCause := none }) (fun _ => rfl) released (b.store.unpinCampaign c.slot) asks
        | false =>
          have released : c.releasedBy false = { c with state := .waiting, heldCause := none } := by
            rw [Campaign.releasedBy, if_pos held, if_neg Bool.false_ne_true, if_neg (by rw [checked]; exact Bool.false_ne_true)]
          rw [if_neg Bool.false_ne_true, Block.releaseCampaign_found hc]
          obtain ⟨asks, asked⟩ := Block.ask_rest ((b.updCampaign id (fun x => { x with state := .waiting, heldCause := none })).raise
            (.campaignChanged c.id c.lane c.slot .waiting .logged c.resumePoint c.counts)) c.lane
          rw [asked]
          exact .of hc (f := fun x => { x with state := .waiting, heldCause := none }) (fun _ => rfl) released b.store asks
    · rw [if_neg held]
      refine ⟨rfl, rfl, ?_, fun _ _ => rfl, ⟨[], (List.append_nil _).symm⟩, fun d hd hs hf => ?_⟩
      · rw [hc]
        exact congrArg some (if_neg held).symm
      · rw [hc] at hd
        cases hd
        exact absurd ⟨hs, hf⟩ held

/-! ## One pending finding logged (R142) -/

/-- The entry that a pending finding's request created, if it made one. -/
def PendingFinding.key (p : PendingFinding) : Option EntryKey := if p.enqueued then p.finding.frame.map (fun frame => { slot := p.finding.slot, frame := frame }) else none

theorem PendingFinding.key_eq {p : PendingFinding} {key : EntryKey} (he : p.enqueued = true) (hs : p.finding.slot = key.slot) (hf : p.finding.frame = some key.frame) :
    p.key = some key := by
  rw [PendingFinding.key, if_pos he, hf, Option.map_some, hs]

/-- What logging the finding at the head of the FIFO leaves. -/
structure Block.Logs (b after : Block) (p : PendingFinding) (rest : List PendingFinding) : Prop where
  recorder : after.recorder = ({ b.recorder with pending := rest } : Recorder).append p.finding
  own      : after.campaign p.finding.campaign = (b.campaign p.finding.campaign).map (fun c => Campaign.releasedBy p.finding.halted { c with pendingFinding := false })
  others   : ∀ n, n ≠ p.finding.campaign → after.campaign n = b.campaign n
  raised   : ∃ ns, after.port.raised = b.port.raised ++ ns
  told     : ∀ c, b.campaign p.finding.campaign = some c → c.state = .held → c.heldCause = some .logFull →
    .campaignChanged c.id c.lane c.slot (Campaign.releasedBy p.finding.halted { c with pendingFinding := false }).state .logged c.resumePoint c.counts ∈ after.port.raised
  entries  : ∀ key, after.repair.find key =
    if p.key = some key then (b.repair.find key).map (Entry.giveSequence b.recorder.nextSequence) else b.repair.find key

theorem Entry.giveSequence_key (n : Nat) (e : Entry) : (e.giveSequence n).key = e.key := by
  unfold Entry.giveSequence
  split <;> rfl

theorem Entry.giveSequence_other {n : Nat} {e : Entry} (h : e.awaits ≠ some n) : e.giveSequence n = e := if_neg h

/-- The number goes to the entries of the finding's frame alone (R152). -/
theorem Block.giveSequence_find (b : Block) (p : PendingFinding) (n : Nat) (key : EntryKey) :
    (if p.enqueued then b.giveSequence p.finding n else b).repair.find key =
      if p.key = some key then (b.repair.find key).map (Entry.giveSequence n) else b.repair.find key := by
  unfold PendingFinding.key Block.giveSequence
  cases p.enqueued with
  | false => rfl
  | true =>
    cases p.finding.frame with
    | none => rfl
    | some frame =>
      simp only [if_true, Option.map_some, Option.some.injEq]
      by_cases h : (⟨p.finding.slot, frame⟩ : EntryKey) = key
      · subst h
        rw [if_pos rfl]
        exact RepairEngine.find_upd _ _ _ (Entry.giveSequence_key n)
      · rw [if_neg h]
        exact RepairEngine.find_upd_ne _ (Ne.symm h) (Entry.giveSequence_key n)

theorem Block.giveSequence_rest (b : Block) (f : Finding) (n : Nat) : ∃ repair, b.giveSequence f n = { b with repair := repair } := by
  unfold Block.giveSequence
  split
  · exact ⟨_, rfl⟩
  · exact ⟨_, rfl⟩

theorem Block.logPending_logs (b : Block) (p : PendingFinding) (rest : List PendingFinding) : b.Logs (b.logPending p rest) p rest := by
  obtain ⟨given, given_eq, entries⟩ : ∃ given : Block, (if p.enqueued then
      ({ b with recorder := ({ b.recorder with pending := rest } : Recorder).append p.finding } : Block).giveSequence p.finding b.recorder.nextSequence
      else { b with recorder := ({ b.recorder with pending := rest } : Recorder).append p.finding }) = given ∧
      ∀ key, given.repair.find key = if p.key = some key then (b.repair.find key).map (Entry.giveSequence b.recorder.nextSequence) else b.repair.find key :=
    ⟨_, rfl, Block.giveSequence_find _ p _⟩
  obtain ⟨repair, rest_eq⟩ : ∃ repair, given = { b with recorder := ({ b.recorder with pending := rest } : Recorder).append p.finding, repair := repair } := by
    rw [← given_eq]
    split
    · exact Block.giveSequence_rest _ p.finding _
    · exact ⟨_, rfl⟩
  have known : ∀ n, (given.updCampaign p.finding.campaign (fun c => { c with pendingFinding := false })).campaign n =
      if n = p.finding.campaign then (b.campaign n).map (fun c => { c with pendingFinding := false }) else b.campaign n := fun n => by
    rw [Block.campaign_updCampaign _ _ _ _ fun _ => by rfl, rest_eq]
    rfl
  have released := (given.updCampaign p.finding.campaign (fun c => { c with pendingFinding := false })).releaseLogged_released p.finding.campaign p.finding.halted
  have logs : b.logPending p rest = (given.updCampaign p.finding.campaign (fun c => { c with pendingFinding := false })).releaseLogged p.finding.campaign p.finding.halted := by
    rw [← given_eq]
    rfl
  rw [logs]
  refine ⟨released.recorder.trans (by rw [rest_eq]; rfl), released.own.trans ?_, fun n hn => (released.others n hn).trans ((known n).trans (if_neg hn)), ?_, fun c hc hs hf => ?_,
    fun key => (congrArg (fun r : RepairEngine => r.find key) released.repair).trans (entries key)⟩
  · rw [known, if_pos rfl, Option.map_map]
    rfl
  · obtain ⟨ns, raised⟩ := released.raised
    exact ⟨ns, raised.trans (by rw [rest_eq]; rfl)⟩
  · have found : (given.updCampaign p.finding.campaign (fun c => { c with pendingFinding := false })).campaign p.finding.campaign = some { c with pendingFinding := false } := by
      rw [known, if_pos rfl, hc]
      rfl
    exact released.told _ found hs hf

/-! ## Findings logged one after the other (R142) -/

/-- The findings `ps`, from the head of the FIFO, are logged in their order, with room and a number for each. -/
inductive Block.Drains : Block → List PendingFinding → Block → Prop
  | stop (b : Block) : Block.Drains b [] b
  | next {b after : Block} {p : PendingFinding} {rest ps : List PendingFinding} (head : b.recorder.pending = p :: rest) (room : b.recorder.canAppend = true)
      (tail : Block.Drains (b.logPending p rest) ps after) : Block.Drains b (p :: ps) after

theorem Block.logPending_pending (b : Block) (p : PendingFinding) (rest : List PendingFinding) : (b.logPending p rest).recorder.pending = rest := by
  rw [(b.logPending_logs p rest).recorder]
  rfl

theorem Block.logPending_nextSequence (b : Block) (p : PendingFinding) (rest : List PendingFinding) :
    (b.logPending p rest).recorder.nextSequence = b.recorder.nextSequence + 1 := by
  rw [(b.logPending_logs p rest).recorder]
  rfl

/-- The draining goes on until no finding is pending or there is neither room nor number. -/
theorem Block.drainPending_drains : ∀ (n : Nat) (b : Block), b.recorder.pending.length = n →
    ∃ ps, b.Drains ps (b.drainPending n) ∧ ((b.drainPending n).recorder.pending ≠ [] → (b.drainPending n).recorder.canAppend = false)
  | 0, b, h => ⟨[], .stop b, fun hn => absurd (List.length_eq_zero_iff.1 h) hn⟩
  | n + 1, b, h => by
    unfold Block.drainPending
    cases hp : b.recorder.pending with
    | nil => rw [hp] at h; cases h
    | cons p rest =>
      dsimp only
      cases room : b.recorder.canAppend with
      | false =>
        rw [if_neg Bool.false_ne_true]
        exact ⟨[], .stop b, fun _ => room⟩
      | true =>
        rw [if_pos rfl]
        have left : (b.logPending p rest).recorder.pending.length = n := by
          rw [Block.logPending_pending]
          rw [hp] at h
          exact Nat.succ.inj h
        obtain ⟨ps, drains, stops⟩ := Block.drainPending_drains n _ left
        exact ⟨p :: ps, .next hp room drains, stops⟩

section
variable {b after : Block} {ps : List PendingFinding} (h : b.Drains ps after)
include h

/-- Of the Recorder, the log, the FIFO and the counter change. -/
theorem Block.Drains.recorder : b.recorder.pending = ps ++ after.recorder.pending ∧ after.recorder.nextSequence = b.recorder.nextSequence + ps.length ∧
    after.recorder.flags = b.recorder.flags ∧ after.recorder.profiles = b.recorder.profiles := by
  induction h with
  | stop b => exact ⟨rfl, rfl, rfl, rfl⟩
  | @next b after p rest ps head room tail ih =>
    have logs := (b.logPending_logs p rest).recorder
    obtain ⟨pending, sequence, flags, profiles⟩ := ih
    rw [Block.logPending_pending] at pending
    rw [Block.logPending_nextSequence] at sequence
    rw [logs] at flags profiles
    exact ⟨by rw [head, pending]; rfl, sequence.trans (by rw [List.length_cons]; omega), flags, profiles⟩

/-- The campaign of no finding logged stays. -/
theorem Block.Drains.campaign_other {id : Nat} (hi : ∀ p ∈ ps, p.finding.campaign ≠ id) : after.campaign id = b.campaign id := by
  induction h with
  | stop b => rfl
  | @next b after p rest ps head room tail ih =>
    rw [ih fun q hq => hi q (List.mem_cons_of_mem p hq)]
    exact (b.logPending_logs p rest).others id (Ne.symm (hi p List.mem_cons_self))

theorem Block.Drains.raised : ∃ ns, after.port.raised = b.port.raised ++ ns := by
  induction h with
  | stop b => exact ⟨[], (List.append_nil _).symm⟩
  | @next b after p rest ps head room tail ih =>
    obtain ⟨ns, first⟩ := (b.logPending_logs p rest).raised
    obtain ⟨ms, more⟩ := ih
    exact ⟨ns ++ ms, by rw [more, first, List.append_assoc]⟩

/-- The campaign of one finding logged has no pending finding any more, and is released by it (R116). -/
theorem Block.Drains.campaign_own {c : Campaign} {p : PendingFinding} (hp : ps.filter (fun q => q.finding.campaign == c.id) = [p]) (hc : b.campaign c.id = some c) :
    after.campaign c.id = some (Campaign.releasedBy p.finding.halted { c with pendingFinding := false }) ∧
      (c.state = .held → c.heldCause = some .logFull →
        .campaignChanged c.id c.lane c.slot (Campaign.releasedBy p.finding.halted { c with pendingFinding := false }).state .logged c.resumePoint c.counts ∈ after.port.raised) := by
  induction h with
  | stop b => cases hp
  | @next b after q rest ps head room tail ih =>
    have logs := b.logPending_logs q rest
    by_cases hq : q.finding.campaign = c.id
    · rw [List.filter_cons_of_pos (by simpa using hq)] at hp
      obtain ⟨rfl, alone⟩ := List.cons.inj hp
      have others : ∀ x ∈ ps, x.finding.campaign ≠ c.id := fun x hx => by simpa using List.filter_eq_nil_iff.1 alone x hx
      refine ⟨?_, fun hs hf => ?_⟩
      · rw [tail.campaign_other others, ← hq, logs.own, hq, hc]
        rfl
      · obtain ⟨ns, raised⟩ := tail.raised
        rw [raised]
        exact List.mem_append_left _ (logs.told c (by rw [hq]; exact hc) hs hf)
    · rw [List.filter_cons_of_neg (by simpa using hq)] at hp
      exact ih hp ((logs.others c.id (Ne.symm hq)).trans hc)

/-! ## The entries (R152) -/

/-- An entry that awaits no number assigned stays. -/
theorem Block.Drains.entry_other {key : EntryKey} {e : Entry} (he : b.repair.find key = some e)
    (ha : ∀ i, i < ps.length → e.awaits ≠ some (b.recorder.nextSequence + i)) : after.repair.find key = some e := by
  induction h with
  | stop b => exact he
  | @next b after p rest ps head room tail ih =>
    have now : e.awaits ≠ some b.recorder.nextSequence := ha 0 (Nat.succ_pos _)
    refine ih ?_ fun i hi => ?_
    · rw [(b.logPending_logs p rest).entries, he, Option.map_some, Entry.giveSequence_other now, ite_self]
    · rw [Block.logPending_nextSequence, Nat.add_assoc, Nat.add_comm 1]
      exact ha (i + 1) (Nat.succ_lt_succ hi)

/-- The entry that awaits the number of the finding that created it takes it. -/
theorem Block.Drains.entry_own {key : EntryKey} {e : Entry} (he : b.repair.find key = some e) (hs : e.sequence = none) {i : Nat} {p : PendingFinding}
    (hp : ps[i]? = some p) (hk : p.key = some key) (ha : e.awaits = some (b.recorder.nextSequence + i)) :
    after.repair.find key = some { e with sequence := some (b.recorder.nextSequence + i), awaits := none } := by
  induction h generalizing i with
  | stop b => cases hp
  | @next b after q rest ps head room tail ih =>
    have entries := (b.logPending_logs q rest).entries key
    cases i with
    | zero =>
      obtain rfl : q = p := Option.some.inj hp
      have now : e.awaits = some b.recorder.nextSequence := ha
      have given : e.giveSequence b.recorder.nextSequence = { e with sequence := some b.recorder.nextSequence, awaits := none } := by
        rw [Entry.giveSequence, if_pos now, hs]
        rfl
      rw [if_pos hk, he, Option.map_some, given] at entries
      exact tail.entry_other entries fun _ _ => Option.some_ne_none _ |>.symm
    | succ i =>
      have later : e.awaits ≠ some b.recorder.nextSequence := by
        rw [ha]
        intro same
        have := Option.some.inj same
        omega
      rw [he, Option.map_some, Entry.giveSequence_other later, ite_self] at entries
      have next : (b.logPending q rest).recorder.nextSequence + i = b.recorder.nextSequence + (i + 1) := by
        rw [Block.logPending_nextSequence]
        omega
      rw [← next] at ha ⊢
      exact ih entries hp ha

end

/-! ## The log (R140) -/

/-- The findings as they are logged from a number on. -/
def PendingFinding.logged (n : Nat) (ps : List PendingFinding) : List Finding :=
  ps.zipIdx.map (fun p => { p.1.finding with sequence := some (n + p.2), acknowledged := false })

theorem PendingFinding.logged_cons (n : Nat) (p : PendingFinding) (ps : List PendingFinding) :
    PendingFinding.logged n (p :: ps) = { p.finding with sequence := some n, acknowledged := false } :: PendingFinding.logged (n + 1) ps := by
  unfold PendingFinding.logged
  rw [List.zipIdx_cons', List.map_cons, List.map_map]
  refine congrArg (List.cons _) (List.map_congr_left fun q _ => ?_)
  simp only [Function.comp, Prod.map, id, Nat.add_assoc, Nat.add_comm 1]

/-- What the older findings of a log have become: only acknowledged ones have left, and those as the log's 256 places asked. -/
structure KeptOlder (log kept : List Finding) (new : Nat) : Prop where
  sublist : kept.Sublist log
  unread  : ∀ f ∈ log, f.acknowledged = false → f ∈ kept
  length  : log.length ≤ 256 → kept.length = min log.length (256 - new)

/-- Behind the findings that a full log loses, the log ends in those logged before, none of them acknowledged, and the one logged now. -/
theorem Recorder.append_log {r : Recorder} (room : r.canAppend = true) {older new : List Finding} (hl : r.log = older ++ new) (hn : ∀ f ∈ new, f.acknowledged = false)
    (f : Finding) : ∃ kept, (r.append f).log = kept ++ (new ++ [{ f with sequence := some r.nextSequence, acknowledged := false }]) ∧ kept.Sublist older ∧
      (∀ g ∈ older, g.acknowledged = false → g ∈ kept) ∧ (r.log.length < 256 → kept.length = older.length) ∧ (256 ≤ r.log.length → kept.length + 1 = older.length) := by
  unfold Recorder.append
  dsimp only
  by_cases full : r.log.length < 256
  · rw [if_pos full, hl, List.append_assoc]
    exact ⟨older, rfl, .refl older, fun _ hg _ => hg, fun _ => rfl, fun hf => absurd full (Nat.not_lt.2 (hl ▸ hf))⟩
  · have acknowledged : ∃ g ∈ older, g.acknowledged = true := by
      simp only [Recorder.canAppend, Recorder.hasRoom, Bool.and_eq_true, Bool.or_eq_true, decide_eq_true_eq, List.any_eq_true] at room
      obtain ⟨g, hg, ha⟩ := room.1.resolve_left full
      rw [hl, List.mem_append] at hg
      exact ⟨g, hg.resolve_right fun h => Bool.false_ne_true ((hn g h).symm.trans ha), ha⟩
    obtain ⟨g, hg, ha⟩ := acknowledged
    rw [if_neg full, hl, List.eraseP_append_left ha new hg, List.append_assoc]
    refine ⟨older.eraseP Finding.acknowledged, rfl, List.eraseP_sublist, fun x hx hu => ?_, fun hf => absurd (hl ▸ hf) full, fun _ => ?_⟩
    · exact (List.mem_eraseP_of_neg (by rw [hu]; exact Bool.false_ne_true)).2 hx
    · have := List.length_eraseP_of_mem hg ha
      have := List.length_pos_of_mem hg
      omega

/-- The log when findings have been logged behind others that are not acknowledged. -/
theorem Block.Drains.log_behind {b after : Block} {ps : List PendingFinding} (h : b.Drains ps after) {older new : List Finding} (hl : b.recorder.log = older ++ new)
    (hn : ∀ f ∈ new, f.acknowledged = false) : ∃ kept, after.recorder.log = kept ++ (new ++ PendingFinding.logged b.recorder.nextSequence ps) ∧ kept.Sublist older ∧
      (∀ g ∈ older, g.acknowledged = false → g ∈ kept) ∧
      (b.recorder.log.length ≤ 256 → kept.length = min older.length (256 - (new.length + ps.length))) := by
  induction h generalizing older new with
  | stop b =>
    refine ⟨older, by rw [hl]; simp [PendingFinding.logged], .refl older, fun _ hg _ => hg, fun hs => ?_⟩
    rw [hl, List.length_append] at hs
    rw [List.length_nil]
    omega
  | @next b after p rest ps head room tail ih =>
    obtain ⟨kept, log, sub, unread, fits, full⟩ := Recorder.append_log (r := { b.recorder with pending := rest }) room hl hn p.finding
    rw [← (b.logPending_logs p rest).recorder] at log
    have unacknowledged : ∀ f ∈ new ++ [{ p.finding with sequence := some b.recorder.nextSequence, acknowledged := false }], f.acknowledged = false := by
      intro f hf
      rcases List.mem_append.1 hf with hf | hf
      · exact hn f hf
      · rw [List.mem_singleton.1 hf]
    obtain ⟨kept', log', sub', unread', length⟩ := ih log unacknowledged
    refine ⟨kept', ?_, sub'.trans sub, fun g hg hu => unread' g (unread g hg hu) hu, fun hs => ?_⟩
    · rw [log', Block.logPending_nextSequence, PendingFinding.logged_cons, List.append_assoc new]
      rfl
    · have total := congrArg List.length log
      have before := congrArg List.length hl
      simp only [List.length_append, List.length_cons, List.length_nil] at total before length ⊢
      dsimp only at fits full
      rcases Nat.lt_or_ge b.recorder.log.length 256 with small | large
      · have := fits small
        have := length (by omega)
        omega
      · have := full large
        have := length (by omega)
        omega

/-! ## ACKNOWLEDGE (R142, R143) -/

/-- One LOG_ADVANCED follows when findings have been logged (R143). -/
def Block.advanced (b : Block) (logged : Nat) : Block := if logged = 0 then b else b.raise (.logAdvanced b.recorder.lastSequence)

theorem Block.advanced_rest (b : Block) (logged : Nat) : (b.advanced logged).recorder = b.recorder ∧ (b.advanced logged).repair = b.repair ∧
    (b.advanced logged).sched = b.sched ∧ ∃ ns, (b.advanced logged).port.raised = b.port.raised ++ ns := by
  unfold Block.advanced
  split
  · exact ⟨rfl, rfl, rfl, [], (List.append_nil _).symm⟩
  · exact ⟨rfl, rfl, rfl, [_], rfl⟩

theorem Block.acknowledge_range {b : Block} {body : List Byte} (h : fieldAt body 0 4 = 0 ∨ b.recorder.nextSequence ≤ fieldAt body 0 4) :
    b.acknowledge body = b.refuse .range := by
  have unassigned : fieldAt body 0 4 = 0 ∨ b.recorder.lastSequence < fieldAt body 0 4 := by
    unfold Recorder.lastSequence
    omega
  exact if_pos unassigned

/-- ACKNOWLEDGE of a number assigned: the marks, the pending findings drained, and the counts of its reply. -/
theorem Block.acknowledge_taken {b : Block} {body : List Byte} (h1 : 1 ≤ fieldAt body 0 4) (h2 : fieldAt body 0 4 < b.recorder.nextSequence) :
    ∃ ps after, ({ b with recorder := b.recorder.mark (fieldAt body 0 4) } : Block).Drains ps after ∧
      (after.recorder.pending ≠ [] → after.recorder.canAppend = false) ∧
      b.acknowledge body = Block.done (after.advanced ps.length) (beBytes 2 (b.recorder.newlyMarked (fieldAt body 0 4)) ++ beBytes 1 ps.length ++
        beBytes 1 after.recorder.pending.length ++ beBytes 4 (after.recorder.nextSequence - 1)) := by
  obtain ⟨ps, drains, stops⟩ := Block.drainPending_drains _ ({ b with recorder := b.recorder.mark (fieldAt body 0 4) } : Block) rfl
  have assigned : ¬(fieldAt body 0 4 = 0 ∨ b.recorder.lastSequence < fieldAt body 0 4) := by
    unfold Recorder.lastSequence
    omega
  obtain ⟨pending, -⟩ := drains.recorder
  have logged := congrArg List.length pending
  rw [List.length_append] at logged
  refine ⟨ps, _, drains, stops, ?_⟩
  have count : b.recorder.pending.length - (({ b with recorder := b.recorder.mark (fieldAt body 0 4) } : Block).drainPending b.recorder.pending.length).recorder.pending.length =
      ps.length := Nat.sub_eq_of_eq_add logged
  unfold Block.acknowledge
  rw [if_neg assigned]
  dsimp only
  rw [count]
  unfold Block.advanced
  split <;> rfl

/-- Settles O52: the refusal, an ACKNOWLEDGE with nothing pending, and one that drains the pending findings. -/
theorem acknowledgeMarks : Obligations.AcknowledgeMarks := by
  intro s tag body h n r marked newly
  refine ⟨fun hr => State.request_refused h (Block.acknowledge_range hr), fun h1 h2 hp => ?nonePending, fun h1 h2 => ?drained⟩
  case nonePending =>
    obtain ⟨ps, after, drains, -, owner⟩ := Block.acknowledge_taken (b := s.blk) h1 h2
    obtain ⟨pending, -⟩ := drains.recorder
    obtain ⟨rfl, -⟩ := List.append_eq_nil_iff.1 (pending.symm.trans hp)
    cases drains
    rw [show ({ s.blk with recorder := s.blk.recorder.mark (fieldAt body 0 4) } : Block).recorder.pending = [] from hp] at owner
    refine (State.request_replied h owner h.quiet rfl).trans ?_
    rw [List.append_assoc (beBytes 2 _)]
    rfl
  case drained =>
    obtain ⟨ps, after, drains, stops, owner⟩ := Block.acknowledge_taken (b := s.blk) h1 h2
    obtain ⟨pending, sequence, flags, profiles⟩ := drains.recorder
    obtain ⟨recorder, repair, sched, ns, raised⟩ := after.advanced_rest ps.length
    obtain ⟨kept, log, sub, unread, length⟩ := drains.log_behind (older := marked.log) (new := []) (List.append_nil _).symm fun _ hf => absurd hf List.not_mem_nil
    have pending : r.pending = ps ++ after.recorder.pending := pending
    have taken : r.pending.take ps.length = ps := by rw [pending, List.take_left]
    have left : r.pending.drop ps.length = after.recorder.pending := by rw [pending, List.drop_left]
    have waiting : r.pending.length - ps.length = after.recorder.pending.length := by rw [pending, List.length_append, Nat.add_sub_cancel_left]
    have campaign : ∀ id, (after.advanced ps.length).campaign id = after.campaign id := fun id => by unfold Block.campaign; rw [sched]
    refine ⟨after.advanced ps.length, ps.length, ?_, ?_, ?_, ?_, fun hl => ?_, ?_, ?_, ⟨kept, sub, unread, fun hs => ?_, ?_⟩, fun id hi => ?_, fun p c hp hc => ?_,
      fun key e he => ⟨fun ha => ?_, fun i p hi hp hq hs hf ha hn => ?_⟩, fun hz => ?_, fun hz => ?_⟩
    · rw [recorder, waiting]
      exact (State.request_takes h _).trans (by rw [owner]; rfl)
    · rw [pending, List.length_append]
      exact Nat.le_add_right _ _
    · rw [recorder, left]
    · rw [recorder]
      exact sequence
    · rw [recorder]
      exact stops (List.length_pos_iff.1 (by omega))
    · rw [recorder]
      exact flags
    · rw [recorder]
      exact profiles
    · have size : marked.log.length = r.log.length := List.length_map _
      have := length (size.trans_le hs)
      rw [List.length_nil, Nat.zero_add, size] at this
      exact this
    · rw [recorder, taken]
      exact log
    · rw [campaign]
      exact drains.campaign_other (taken ▸ hi)
    · rw [taken] at hp
      obtain ⟨own, told⟩ := drains.campaign_own hp hc
      refine ⟨(campaign c.id).trans own, fun ⟨hs, hf⟩ => ?_⟩
      rw [raised]
      refine List.mem_append_left _ ?_
      have notice := told hs hf
      rw [Campaign.releasedBy, if_pos ⟨hs, hf⟩] at notice
      exact notice
    · rw [repair]
      exact drains.entry_other he ha
    · rw [repair]
      have own : ps[i]? = some p := by
        rw [← taken, List.getElem?_take_of_lt hi]
        exact hp
      exact drains.entry_own he hn own (PendingFinding.key_eq hq hs hf) ha
    · obtain rfl : ps = [] := List.length_eq_zero_iff.1 hz
      cases drains
      exact h.told
    · unfold Block.advanced
      rw [if_neg (Nat.pos_iff_ne_zero.1 hz)]
      exact List.getLast?_concat

end Sys2Proof.Machine
end

section
/-! SUPPORT. Changes of permission (R57, R114, R174, R180, R181, R190) and of duty mode (R182 to R188): what the owners of what is lost do, which arbiters are asked, the lanes that HOLD
leaves READY and the lanes that settle again on waking. -/
namespace Sys2Proof.Machine

/-! ## Permissions (R180) -/

theorem Duty.mayRun_eq (d : Duty) (l : Fin 8) : d.mayRun l = (d.mode == .full || (d.mode == .shared && d.eligible[l])) := by
  unfold Duty.mayRun
  cases d.mode <;> rfl

theorem Duty.permits_eq (d : Duty) (source damaged : Fin 8) :
    d.permits source damaged = (d.mode == .full || (d.mode == .shared && d.repairsInShared && d.eligible[source] && d.eligible[damaged])) := by
  unfold Duty.permits
  cases d.mode <;> rfl

/-- What may run and what may be repaired follows from the fields that no lane's move changes. -/
theorem Duty.fixed_permissions {d e : Duty} (h : d.fixed = e.fixed) : d.mode = e.mode ∧ (∀ l, d.mayRun l = e.mayRun l) ∧
    ∀ source damaged, d.permits source damaged = e.permits source damaged := by
  obtain ⟨mode, -, -, -, eligible, repairs⟩ : d.mode = e.mode ∧ d.wake = e.wake ∧ d.holdTimer = e.holdTimer ∧ d.share = e.share ∧ d.eligible = e.eligible ∧
      d.repairsInShared = e.repairsInShared := by simpa [Duty.fixed] using h
  exact ⟨mode, fun l => by rw [Duty.mayRun_eq, Duty.mayRun_eq, mode, eligible], fun source damaged => by rw [Duty.permits_eq, Duty.permits_eq, mode, eligible, repairs]⟩

/-! ## A change of permission (R181) -/

/-- The owners of what is lost have acted: the lanes in rising order, then the entries in list order. -/
def Block.ownersTold (b : Block) (before : Duty) : Block :=
  (b.losingEntries before).foldl Block.entryLoses ((b.losingLanes before).foldl Block.laneLoses b)

theorem Block.ownersTold_inner (b : Block) (before : Duty) : Inner b (b.ownersTold before) :=
  Inner.foldl (fun _ k h => h.entryLoses k) _ (Inner.foldl (fun _ l h => h.laneLoses l) _ (Inner.refl b))

/-- The lanes whose arbiters a change of permission asks. -/
def Block.askedLanes (b : Block) (before : Duty) : List (Fin 8) := allLanes.filter (fun l => (b.ownersTold before).concerned before l)

theorem Block.permissionChange_eq (b : Block) (before : Duty) :
    b.permissionChange before = ((((b.askedLanes before).foldl Block.ask (b.ownersTold before))).regateAll before).startPass := rfl

theorem Block.mem_askedLanes {b : Block} {before : Duty} {l : Fin 8} : l ∈ b.askedLanes before ↔
    before.mode ≠ b.duty.mode ∨ (before.mayRun l = false ∧ b.duty.mayRun l = true) ∨
      ∃ e ∈ (b.ownersTold before).repair.list, before.permits e.source e.damaged = false ∧ (b.ownersTold before).pendingLane e = some l := by
  obtain ⟨mode, mayRun, -⟩ := Duty.fixed_permissions (b.ownersTold_inner before).duty
  unfold Block.askedLanes
  rw [List.mem_filter, Block.concerned, mode, mayRun]
  simp [mem_allLanes, or_assoc]

/-! ## The head campaign of a lane that loses leave (R114) -/

theorem Exchange.isFrame_iff (x : Exchange) : x.isFrame = true ↔ ∃ f, x = .frame f := by
  cases x <;> simp [Exchange.isFrame]

theorem Exchange.openVisit_of_not_frame {x : Exchange} (h : x.isFrame = false) : x.openVisit = none := by
  cases x with
  | frame f => cases h
  | idle => rfl
  | opening => rfl
  | closing => rfl
  | rewrite frame endSent => rfl
  | calibration length bytes => rfl

/-- A campaign that ends its session with no visit open ends it through the lane alone (R56). -/
theorem Block.campaignEndsSession_unvisited {b : Block} {c : Campaign} (ho : (b.lane c.lane).owner = some (.campaign c.id))
    (hv : (b.lane c.lane).exchange.openVisit = none) : b.campaignEndsSession c = b.endOwner c.lane := by
  unfold Block.campaignEndsSession
  unfold Lane.owner at ho
  cases hs : (b.lane c.lane).session with
  | none => rw [hs] at ho; cases ho
  | some x =>
    rw [hs] at ho
    dsimp only
    rw [if_pos (Option.some.inj ho), hv]
    cases (b.lane c.lane).campaignItem <;> rfl

section
variable {b : Block} {l : Fin 8} {c : Campaign} (hh : b.sched.head l = some c)
include hh

theorem Block.laneLoses_stops (h : (∃ f, c.state = .running ∧ (b.lane l).exchange = .frame f) ∨ c.state = .opening) : b.laneLoses l = b.stopItem l := by
  unfold Block.laneLoses
  rw [hh]
  dsimp only
  rcases h with ⟨f, hs, hx⟩ | hs
  · rw [hs]
    exact if_pos ((Exchange.isFrame_iff _).2 ⟨f, hx⟩)
  · rw [hs]

theorem Block.laneLoses_ends (hs : c.state = .running) (hx : ∀ f, (b.lane l).exchange ≠ .frame f) (ho : (b.lane l).owner = some (.campaign c.id)) :
    b.laneLoses l = (b.endOwner l).updCampaign c.id (fun x => { x with state := .waiting }) := by
  obtain ⟨lane, -⟩ := Scheduler.head_active hh
  have noFrame : (b.lane l).exchange.isFrame = false := Bool.eq_false_iff.2 fun h => by
    obtain ⟨f, hf⟩ := (Exchange.isFrame_iff _).1 h
    exact hx f hf
  have ended := Block.campaignEndsSession_unvisited (b := b) (c := c) (by rw [lane]; exact ho) (by rw [lane]; exact Exchange.openVisit_of_not_frame noFrame)
  rw [lane] at ended
  unfold Block.laneLoses
  rw [hh]
  dsimp only
  rw [hs]
  dsimp only
  rw [noFrame, if_neg Bool.false_ne_true, ended]

theorem Block.laneLoses_stays (hr : c.state ≠ .running) (ho : c.state ≠ .opening) : b.laneLoses l = b := by
  unfold Block.laneLoses
  rw [hh]
  dsimp only
  cases hs : c.state with
  | running => exact absurd hs hr
  | opening => exact absurd hs ho
  | waiting => rfl
  | closing => rfl
  | yielded => rfl
  | held => rfl
  | done => rfl
  | ended => rfl

end

/-! ## An entry that loses permission (R174) -/

theorem Block.entryLoses_found {b : Block} {k : EntryKey} {e : Entry} (he : b.repair.find k = some e) : b.entryLoses k = match e.stepLane with
    | none => if e.phase = .fetching then b.entryToWaiting k else b
    | some l => if (b.lane l).exchange = .idle then (b.endOwner l).stepEnded k .idle .duty else b.stopItem l := by
  unfold Block.entryLoses
  rw [he] <;> rfl

/-! ## An item stopped, at its answer (R114) -/

/-- The session ended and the lane READY, with the head campaign back in WAITING. -/
theorem Block.itemStopped_spec (b : Block) (l : Fin 8) : let t := ((b.haltSession l).headTo l .waiting).toReady l
    t.lane l = { b.lane l with
      state := .ready, item := none, session := none, sent := (b.lane l).sent ++ ((b.lane l).session.map (fun x => SentUnit.halt x.number)).toList } ∧ l ∈ t.asks ∧
    ∀ c, b.sched.head l = some c → b.campaign c.id = some c →
      t.campaign c.id = some (if c.state = .opening ∨ c.state = .running ∨ c.state = .closing then { c with state := .waiting } else c) := by
  intro t
  obtain ⟨asks, ready, asked⟩ := ((b.haltSession l).headTo l .waiting).toReady_rest l
  have lane := b.madeWay_lane l
  have sched := b.haltSession_sched l
  refine ⟨?_, ?_, fun c hh hc => ?_⟩
  · show (Block.toReady _ l).lane l = _
    rw [Block.toReady, Block.ask_lane, Block.lane_updLane_self, show ((b.haltSession l).headTo l .waiting).lane l = _ from lane, Block.haltSession_lane]
  · show l ∈ (Block.toReady _ l).asks
    rw [ready]
    exact asked
  · obtain ⟨own, -⟩ := (b.haltSession l).headTo_campaign l .waiting c (by rw [sched]; exact hh) (by unfold Block.campaign; rw [sched]; exact hc)
    show (Block.toReady _ l).campaign c.id = _
    rw [ready]
    exact own

/-! ## The gates computed again (R190) -/

/-- An ask drops no other ask. -/
theorem Block.asks_subset_ask {b : Block} {j : Fin 8} (h : j ∈ b.asks) (l : Fin 8) :
    j ∈ (b.ask l).asks := by
  rw [Block.ask_asks]
  split
  · exact h
  · exact List.mem_append_left _ h

theorem Block.regate_asks (b : Block) (l j : Fin 8) (h : j ∈ b.asks) : j ∈ (b.regate l).asks := by
  unfold Block.regate
  split
  · split
    · dsimp only
      split
      · exact Block.asks_subset_ask (b := b.updLane l _) h l
      · exact h
    · exact h
  · exact h

theorem Block.regateAll_lane (b : Block) (before : Duty) (l : Fin 8) : ∃ gate, (b.regateAll before).lane l = { b.lane l with gate := gate } := by
  obtain ⟨-, each⟩ := foldl_lanes (g := fun acc l => acc.regateIfChanged l (before.effectiveCeiling l (acc.lane l).settings.ceiling)) (I := fun _ => True)
    (R := fun _ ln ln' => ∃ gate, ln' = { ln with gate := gate }) (fun _ _ _ => trivial) (fun c l j _ hj => (c.regateIfChanged_lane l _).2 j hj)
    (fun c l _ => (c.regateIfChanged_lane l _).1) allLanes b allLanes_nodup trivial
  exact (each l).2 (mem_allLanes l)

theorem Block.regateAll_asks (b : Block) (before : Duty) (j : Fin 8) (h : j ∈ b.asks) : j ∈ (b.regateAll before).asks := by
  refine List.foldlRecOn (motive := fun c : Block => j ∈ c.asks) allLanes _ h fun c hc l _ => ?_
  unfold Block.regateIfChanged
  split
  · exact hc
  · exact c.regate_asks l j hc

theorem Block.mem_foldl_ask (j : Fin 8) : ∀ (ls : List (Fin 8)) (b : Block), j ∈ b.asks ∨ j ∈ ls → j ∈ (ls.foldl Block.ask b).asks
  | [], _, h => h.resolve_right List.not_mem_nil
  | l :: ls, b, h => by
    refine Block.mem_foldl_ask j ls (b.ask l) ?_
    rcases h with h | h
    · exact .inl (Block.asks_subset_ask h l)
    · rcases List.mem_cons.1 h with rfl | h
      · exact .inl (b.mem_ask j)
      · exact .inr h

/-! ## The lanes that HOLD leaves READY (R182, R184) -/

/-- In HELD, the arbiter of every READY lane with no item and without keep-alive is still to be asked. -/
structure Block.HeldAsked (b : Block) : Prop where
  held  : b.duty.mode = .held
  asked : ∀ l, (b.lane l).idleUnkept → l ∈ b.asks

/-- A move that leaves a lane's state, item and keep-alive, or asks its arbiter, and drops no other ask. -/
theorem Block.HeldAsked.move {b c : Block} (h : b.HeldAsked) (mode : c.duty.mode = b.duty.mode) (asks : ∀ l ∈ b.asks, l ∈ c.asks)
    (lanes : ∀ l, l ∈ c.asks ∨ ((c.lane l).idleUnkept → (b.lane l).idleUnkept)) : c.HeldAsked :=
  ⟨mode.trans h.held, fun l hl => (lanes l).elim id fun same => asks l (h.asked l (same hl))⟩

/-- A change of one lane that leaves its state, item and settings. -/
theorem Block.HeldAsked.updLane {b : Block} (h : b.HeldAsked) (l : Fin 8) {f : Lane → Lane} (hf : ∀ ln : Lane, (f ln).idleUnkept → ln.idleUnkept) : (b.updLane l f).HeldAsked :=
  h.move rfl (fun _ hj => hj) fun j => .inr (by
    rw [Block.lane_updLane]
    split
    · next e => subst e; exact hf _
    · exact id)

theorem Block.HeldAsked.fetch {b : Block} (h : b.HeldAsked) (l : Fin 8) (frame : Nat) : (b.fetch l frame).HeldAsked := by
  rw [Block.fetch_eq]
  exact h.updLane l fun _ hl => hl

theorem Block.HeldAsked.campaignGranted {b : Block} (h : b.HeldAsked) (c : Claim) (id : Nat) : (b.campaignGranted c id).HeldAsked := by
  unfold Block.campaignGranted
  split
  · have marked : (b.updStore (fun st => st.markVisiting c.slot c.frame)).HeldAsked := ⟨h.held, h.asked⟩
    exact (marked.updLane c.lane (f := fun ln => { ln with pacing := some { fetchAt := b.clock, ended := ln.pacing.bind Pacing.ended } }) fun _ hl => hl).fetch c.lane c.frame
  · dsimp only
    split
    · obtain ⟨asks, ready, asked⟩ := ((b.updPool (fun p => p.release c.lane)).updCampaign id Campaign.skip).toReady_rest c.lane
      have kept : ∀ l ∈ b.asks, l ∈ (((b.updPool (fun p => p.release c.lane)).updCampaign id Campaign.skip).toReady c.lane).asks := fun l hl =>
        Block.asks_subset_ask (b := ((b.updPool (fun p => p.release c.lane)).updCampaign id Campaign.skip).updLane c.lane _) hl c.lane
      rw [ready] at kept ⊢
      refine h.move rfl kept fun l => ?_
      by_cases e : l = c.lane
      · subst e
        exact .inl asked
      · exact .inr fun hl => by
          have same := Block.lane_updLane_ne ((b.updPool (fun p => p.release c.lane)).updCampaign id Campaign.skip) (fun ln => { ln with state := .ready, item := none }) e
          exact same ▸ hl
    · exact ⟨h.held, h.asked⟩

theorem Block.HeldAsked.grant {b : Block} (h : b.HeldAsked) (i : Fin 4) (c : Claim) (rest : List Claim) : (b.grant i c rest).HeldAsked := by
  have taken : (b.unitTaken i c rest).HeldAsked := ⟨h.held, h.asked⟩
  unfold Block.grant
  dsimp only
  split
  · exact taken.campaignGranted c _
  · exact taken.fetch _ _
  · exact taken.fetch _ _

theorem Block.putDownByHold_lane_ne (b : Block) {l j : Fin 8} (h : j ≠ l) : (b.putDownByHold l false).lane j = b.lane j := by
  have still : Still (((b.haltSession l).updLane l (fun ln =>
      { ln with state := .off, putDownByHold := true, lastCause := .hold, settleTimer := none, stallTimer := none })).laneNotice l .hold)
      (b.putDownByHold l false) := (Still.refl _).leftService l
  rw [still.lane, Block.laneNotice_lane_ne _ _ h, Block.lane_updLane_ne _ _ h, Block.haltSession_lane_ne _ h]

/-- The arbiter asked puts its lane down, or leaves it; the other asks wait. -/
theorem Block.HeldAsked.arbiter {b : Block} (h : b.HeldAsked) {l : Fin 8} {ls : List (Fin 8)} (ha : b.asks = l :: ls) : (({ b with asks := ls } : Block).arbiter l).HeldAsked := by
  have others : ∀ j, j ≠ l → (b.lane j).idleUnkept → j ∈ ls := fun j hj hl => (List.mem_cons.1 (ha ▸ h.asked j hl)).resolve_left hj
  have held : ({ b with asks := ls } : Block).duty.mode = .held := h.held
  by_cases idle : (b.lane l).idleUnkept
  · obtain ⟨ready, noItem, unkept⟩ := idle
    have down : ({ b with asks := ls } : Block).arbiter l = ({ b with asks := ls } : Block).putDownByHold l false :=
      Block.arbiter_held ready noItem fun hk => Bool.false_ne_true (unkept.symm.trans (hk held))
    have calm := (Calm.refl { b with asks := ls }).putDownByHold l held
    rw [down]
    refine ⟨by rw [calm.duty]; exact held, fun j hl => ?_⟩
    rw [calm.asks]
    by_cases e : j = l
    · subst e
      obtain ⟨off, -⟩ := hl
      rw [Block.putDownByHold_lane] at off
      cases off
    · rw [Block.putDownByHold_lane_ne _ e] at hl
      exact others j e hl
  · have stays : ({ b with asks := ls } : Block).arbiter l = { b with asks := ls } := Block.arbiter_idle_held held (by
      by_contra hn
      rw [not_or, not_or, not_not, not_not, Bool.not_eq_true] at hn
      obtain ⟨unkept, ready, noItem⟩ := hn
      exact idle ⟨ready, noItem, unkept⟩)
    rw [stays]
    refine ⟨held, fun j hl => others j (fun e => ?_) hl⟩
    subst e
    exact idle hl

theorem Block.HeldAsked.settleFrom : ∀ (n : Nat) {b : Block}, b.HeldAsked → (Block.settleFrom n b).HeldAsked
  | 0, _, h => h
  | n + 1, b, h => by
    unfold Block.settleFrom
    split
    · exact Block.HeldAsked.settleFrom n (h.grant _ _ _)
    · split
      · exact h
      · next ha => exact Block.HeldAsked.settleFrom n (h.arbiter ha)
    · split
      · exact h
      · next ha => exact Block.HeldAsked.settleFrom n (h.arbiter ha)

/-- Once the work is settled in HELD, a READY lane with no item has keep-alive. -/
theorem Block.HeldAsked.settled {b : Block} (h : b.HeldAsked) {l : Fin 8} (hs : (b.settleWork.lane l).state = .ready) (hi : (b.settleWork.lane l).item = none) :
    (b.settleWork.lane l).settings.keepAlive = true := by
  by_contra unkept
  have asked := (Block.HeldAsked.settleFrom b.turns h).asked l ⟨hs, hi, Bool.not_eq_true _ ▸ unkept⟩
  obtain ⟨none_left, -⟩ := b.settleWork_settles
  rw [show (Block.settleFrom b.turns b).asks = [] from none_left] at asked
  exact List.not_mem_nil asked

/-- Entering HELD asks the arbiter of every lane (R57, R181). -/
theorem Block.permissionChange_heldAsked {b : Block} {before : Duty} (held : b.duty.mode = .held) (hb : before.mode ≠ .held) : (b.permissionChange before).HeldAsked := by
  have mode : (((b.askedLanes before).foldl Block.ask (b.ownersTold before)).regateAll before).duty.mode = .held := by
    obtain ⟨same, -⟩ := Duty.fixed_permissions (Inner.regateAll (Inner.foldl (fun _ l h => h.ask l) (b.askedLanes before) (b.ownersTold_inner before)) before).duty
    exact same.trans held
  rw [Block.permissionChange_eq, Block.startPass_held mode]
  refine ⟨mode, fun l _ => Block.regateAll_asks _ _ _ (Block.mem_foldl_ask l _ _ (.inr (Block.mem_askedLanes.2 (.inl ?_))))⟩
  rw [held]
  exact hb

/-! ## The lanes that settle again on leaving HELD (R183) -/

/-- With nothing permitted before, no owner loses anything. -/
theorem Block.ownersTold_held {b : Block} {before : Duty} (h : before.mode = .held) : b.ownersTold before = b := by
  have noLanes : b.losingLanes before = [] := List.filter_eq_nil_iff.2 fun l _ => by simp [Duty.mayRun, h]
  have noEntries : b.losingEntries before = [] := by
    unfold Block.losingEntries
    rw [List.filter_eq_nil_iff.2 fun e _ => by simp [Duty.permits, h]]
    rfl
  unfold Block.ownersTold
  rw [noLanes, noEntries]
  rfl

/-- Of a lane, a change of permission that takes nothing away computes the gate again. -/
theorem Block.permissionChange_lane {b : Block} {before : Duty} (h : before.mode = .held) (l : Fin 8) : ∃ gate, (b.permissionChange before).lane l = { b.lane l with gate := gate } := by
  obtain ⟨gate, lane⟩ := ((b.askedLanes before).foldl Block.ask (b.ownersTold before)).regateAll_lane before l
  have asked : Still b ((b.askedLanes before).foldl Block.ask (b.ownersTold before)) := by
    rw [Block.ownersTold_held h]
    exact Still.foldl (fun _ l h => h.ask l) _ (Still.refl b)
  refine ⟨gate, ?_⟩
  rw [Block.permissionChange_eq, ((Still.refl _).startPass).lane, lane, asked.lane]

/-- A lane put down by hold when it settles again (R49, R183). -/
def Lane.woken (clock : Nat) (ln : Lane) : Lane := { ({ ln with putDownByHold := false, restarts := 0 } : Lane).settling clock .hello with lastCause := .wake }

theorem Block.wakeLane_down {b : Block} {l : Fin 8} (hs : (b.lane l).state = .off) (hd : (b.lane l).putDownByHold = true) :
    b.wakeLane l = (b.updLane l (Lane.woken b.clock)).raise (.laneChanged l .settling .wake 0) := by
  unfold Block.wakeLane
  rw [if_pos ⟨hs, hd⟩]
  exact Block.updLane_enterSettling b l _ .hello .wake

theorem Block.wakeLane_stays {b : Block} {l : Fin 8} (h : ¬((b.lane l).state = .off ∧ (b.lane l).putDownByHold = true)) : b.wakeLane l = b := if_neg h

theorem Block.wakeLane_lane_ne (b : Block) {l j : Fin 8} (h : j ≠ l) : (b.wakeLane l).lane j = b.lane j := by
  by_cases down : (b.lane l).state = .off ∧ (b.lane l).putDownByHold = true
  · rw [Block.wakeLane_down down.1 down.2]
    exact Block.lane_updLane_ne _ _ h
  · rw [Block.wakeLane_stays down]

theorem Block.wakeLanes_lane (b : Block) {l : Fin 8} (hs : (b.lane l).state = .off) (hd : (b.lane l).putDownByHold = true) :
    (allLanes.foldl Block.wakeLane b).lane l = (b.lane l).woken b.clock := by
  obtain ⟨-, each⟩ := foldl_lanes (g := Block.wakeLane) (I := fun c => c.clock = b.clock)
    (R := fun _ ln ln' => ln.state = .off → ln.putDownByHold = true → ln' = ln.woken b.clock)
    (fun c l hc => ((Inner.refl c).wakeLane l).clock.trans hc) (fun c l j _ hj => c.wakeLane_lane_ne hj)
    (fun c l hc hs hd => by rw [Block.wakeLane_down hs hd, Block.raise_lane, Block.lane_updLane_self, hc]) allLanes b allLanes_nodup rfl
  exact (each l).2 (mem_allLanes l) hs hd

/-! ## DUTY_CHANGED (R188) -/

/-- DUTY_CHANGED is the last notice, and it gives the mode, the wake mode and the time left as the change has set them; the pacing's share and marks stay. -/
theorem Block.dutyNotice_spec {a b c : Block} {left : DutyMode} {cause : DutyCause} (h : Inner a c) (hb : b = c.dutyNotice left cause) :
    b.duty.mode = a.duty.mode ∧ b.duty.wake = a.duty.wake ∧ b.duty.holdTimer = a.duty.holdTimer ∧
      (b.duty.share = a.duty.share ∧ b.duty.eligible = a.duty.eligible ∧ b.duty.repairsInShared = a.duty.repairsInShared) ∧
      b.port.raised.getLast? = some (.dutyChanged a.duty.mode left cause a.duty.wake (secondsLeft a.clock a.duty.holdTimer)) := by
  subst hb
  obtain ⟨mode, wake, timer, share, eligible, repairs⟩ : c.duty.mode = a.duty.mode ∧ c.duty.wake = a.duty.wake ∧ c.duty.holdTimer = a.duty.holdTimer ∧
      c.duty.share = a.duty.share ∧ c.duty.eligible = a.duty.eligible ∧ c.duty.repairsInShared = a.duty.repairsInShared := by simpa [Duty.fixed] using h.duty
  refine ⟨mode, wake, timer, ⟨share, eligible, repairs⟩, ?_⟩
  rw [← mode, ← wake, ← timer, ← h.clock]
  exact List.getLast?_concat

theorem Block.dutyNotice_clock {a b c : Block} {left : DutyMode} {cause : DutyCause} (h : Inner a c) (hb : b = c.dutyNotice left cause) : b.clock = a.clock := by
  subst hb
  exact h.clock

/-- A hold timer started with whole minutes has them left (R184, R188). -/
theorem secondsLeft_minutes (clock minutes : Nat) : secondsLeft clock (if minutes = 0 then none else some (clock + minutes * 60000000)) = minutes * 60 := by
  by_cases h : minutes = 0
  · rw [if_pos h, h]
    rfl
  · rw [if_neg h]
    show (clock + minutes * 60000000 - clock + 999999) / 1000000 = minutes * 60
    omega

/-! ## The requests and the timer (R184 to R187) -/

@[simp] theorem Block.dutyNotice_lane (b : Block) (left : DutyMode) (cause : DutyCause) (l : Fin 8) : (b.dutyNotice left cause).lane l = b.lane l := Block.raise_lane _ _ _

/-- Entering HELD from another mode, the lanes left READY have keep-alive (R182). -/
theorem Block.entersHeld_keepAlive {m b : Block} {before : Duty} {left : DutyMode} {cause : DutyCause} (held : m.duty.mode = .held) (hb : before.mode ≠ .held)
    (enters : b = (m.permissionChange before).settleWork.dutyNotice left cause) {l : Fin 8} (hs : (b.lane l).state = .ready) (hi : (b.lane l).item = none) :
    (b.lane l).settings.keepAlive = true := by
  subst enters
  rw [Block.dutyNotice_lane] at hs hi ⊢
  exact Block.HeldAsked.settled (Block.permissionChange_heldAsked held hb) hs hi

theorem Block.enterHeld_eq (b : Block) (wake : WakeMode) (minutes : Nat) :
    b.enterHeld wake minutes = ((({ b with duty :=
      { b.duty with mode := .held, wake := wake, holdTimer := if minutes = 0 then none else some (b.clock + minutes * 60000000) } } : Block).permissionChange
        b.duty).settleWork).dutyNotice b.duty.mode .hold := by
  unfold Block.enterHeld
  rfl

theorem Block.switchDuty_eq (b : Block) (mode : DutyMode) :
    b.switchDuty mode = (({ b with duty := { b.duty with mode := mode } } : Block).permissionChange b.duty).dutyNotice b.duty.mode .setDuty := by
  unfold Block.switchDuty
  rfl

/-- Leaving HELD, a lane put down by hold settles again (R183). -/
theorem Block.leavesHeld_lane {m b : Block} {before : Duty} {left : DutyMode} {cause : DutyCause} (hb : before.mode = .held)
    (leaves : b = (allLanes.foldl Block.wakeLane (m.permissionChange before)).dutyNotice left cause) {l : Fin 8} (hs : (m.lane l).state = .off)
    (hd : (m.lane l).putDownByHold = true) : ∃ gate, b.lane l = { (m.lane l).woken m.clock with gate := gate } := by
  obtain ⟨gate, lane⟩ := Block.permissionChange_lane (b := m) hb l
  refine ⟨gate, ?_⟩
  rw [leaves, Block.dutyNotice_lane, Block.wakeLanes_lane _ (by rw [lane]; exact hs) (by rw [lane]; exact hd), lane, ((Inner.refl m).permissionChange before).clock]
  rfl

theorem Block.leaveHeld_eq (b : Block) (wake : WakeMode) (cause : DutyCause) :
    b.leaveHeld wake cause = (allLanes.foldl Block.wakeLane (({ b with duty :=
      { b.duty with mode := wake.mode, wake := wake, holdTimer := none } } : Block).permissionChange b.duty)).dutyNotice b.duty.mode cause := by
  unfold Block.leaveHeld
  rfl

/-- The moves of a part that leaves HELD, before its notice. -/
theorem Block.leaveHeld_moves (b : Block) (before : Duty) : Inner b (allLanes.foldl Block.wakeLane (b.permissionChange before)) :=
  Inner.foldl (fun _ l h => h.wakeLane l) _ ((Inner.refl b).permissionChange before)

/-- Settles O56: the three requests and the timer through the moves they share, then the change of permission, and what it does to campaigns, entries and items. -/
theorem dutyChanges : Obligations.DutyChanges := by
  unfold Obligations.DutyChanges
  intro mayRun permits
  have hRun : mayRun = Duty.mayRun := funext fun d => funext fun l => (d.mayRun_eq l).symm
  have hPermits : permits = fun d e => d.permits e.source e.damaged := funext fun d => funext fun e => (d.permits_eq e.source e.damaged).symm
  clear_value mayRun permits
  subst hRun hPermits
  refine ⟨fun s tag body => ?requests, fun s h => ?expiry, fun b before => ?change, fun b l => ?losses⟩
  case requests =>
    intro d wakeMode pacingStays tells
    refine ⟨fun h => ?setDuty, fun h => ?hold, fun h => ?wake⟩
    case setDuty =>
      refine ⟨fun hw => State.request_refused h ?_, fun w hw => ?_⟩
      · unfold Block.setDuty
        rw [show wakeModeOf (fieldAt body 0 1) = none from hw]
        rfl
      have owner : s.blk.setDuty body = if d.mode = w.mode then s.blk.done [] else (s.blk.switchDuty w.mode).done [] := by
        unfold Block.setDuty
        rw [show wakeModeOf (fieldAt body 0 1) = some w from hw]
      refine ⟨fun hm => ?_, fun hm => ?_⟩
      · rw [if_pos hm] at owner
        exact State.request_replied h owner h.quiet rfl
      · rw [if_neg hm] at owner
        obtain ⟨b, switched⟩ : ∃ b, b = s.blk.switchDuty w.mode := ⟨_, rfl⟩
        have hb := switched.trans (s.blk.switchDuty_eq w.mode)
        obtain ⟨mode, wake, timer, pacing, notice⟩ := Block.dutyNotice_spec ((Inner.refl _).permissionChange _) hb
        exact ⟨b, (State.request_takes h _).trans (by rw [owner, ← switched]; rfl), hb, mode, wake, timer, pacing, notice⟩
    case hold =>
      intro minutes timer
      have notHeld : d.mode ≠ .held := by simpa [requestModes] using h.mode
      refine ⟨fun hw => State.request_refused h ?_, fun w hw hm => ?_⟩
      · unfold Block.hold
        cases hn : wakeModeOf (fieldAt body 0 1) with
        | none => rfl
        | some w =>
          have long : 1440 < minutes := hw.resolve_left fun none => Option.some_ne_none w (hn.symm.trans none)
          exact if_neg (Nat.not_le.2 long)
      have owner : s.blk.hold body = (s.blk.enterHeld w minutes).done [] := by
        unfold Block.hold
        rw [show wakeModeOf (fieldAt body 0 1) = some w from hw]
        exact if_pos hm
      obtain ⟨b, entered⟩ : ∃ b, b = s.blk.enterHeld w minutes := ⟨_, rfl⟩
      have hb := entered.trans (s.blk.enterHeld_eq w minutes)
      obtain ⟨mode, wake, left, pacing, notice⟩ := Block.dutyNotice_spec (((Inner.refl _).permissionChange _).settleWork) hb
      rw [show secondsLeft _ _ = minutes * 60 from secondsLeft_minutes s.blk.clock minutes] at notice
      exact ⟨b, (State.request_takes h _).trans (by rw [owner, ← entered]; rfl), hb, mode, wake, left, pacing, notice,
        fun l => Block.entersHeld_keepAlive (by rfl) notHeld hb⟩
    case wake =>
      intro target
      have held : d.mode = .held := by simpa [requestModes] using h.mode
      refine ⟨fun hw => State.request_refused h ?_, fun w hw => ?_⟩
      · unfold Block.wake
        rw [show wakeTarget s.blk.duty.wake (fieldAt body 0 1) = none from hw]
        rfl
      have owner : s.blk.wake body = (s.blk.leaveHeld w .wake).done [w.mode.code] := by
        unfold Block.wake
        rw [show wakeTarget s.blk.duty.wake (fieldAt body 0 1) = some w from hw]
      obtain ⟨b, left⟩ : ∃ b, b = s.blk.leaveHeld w .wake := ⟨_, rfl⟩
      have hb := left.trans (s.blk.leaveHeld_eq w .wake)
      obtain ⟨mode, wake, timer, pacing, notice⟩ := Block.dutyNotice_spec (Block.leaveHeld_moves _ _) hb
      rw [show s.blk.duty.mode = _ from held] at notice
      exact ⟨b, (State.request_takes h _).trans (by rw [owner, ← left]; rfl), hb, mode, wake, timer, pacing, notice, fun l => Block.leavesHeld_lane held hb⟩
  case expiry =>
    refine ⟨fun ht => ?stopped, fun t ht => ?expires⟩
    case stopped =>
      exact State.event_still h (by unfold Block.holdExpires; rw [ht]) h.quiet h.told
    case expires =>
      have expired : s.blk.holdExpires = (s.blk.clockTo t).leaveHeld s.blk.duty.wake .expiry := by
        unfold Block.holdExpires
        rw [ht]
      obtain ⟨b, left⟩ : ∃ b, b = (s.blk.clockTo t).leaveHeld s.blk.duty.wake .expiry := ⟨_, rfl⟩
      have hb := left.trans ((s.blk.clockTo t).leaveHeld_eq s.blk.duty.wake .expiry)
      obtain ⟨mode, wake, timer, -, notice⟩ := Block.dutyNotice_spec (Block.leaveHeld_moves _ _) hb
      have clock := Block.dutyNotice_clock (Block.leaveHeld_moves _ _) hb
      exact ⟨b, (State.event_live h.live _).trans (by rw [expired, ← left]), clock, hb, mode, wake, timer, notice⟩
  case change =>
    intro lanes entries told
    exact ⟨b.askedLanes before, b.permissionChange_eq before, fun l => Block.mem_askedLanes⟩
  case losses =>
    intro ln stopped ended
    refine ⟨fun hh => ?noHead, fun c hh => ?head, fun k e he => ?entry, fun id it hi => ?item⟩
    case noHead =>
      unfold Block.laneLoses
      rw [hh]
    case head =>
      intro t
      refine ⟨Block.laneLoses_stops hh, fun hs hx ho hl hc => ?_, Block.laneLoses_stays hh⟩
      obtain ⟨lane, others, pool, recorder, port, repair, store, sched⟩ := b.endOwner_spec l hl
      have own : (b.endOwner l).campaign = b.campaign := by unfold Block.campaign; rw [sched]
      rw [show t = _ from Block.laneLoses_ends hh hs hx ho]
      refine ⟨⟨lane, others, pool, recorder, port⟩, repair, store, ?_, fun id hid => ?_⟩
      · rw [Block.campaign_updCampaign _ _ _ _ fun _ => by rfl, if_pos rfl, own, hc]
        rfl
      · rw [Block.campaign_updCampaign _ _ _ _ fun _ => by rfl, if_neg hid, own]
    case entry =>
      intro t
      have loses := Block.entryLoses_found he
      refine ⟨fun hn hp => ?_, fun hn hp => ?_, fun hl hx => ?_, fun hl hx hs => ?_⟩
      · rw [hn] at loses
        exact loses.trans (if_pos hp)
      · rw [hn] at loses
        exact loses.trans (if_neg hp)
      · rw [hl] at loses
        exact loses.trans (if_neg hx)
      · rw [hl] at loses
        obtain ⟨lane, others, pool, recorder, port, repair, store, sched⟩ := b.endOwner_spec l (.inr hs)
        obtain ⟨-, fetching, -, rewriting, readback, -⟩ := Block.stepEnded_found (b := b.endOwner l) (by rw [repair]; exact he) .idle .duty
        have step : t = (b.endOwner l).stepEnded k .idle .duty := loses.trans (if_pos hx)
        exact ⟨b.endOwner l, ⟨lane, others, pool, recorder, port⟩, repair, store, sched, fun hp => step.trans (fetching hp (.inr rfl)),
          fun hp => step.trans (rewriting hp nofun), fun hp => step.trans (readback hp)⟩
    case item =>
      intro t
      have finished := Block.finishItem_eq hi id
      refine ⟨fun hs => finished.trans (if_pos hs), fun hs hn => ?_, fun hs hn => ?_⟩
      · rw [if_neg hs, hn, if_neg Bool.false_ne_true] at finished
        exact finished
      · rw [if_neg hs, if_pos hn] at finished
        rw [show t = _ from finished]
        exact b.itemStopped_spec l

end Sys2Proof.Machine
end

section
/-! SUPPORT. The Finding Log over a step (R138, R140), the classes of an event (R125 to R128), and the requests on profiles and flags (R136, R137, R146). -/
namespace Sys2Proof.Machine

/-! ## The Finding Log (R138, R140) -/

/-- Settles O9: of the bounds that every step keeps, those of the Finding Log. -/
theorem stepKeepsLogInOrder : Obligations.StepKeepsLogInOrder :=
  fun _ _ sound e => (step_stays e).recorder sound

/-! ## The class of highest precedence (R125) -/

theorem ClassSet.ne_zero_iff (s : ClassSet) : s ≠ 0 ↔ ∃ c, ClassSet.has s c = true := by
  rw [ne_eq, ClassSet.eq_zero_iff, not_forall]
  exact exists_congr fun c => by rw [Bool.not_eq_false]

/-- The classes stand in the list at their numbers. -/
theorem FindingClass.all_getElem?_eq_some (i : Nat) (c : FindingClass) : FindingClass.all[i]? = some c ↔ i = c.number := by
  have at_number : ∀ d : FindingClass, FindingClass.all[d.number]? = some d := fun d => by cases d <;> rfl
  have distinct : FindingClass.all.Nodup := by decide
  refine ⟨fun h => ?_, fun h => h ▸ at_number c⟩
  exact (List.getElem?_inj (List.getElem?_eq_some_iff.1 h).1 distinct).1 (h.trans (at_number c).symm)

/-- The class found first in the list is the one of the lowest number (R124, R125). -/
theorem ClassSet.highest_eq_some (s : ClassSet) (c : FindingClass) :
    ClassSet.highest s = some c ↔ ClassSet.has s c = true ∧ ∀ c', c'.number < c.number → ClassSet.has s c' = false := by
  unfold ClassSet.highest
  rw [List.find?_eq_some_iff_getElem]
  refine and_congr_right fun _ => ⟨fun ⟨i, hi, hc, before⟩ c' lower => ?_, fun before => ?_⟩
  · obtain rfl := (FindingClass.all_getElem?_eq_some i c).1 (List.getElem?_eq_some_iff.2 ⟨hi, hc⟩)
    obtain ⟨_, hc'⟩ := List.getElem?_eq_some_iff.1 ((FindingClass.all_getElem?_eq_some _ c').2 rfl)
    have absent := before c'.number lower
    rw [hc'] at absent
    simpa using absent
  · obtain ⟨hi, hc⟩ := List.getElem?_eq_some_iff.1 ((FindingClass.all_getElem?_eq_some _ c).2 rfl)
    refine ⟨c.number, hi, hc, fun j hj => ?_⟩
    have number := (FindingClass.all_getElem?_eq_some j _).1 (List.getElem?_eq_getElem (hj.trans hi))
    rw [before _ (number ▸ hj)]
    rfl

/-! ## Recognition, dispositions and outcome (R126 to R128) -/

section
variable (r : Recorder) (p : ProfileChoice) (disregard conditions : ClassSet) (c : FindingClass)

theorem Recorder.has_judge_recognised :
    ClassSet.has (r.judge p disregard conditions).recognised c = (ClassSet.has conditions c && !ClassSet.has disregard c) :=
  (ClassSet.has_and _ _ c).trans (by rw [ClassSet.has_not])

theorem Recorder.has_judge_halts : ClassSet.has (r.judge p disregard conditions).halts c =
    (ClassSet.has (r.judge p disregard conditions).recognised c && ClassSet.has (r.profiles[(r.judge p disregard conditions).profile]).halts c) :=
  ClassSet.has_and _ _ c

theorem Recorder.has_judge_noted : ClassSet.has (r.judge p disregard conditions).noted c =
    (ClassSet.has (r.judge p disregard conditions).recognised c && !ClassSet.has (r.profiles[(r.judge p disregard conditions).profile]).halts c) :=
  (ClassSet.has_and _ _ c).trans (congrArg _ (ClassSet.has_not _ c))

/-- The outcome of any event; `Recorder.judge_outcome` is the case without IDENTITY. -/
theorem Recorder.judge_outcome_eq : (r.judge p disregard conditions).outcome =
    if (r.judge p disregard conditions).halts ≠ 0 then .halt
    else if ClassSet.has (r.judge p disregard conditions).noted .identity then .finish else .goOn := rfl

theorem Recorder.judge_outcome_halt :
    (r.judge p disregard conditions).outcome = .halt ↔ ∃ c, ClassSet.has (r.judge p disregard conditions).halts c = true := by
  rw [← ClassSet.ne_zero_iff, Recorder.judge_outcome_eq]
  split
  · next h => exact iff_of_true rfl h
  · next h =>
    refine iff_of_false ?_ h
    split <;> nofun

theorem Recorder.judge_outcome_finish : (r.judge p disregard conditions).outcome = .finish ↔
    (∀ c, ClassSet.has (r.judge p disregard conditions).halts c = false) ∧ ClassSet.has (r.judge p disregard conditions).noted .identity = true := by
  rw [← ClassSet.eq_zero_iff, Recorder.judge_outcome_eq]
  split
  · next h => exact iff_of_false nofun fun none => h none.1
  · next h =>
    rw [and_iff_right (not_not.1 h)]
    split
    · next identity => exact iff_of_true rfl identity
    · next identity => exact iff_of_false nofun identity

end

/-- Settles O16: the decision field by field, and the class found first. -/
theorem dispositionsAndPrecedence : Obligations.DispositionsAndPrecedence :=
  ⟨fun r p _ _ => ⟨by cases p <;> rfl, r.has_judge_recognised p _ _, r.has_judge_halts p _ _, r.has_judge_noted p _ _,
    r.judge_outcome_halt p _ _, r.judge_outcome_finish p _ _⟩, ClassSet.highest_eq_some⟩

/-! ## The body of SET PROFILE (R136, R210) -/

/-- A field of one byte is the byte, and 0 past the end of the body. -/
theorem fieldAt_one (body : List Byte) (i : Nat) : fieldAt body i 1 = body[i]?.elim 0 BitVec.toNat := by
  unfold fieldAt sliceAt
  rw [List.take_one, List.head?_drop]
  cases body[i]? with
  | none => rfl
  | some d => exact Nat.zero_add _

/-- The byte at a place of a slice, as the field of one byte that it is. -/
theorem sliceAt_byte {body : List Byte} {off len i : Nat} (hi : i < len) : (sliceAt body off len)[i]?.elim 0 BitVec.toNat = fieldAt body (off + i) 1 := by
  unfold sliceAt
  rw [fieldAt_one, List.getElem?_take_of_lt hi, List.getElem?_drop]

/-- A byte that is neither NOTE nor HALT leaves no class set. -/
theorem haltSet_none {d : Byte} (bad : 2 ≤ d.toNat) : ∀ {ds : List Byte}, d ∈ ds → ∀ n, haltSet ds n = none
  | e :: ds, h, n => by
    unfold haltSet
    rcases List.mem_cons.1 h with rfl | later
    · rw [onOff_none bad]
    · rw [haltSet_none bad later]
      cases onOff e.toNat <;> rfl

/-- The bits of a class set once the class numbered `n` has joined it, if it is HALT. -/
theorem ClassSet.getLsbD_ite_twoPow (s : ClassSet) (halt : Bool) {n j : Nat} (hj : j < 9) :
    (if halt then s ||| BitVec.twoPow 9 n else s).getLsbD j = (s.getLsbD j || (halt && decide (n = j))) := by
  cases halt with
  | false => simp
  | true => simp [hj, eq_comm]

/-- Bytes that are NOTE or HALT give the set of those that are HALT, the first byte under the number `n`. -/
theorem haltSet_some : ∀ (ds : List Byte) (n : Nat), (∀ d ∈ ds, d.toNat ≤ 1) → ∃ s, haltSet ds n = some s ∧ (∀ j < n, s.getLsbD j = false) ∧
    ∀ j, n + j < 9 → s.getLsbD (n + j) = (ds[j]?.elim 0 BitVec.toNat == 1)
  | [], n, _ => ⟨0, rfl, fun _ _ => BitVec.getLsbD_zero, fun _ _ => BitVec.getLsbD_zero⟩
  | d :: ds, n, h => by
    obtain ⟨s, tail, below, above⟩ := haltSet_some ds (n + 1) fun e he => h e (List.mem_cons_of_mem d he)
    refine ⟨if d.toNat == 1 then s ||| BitVec.twoPow 9 n else s, ?_, fun j hj => ?_, fun j hj => ?_⟩
    · unfold haltSet
      rw [onOff_eq (h d List.mem_cons_self), tail]
    · by_cases h9 : j < 9
      · rw [ClassSet.getLsbD_ite_twoPow s _ h9, below j (by omega), decide_eq_false (by omega), Bool.and_false, Bool.or_false]
      · exact BitVec.getLsbD_of_ge _ _ (Nat.not_lt.1 h9)
    · rw [ClassSet.getLsbD_ite_twoPow s _ hj]
      cases j with
      | zero =>
        rw [Nat.add_zero, below n (Nat.lt_succ_self n), decide_eq_true rfl, Bool.and_true, Bool.false_or]
        rfl
      | succ j =>
        rw [show n + (j + 1) = n + 1 + j by omega] at hj ⊢
        rw [above j hj, decide_eq_false (by omega), Bool.and_false, Bool.or_false]
        rfl

/-- The values a SET PROFILE body may hold, its profile's number aside (R136). -/
def profileGood (body : List Byte) : Prop := ∀ i, 1 ≤ i → i ≤ 11 → fieldAt body i 1 ≤ 1

/-- A body in range gives the nine dispositions and the two options it holds. -/
theorem parseProfile_good {body : List Byte} (h : profileGood body) : ∃ p, parseProfile body = some p ∧
    (∀ c, ClassSet.has p.halts c = (fieldAt body (1 + c.number) 1 == 1)) ∧ p.enqueue = (fieldAt body 10 1 == 1) ∧ p.rewrite = (fieldAt body 11 1 == 1) := by
  have dispositions : ∀ d ∈ sliceAt body 1 9, d.toNat ≤ 1 := fun d hd => by
    obtain ⟨i, hi, rfl⟩ := List.mem_iff_getElem.1 hd
    have short : i < 9 := Nat.lt_of_lt_of_le hi (List.length_take_le _ _)
    have byte := sliceAt_byte (body := body) (off := 1) short
    rw [List.getElem?_eq_getElem hi] at byte
    exact byte.trans_le (h (1 + i) (by omega) (by omega))
  obtain ⟨halts, hset, -, bits⟩ := haltSet_some _ 0 dispositions
  refine ⟨⟨halts, fieldAt body 10 1 == 1, fieldAt body 11 1 == 1⟩, ?_, fun c => ?_, rfl, rfl⟩
  · unfold parseProfile
    rw [hset, onOff_eq (h 10 (by decide) (by decide)), onOff_eq (h 11 (by decide) (by decide))]
  · have bit := bits c.number (by rw [Nat.zero_add]; exact c.number_lt)
    rw [Nat.zero_add, sliceAt_byte c.number_lt] at bit
    exact bit

/-- Any one value outside its range leaves no profile. -/
theorem parseProfile_bad {body : List Byte} (h : ¬profileGood body) : parseProfile body = none := by
  unfold profileGood at h
  push Not at h
  obtain ⟨i, first, last, bad⟩ := h
  unfold parseProfile
  by_cases disposition : i ≤ 9
  · obtain ⟨j, rfl⟩ := Nat.exists_eq_add_of_le first
    have byte := sliceAt_byte (body := body) (off := 1) (len := 9) (i := j) (by omega)
    cases place : (sliceAt body 1 9)[j]? with
    | none =>
      rw [place] at byte
      exact absurd byte (Nat.ne_of_lt (Nat.zero_lt_of_lt bad))
    | some d =>
      rw [place] at byte
      rw [haltSet_none (Nat.lt_of_lt_of_eq bad byte.symm) (List.mem_of_getElem? place)]
  · obtain rfl | rfl : i = 10 ∨ i = 11 := by omega
    · rw [onOff_none bad]
      cases haltSet (sliceAt body 1 9) 0 <;> rfl
    · rw [onOff_none bad]
      cases haltSet (sliceAt body 1 9) 0 <;> cases onOff (fieldAt body 10 1) <;> rfl

/-! ## The requests at their owner (R136, R137, R146) -/

theorem profileOf_none {n : Nat} (h : 4 ≤ n) : profileOf n = none := dif_neg (Nat.not_lt.2 h)

section
variable {b : Block} {body : List Byte}

theorem Block.setProfile_range (h : ¬(fieldAt body 0 1 < 4 ∧ profileGood body)) : b.setProfile body = b.refuse .range := by
  unfold Block.setProfile
  rcases not_and_or.1 h with profile | values
  · rw [profileOf_none (Nat.not_lt.1 profile)]
  · rw [parseProfile_bad values]
    cases profileOf (fieldAt body 0 1) <;> rfl

theorem Block.setProfile_taken {p : Fin 4} {profile : Profile} (hp : profileOf (fieldAt body 0 1) = some p) (h : parseProfile body = some profile) :
    b.setProfile body = Block.done { b with recorder := { b.recorder with profiles := b.recorder.profiles.set p.val profile p.isLt } } [] := by
  unfold Block.setProfile
  rw [hp, h]

theorem Block.selectProfile_range (h : 4 ≤ fieldAt body 0 1) : b.selectProfile body = b.refuse .range := by
  unfold Block.selectProfile
  rw [profileOf_none h]

theorem Block.selectProfile_taken {p : Fin 4} (hp : profileOf (fieldAt body 0 1) = some p) :
    b.selectProfile body = Block.done { b with recorder := { b.recorder with defaultProfile := p } } [BitVec.ofNat 8 b.recorder.defaultProfile.val] := by
  unfold Block.selectProfile
  rw [hp]

end

/-- A request that changes the Finding Recorder alone is answered at once: the Recorder has nothing to settle and raises nothing. -/
theorem State.request_recorded {s : State} {kind tag : Byte} {body : List Byte} (h : s.Takes kind tag body) {owner : Block → Block × Reply} {r : Recorder}
    {results : List Byte} (ho : owner s.blk = Block.done { s.blk with recorder := r } results) :
    s.request kind tag body owner = .next (s.replied { s.blk with recorder := r } kind tag (.done results)) :=
  State.request_replied h ho h.quiet rfl

/-- Settles O53: each request's refusal, and the one part of the Finding Recorder that it changes when taken. -/
theorem profilesAndFlags : Obligations.ProfilesAndFlags := by
  intro s tag body r
  refine ⟨fun h => ?setProfile, fun h => ?selectProfile, fun h => ?clearFlags⟩
  case setProfile =>
    intro inRange
    refine ⟨fun bad => State.request_refused h (Block.setProfile_range bad), fun p hp good => ?_⟩
    obtain ⟨profile, parsed, dispositions, enqueue, rewrite⟩ := parseProfile_good good
    exact ⟨profile, State.request_recorded h (Block.setProfile_taken hp parsed), dispositions, enqueue, rewrite⟩
  case selectProfile =>
    exact ⟨fun bad => State.request_refused h (Block.selectProfile_range bad), fun p hp => State.request_recorded h (Block.selectProfile_taken hp)⟩
  case clearFlags =>
    intro named
    exact ⟨fun bad => State.request_refused h (if_neg (Nat.not_lt.2 bad)), fun good => State.request_recorded h (if_pos good)⟩

end Sys2Proof.Machine
end

section
/-! SUPPORT. A notice that is placed, folded into a waiting LOG_ADVANCED, or dropped (R143, R203, R205). -/
namespace Sys2Proof.Machine

/-- A notice is placed unless it is a LOG_ADVANCED and another one waits behind the frame in transmission (R143, R205). -/
theorem Port.queueNotice_place {p : Port} {n : Notice} (h : (∀ last, n ≠ .logAdvanced last) ∨ p.outbound.tail.any OutFrame.isLogAdvanced = false) :
    p.queueNotice n = p.place n := by
  cases n
  case logAdvanced last => exact if_neg (Bool.eq_false_iff.1 (h.resolve_left fun other => other last rfl))
  all_goals rfl

/-- A LOG_ADVANCED folds into one that waits (R143). -/
theorem Port.queueNotice_fold {p : Port} (last : Nat) (h : p.outbound.tail.any OutFrame.isLogAdvanced = true) :
    p.queueNotice (.logAdvanced last) = p.foldLog last := if_pos h

/-- Frames with no LOG_ADVANCED among them stay as they are when one is brought up to date. -/
theorem OutFrame.map_fold_of_none {fs : List OutFrame} (h : fs.any OutFrame.isLogAdvanced = false) (last : Nat) :
    fs.map (fun f => if f.isLogAdvanced then .notice (.logAdvanced last) else f) = fs :=
  (List.map_congr_left fun f hf => if_neg (List.any_eq_false.1 h f hf)).trans (List.map_id fs)

/-- With one LOG_ADVANCED waiting, bringing it up to date replaces its number where it stands. -/
theorem Port.foldLog_one {p : Port} {first : OutFrame} {older newer : List OutFrame} {k : Nat}
    (h : p.outbound = first :: (older ++ .notice (.logAdvanced k) :: newer)) (ho : older.any OutFrame.isLogAdvanced = false)
    (hn : newer.any OutFrame.isLogAdvanced = false) (last : Nat) :
    p.foldLog last = { p with outbound := first :: (older ++ .notice (.logAdvanced last) :: newer) } := by
  unfold Port.foldLog
  rw [h]
  dsimp only
  rw [List.map_append, List.map_cons, OutFrame.map_fold_of_none ho, OutFrame.map_fold_of_none hn]
  rfl

/-- Settles O21: a notice that is placed or dropped, and a LOG_ADVANCED that folds into the one that waits. -/
theorem noticesArePlacedOrDropped : Obligations.NoticesArePlacedOrDropped := by
  intro p n
  refine ⟨fun h => ⟨fun free => (Port.queueNotice_place h).trans (if_pos free), fun full => (Port.queueNotice_place h).trans (if_neg (Nat.not_lt.2 full))⟩,
    fun last first older newer k hn queue ho hw => ?_⟩
  subst hn
  refine (Port.queueNotice_fold last ?_).trans (Port.foldLog_one queue ho hw last)
  rw [queue]
  simp [OutFrame.isLogAdvanced]

end Sys2Proof.Machine
end

section
/-! SUPPORT. Staging memory over a step, and the bytes of a frame read back from the extents they were staged into (R155, R159, R164). -/
namespace Sys2Proof.Machine

/-! ## Staging memory over a step -/

/-- Settles O6: of the bounds that every step keeps, the canonical form of staging memory. -/
theorem stepKeepsStagingCanonical : Obligations.StepKeepsStagingCanonical :=
  fun _ _ canonical e => (step_stays e).staging canonical

/-! ## Where the bytes of a frame stand (R155) -/

theorem stagingAddress_eq_some {extents : List Nat} {i a : Nat} :
    stagingAddress extents i = some a ↔ ∃ e, extents[i / extentBytes]? = some e ∧ e * extentBytes + i % extentBytes = a := by
  simp only [stagingAddress, Option.map_eq_some_iff]

/-- Every byte within the extents of a frame has its place. -/
theorem stagingAddress_of_lt {extents : List Nat} {i : Nat} (h : i < extents.length * extentBytes) : ∃ a, stagingAddress extents i = some a := by
  have position : i / extentBytes < extents.length := (Nat.div_lt_iff_lt_mul (by decide)).2 h
  exact ⟨_, stagingAddress_eq_some.2 ⟨_, List.getElem?_eq_getElem position, rfl⟩⟩

/-- An address names its extent and its offset in it. -/
theorem extent_offset_inj {e e' i j : Nat} (h : e * extentBytes + i % extentBytes = e' * extentBytes + j % extentBytes) :
    e = e' ∧ i % extentBytes = j % extentBytes := by
  unfold extentBytes at h ⊢
  omega

/-- In distinct extents no two bytes of a frame stand in one place. -/
theorem stagingAddress_inj {extents : List Nat} (distinct : extents.Nodup) {i j a : Nat} (hi : stagingAddress extents i = some a)
    (hj : stagingAddress extents j = some a) : i = j := by
  obtain ⟨e, ei, ai⟩ := stagingAddress_eq_some.1 hi
  obtain ⟨e', ej, aj⟩ := stagingAddress_eq_some.1 hj
  obtain ⟨rfl, offset⟩ := extent_offset_inj (ai.trans aj.symm)
  have position : i / extentBytes = j / extentBytes := (List.getElem?_inj (List.getElem?_eq_some_iff.1 ei).1 distinct).1 (ei.trans ej.symm)
  rw [← Nat.div_add_mod i extentBytes, position, offset, Nat.div_add_mod]

/-! ## Bytes staged and read (R159, R164) -/

theorem stageBytes_cons {extents : List Nat} {i a : Nat} (h : stagingAddress extents i = some a) (b : Byte) (bs : List Byte) (m : List Host.Cell) :
    stageBytes extents i (b :: bs) m = stageBytes extents (i + 1) bs (Memory.write m a b) := by
  rw [stageBytes, h]

theorem unstageBytes_succ {extents : List Nat} {i a : Nat} (h : stagingAddress extents i = some a) (m : List Host.Cell) (n : Nat) :
    unstageBytes extents m i (n + 1) = Memory.read m a :: unstageBytes extents m (i + 1) n := by
  rw [unstageBytes, h]

/-- The bytes that follow in a frame leave a byte written before them as it is. -/
theorem stageBytes_read_before {extents : List Nat} (distinct : extents.Nodup) {i a : Nat} (h : stagingAddress extents i = some a) (b : Byte)
    (bs : List Byte) {m : List Host.Cell} (hm : Memory.wf m = true) :
    Memory.read (stageBytes extents (i + 1) bs (Memory.write m a b)) a = b := by
  have elsewhere : ∀ j, i + 1 ≤ j → j < i + 1 + bs.length → stagingAddress extents j ≠ some a :=
    fun j after _ same => absurd (stagingAddress_inj distinct h same) (by omega)
  rw [stageBytes_read_other extents bs (i + 1) _ a (Memory.write_wf hm a b) elsewhere, Memory.read_write hm, if_pos rfl]

/-- Settles O13, by induction on the bytes staged: the first is left alone by the rest, and the rest read back. -/
theorem stagedFrameReadsBack : Obligations.StagedFrameReadsBack := by
  intro extents m i bs canonical distinct within
  induction bs generalizing i m with
  | nil => rfl
  | cons b bs ih =>
    rw [List.length_cons] at within
    obtain ⟨a, place⟩ := stagingAddress_of_lt (extents := extents) (i := i) (by omega)
    have rest := ih (Memory.write m a b) (i + 1) (Memory.write_wf canonical a b) (by omega)
    rw [stageBytes_cons place, List.length_cons, unstageBytes_succ place, stageBytes_read_before distinct place b bs canonical, rest]

end Sys2Proof.Machine
end

section
/-! SUPPORT. SET PACING (R191), the pacing gate's row, the effective ceiling and the opening time of a gate (R190). -/
namespace Sys2Proof.Machine

/-! ## The body of SET PACING (R191, R210) -/

/-- A byte that is taken for on or off holds 0 or 1. -/
theorem le_one_of_onOff {n : Nat} {a : Bool} (h : onOff n = some a) : n ≤ 1 :=
  Nat.not_lt.1 fun bad => Option.some_ne_none a (h.symm.trans (onOff_none bad))

/-- The shared-eligible marks of a SET PACING body, lane 0 first. -/
def eligibleAsked (body : List Byte) : Vector Bool 8 := Vector.ofFn fun l => fieldAt body (1 + l.val) 1 == 1

theorem eligibleAsked_lane (body : List Byte) (l : Fin 8) : (eligibleAsked body)[l] = (fieldAt body (1 + l.val) 1 == 1) :=
  Vector.getElem_ofFn l.isLt

/-- Eight marks in range are taken as they stand. -/
theorem parseEligible_good {body : List Byte} (h : ∀ i, 1 ≤ i → i ≤ 8 → fieldAt body i 1 ≤ 1) : parseEligible body = some (eligibleAsked body) := by
  have mark : ∀ i, 1 ≤ i → i ≤ 8 → onOff (fieldAt body i 1) = some (fieldAt body i 1 == 1) := fun i low high => onOff_eq (h i low high)
  unfold parseEligible
  simp (disch := decide) only [mark]
  rfl

/-- Marks that are taken are all in range. -/
theorem parseEligible_range {body : List Byte} {v : Vector Bool 8} (h : parseEligible body = some v) {i : Nat} (low : 1 ≤ i) (high : i ≤ 8) :
    fieldAt body i 1 ≤ 1 := by
  unfold parseEligible at h
  split at h
  · next h1 h2 h3 h4 h5 h6 h7 h8 =>
    interval_cases i
    exacts [le_one_of_onOff h1, le_one_of_onOff h2, le_one_of_onOff h3, le_one_of_onOff h4, le_one_of_onOff h5, le_one_of_onOff h6, le_one_of_onOff h7,
      le_one_of_onOff h8]
  · cases h

/-- The values a SET PACING body may hold: a share of 1 to 8 eighths, and nine marks (R191). -/
def pacingGood (body : List Byte) : Prop := 1 ≤ fieldAt body 0 1 ∧ fieldAt body 0 1 ≤ 8 ∧ ∀ i, 1 ≤ i → i ≤ 9 → fieldAt body i 1 ≤ 1

/-! ## SET PACING at its owner (R181, R191) -/

/-- The Duty Controller with the share and the marks of a SET PACING body. -/
def Duty.paced (d : Duty) (body : List Byte) : Duty :=
  { d with share := fieldAt body 0 1, eligible := eligibleAsked body, repairsInShared := fieldAt body 9 1 == 1 }

section
variable (b : Block) {body : List Byte}

theorem Block.setPacing_taken (h : pacingGood body) :
    b.setPacing body = (({ b with duty := b.duty.paced body } : Block).permissionChange b.duty).done [] := by
  obtain ⟨first, last, marks⟩ := h
  have eligible := parseEligible_good (body := body) fun i low high => marks i low (Nat.le_succ_of_le high)
  unfold Block.setPacing
  rw [eligible, onOff_eq (marks 9 (by decide) (by decide))]
  exact if_pos ⟨first, last⟩

theorem Block.setPacing_range (h : ¬pacingGood body) : b.setPacing body = b.refuse .range := by
  unfold Block.setPacing
  split
  · next eligible repairs he hr =>
    refine if_neg fun ⟨first, last⟩ => h ⟨first, last, fun i low high => ?_⟩
    obtain lane | rfl := Nat.le_or_eq_of_le_succ high
    · exact parseEligible_range he low lane
    · exact le_one_of_onOff hr
  · rfl

end

/-- What a change of permission leaves in the Duty Controller: every field but the calibrations (R181). -/
theorem Block.permissionChange_duty (b : Block) (before : Duty) : (b.permissionChange before).duty.mode = b.duty.mode ∧
    (b.permissionChange before).duty.wake = b.duty.wake ∧ (b.permissionChange before).duty.holdTimer = b.duty.holdTimer ∧
    (b.permissionChange before).duty.share = b.duty.share ∧ (b.permissionChange before).duty.eligible = b.duty.eligible ∧
    (b.permissionChange before).duty.repairsInShared = b.duty.repairsInShared := by
  simpa [Duty.fixed] using ((Inner.refl b).permissionChange before).duty

/-! ## The row of the gate (R190) -/

theorem Block.gateOpens_shut {b : Block} {l : Fin 8} {t : Nat} (h : (b.lane l).gate = some t) :
    b.gateOpens l = Block.ask { b with clock := max b.clock t } l := by
  unfold Block.gateOpens
  rw [h]
  rfl

theorem Block.gateOpens_none {b : Block} {l : Fin 8} (h : (b.lane l).gate = none) : b.gateOpens l = b := by
  unfold Block.gateOpens
  rw [h]

/-! ## The effective ceiling and the opening time (R190) -/

theorem Duty.effectiveCeiling_eq (d : Duty) (l : Fin 8) (ceiling : Nat) : d.effectiveCeiling l ceiling =
    if d.mode = .full then some ceiling else if d.mode = .shared ∧ d.eligible[l] = true then some (max 1 (ceiling * d.share / 8)) else none := by
  unfold Duty.effectiveCeiling
  cases d.mode with
  | full => rfl
  | shared => simp
  | held => rfl

/-- A quotient rounded up is at most a number when the number's multiple covers the dividend. -/
theorem roundedUp_le_iff {rate : Nat} (h : 0 < rate) (n k : Nat) : (n + (rate - 1)) / rate ≤ k ↔ n ≤ k * rate := by
  rw [Nat.div_le_iff_le_mul_add_pred h, Nat.mul_comm rate k, Nat.add_le_add_iff_right]

/-- A time is at or after the gate's opening when it lies 4 ms past the exchange's end and the FETCH's bytes are within the ceiling at it: the opening time is the earliest such. -/
theorem gateTime_le_iff {ceiling : Nat} (h : 1 ≤ ceiling) (fetchAt bytes endAt t : Nat) : gateTime fetchAt bytes endAt (some ceiling) ≤ t ↔
    endAt + 4000 ≤ t ∧ fetchAt ≤ t ∧ bytes * 1000000 ≤ (t - fetchAt) * (ceiling * 1048576) := by
  have rate : 0 < ceiling * 1048576 := Nat.mul_pos h (by decide)
  have waits : ∀ wait, fetchAt + wait ≤ t ↔ fetchAt ≤ t ∧ wait ≤ t - fetchAt := fun _ => by omega
  unfold gateTime
  rw [Nat.max_le, waits, roundedUp_le_iff rate]

/-- Settles O57: SET PACING through the change of permission it makes, the gate's row, and the opening time as the least time that its two bounds allow. -/
theorem pacingGate : Obligations.PacingGate := by
  unfold Obligations.PacingGate
  refine ⟨fun s tag body h => ?setPacing, fun s l h => ?gateOpens, Duty.effectiveCeiling_eq, fun fetchAt bytes endAt ceiling hc => ?opening⟩
  case setPacing =>
    intro inRange
    refine ⟨fun bad => State.request_refused h (Block.setPacing_range _ bad), fun good => ?_⟩
    have owner := s.blk.setPacing_taken good
    obtain ⟨mode, wake, timer, share, eligible, repairs⟩ := Block.permissionChange_duty { s.blk with duty := s.blk.duty.paced body } s.blk.duty
    refine ⟨_, (State.request_takes h _).trans (by rw [owner]; rfl), share, fun l => ?_, repairs, ?_, mode, wake, timer⟩
    · rw [eligible]
      exact eligibleAsked_lane body l
    · rw [share, eligible, repairs]
      rfl
  case gateOpens =>
    exact ⟨fun none => State.event_still h (Block.gateOpens_none none) h.quiet h.told,
      fun t shut => (State.event_live h.live _).trans (by rw [Block.gateOpens_shut shut])⟩
  case opening =>
    intro within _
    have opens := gateTime_le_iff hc fetchAt bytes endAt
    exact ⟨(opens _).1 (Nat.le_refl _), fun t => (opens t).2⟩

end Sys2Proof.Machine
end

section
/-! SUPPORT. How a request is answered (R200, R201): its owner refuses it and leaves the part as it was, or takes it and sends nothing of its own. Said once over the 37 request rows; then
the port's checks, the requests that wait, and the frame of a refusal. -/
namespace Sys2Proof.Machine

/-! ## What an owner answers -/

/-- An owner refuses a request and leaves the part as it was (R5, R201), or takes it; no owner puts a frame into the outbound queue. -/
inductive Block.Answers (b : Block) : Block × Reply → Prop
  | refused (reason : Reason) : b.Answers (b.refuse reason)
  | done (c : Block) (results : List Byte) (unsent : c.port.outbound.length ≤ b.port.outbound.length) : b.Answers (c.done results)

/-- The blocks' own moves leave the outbound queue as it is: they only raise notices (R204). -/
theorem Inner.outbound {a b : Block} (h : Inner a b) : b.port.outbound = a.port.outbound := by
  obtain ⟨ns, e⟩ := h.port
  rw [e]

variable {b : Block}

/-- A request taken that leaves the outbound queue as it is. -/
theorem Block.Answers.same {c : Block} {results : List Byte} (h : c.port.outbound = b.port.outbound := by rfl) : b.Answers (c.done results) :=
  .done c results (Nat.le_of_eq (congrArg List.length h))

/-- A request taken by the blocks' own moves, from a part with the outbound queue that stood. -/
theorem Block.Answers.inner {a c : Block} {results : List Byte} (h : Inner a c) (same : a.port.outbound = b.port.outbound := by rfl) : b.Answers (c.done results) :=
  .same (h.outbound.trans same)

theorem Block.Answers.onManifest {n : Nat} {f : Fin 16 → Manifest → Block × Reply} (h : ∀ k m, b.Answers (f k m)) : b.Answers (b.onManifest n f) := by
  unfold Block.onManifest
  split
  · exact .refused _
  · split
    · exact .refused _
    · exact h _ _

theorem Block.Answers.onLane {n : Nat} {f : Fin 8 → Block × Reply} (h : ∀ l, b.Answers (f l)) : b.Answers (b.onLane n f) := by
  unfold Block.onLane
  split
  · exact .refused _
  · exact h _

theorem Block.Answers.onCampaign {n : Nat} {f : Campaign → Block × Reply} (h : ∀ c, b.Answers (f c)) : b.Answers (b.onCampaign n f) := by
  unfold Block.onCampaign
  split
  · exact .refused _
  · exact h _

/-! ## The Fixity Store -/

theorem Block.openManifest_answers (body : List Byte) : b.Answers (b.openManifest body) := by
  unfold Block.openManifest
  split
  · exact .refused _
  · split
    · exact .refused _
    · split
      · exact .refused _
      · split
        · exact .refused _
        · exact .same

theorem Block.loadRecords_answers (body : List Byte) : b.Answers (b.loadRecords body) :=
  .onManifest fun k m => by
    split
    · exact .refused _
    · split
      · exact .refused _
      · exact .same

theorem Block.completeManifest_answers (body : List Byte) : b.Answers (b.completeManifest body) :=
  .onManifest fun k m => by
    split
    · exact .same
    · exact .refused _

theorem Block.eraseManifest_answers (body : List Byte) : b.Answers (b.eraseManifest body) :=
  .onManifest fun k m => by
    split
    · exact .refused _
    · exact .same

theorem Block.bindCopies_answers (body : List Byte) : b.Answers (b.bindCopies body) :=
  .onManifest fun k m => by
    split
    · exact .refused _
    · split
      · split
        · exact .refused _
        · exact .same
      · exact .refused _

theorem Block.readManifest_answers (body : List Byte) : b.Answers (b.readManifest body) := by
  unfold Block.readManifest
  split
  · exact .refused _
  · split <;> exact .same

theorem Block.readRecords_answers (body : List Byte) : b.Answers (b.readRecords body) :=
  .onManifest fun k m => by
    split
    · exact .same
    · exact .refused _

/-! ## The Lane Controllers and the Annotation Capture -/

theorem Block.bringUpLane_answers (body : List Byte) : b.Answers (b.bringUpLane body) :=
  .onLane fun l => by
    split
    · exact .inner ((Inner.refl _).enterSettling l _ _)
    · exact .refused _

theorem Block.putDownLane_answers (body : List Byte) : b.Answers (b.putDownLane body) :=
  .onLane fun l => by
    split
    · exact .refused _
    · split
      · exact .same
      · exact .inner ((Inner.refl b).putDown l)

theorem Block.restartLane_answers (body : List Byte) : b.Answers (b.restartLane body) :=
  .onLane fun l => by
    split
    · exact .inner ((Inner.refl _).enterSettling l _ _)
    · exact .refused _

theorem Block.setLane_answers (body : List Byte) : b.Answers (b.setLane body) :=
  .onLane fun l => by
    split
    · exact .refused _
    · next st _ => exact .inner (.ask (.regateIfChanged (Inner.refl (b.updLane l fun ln => { ln with settings := st })) l _) l)

theorem Block.readLane_answers (body : List Byte) : b.Answers (b.readLane body) := .onLane fun _ => .same

theorem Block.setCapture_answers (body : List Byte) : b.Answers (b.setCapture body) := by
  unfold Block.setCapture
  split
  · exact .same
  · exact .refused _

theorem Block.readCapture_answers (body : List Byte) : b.Answers (b.readCapture body) := by
  unfold Block.readCapture
  split
  · exact .same
  · exact .refused _

/-! ## Campaigns -/

theorem Block.acceptCampaign_answers (c : Campaign) : b.Answers (b.acceptCampaign c) := by
  unfold Block.acceptCampaign
  dsimp only
  split
  · exact .inner ((Inner.refl _).ask c.lane)
  · exact .same

theorem Block.verify_answers (body : List Byte) : b.Answers (b.verify body) := by
  unfold Block.verify
  split
  · exact .refused _
  · split
    · exact .refused _
    · split
      · exact .refused _
      · split
        · exact .refused _
        · split
          · exact .refused _
          · split
            · exact .refused _
            · exact Block.acceptCampaign_answers _

theorem Block.resumeHeld_answers (c : Campaign) : b.Answers (b.resumeHeld c) := by
  unfold Block.resumeHeld
  split
  · exact .inner ((Inner.refl b).closeCampaign _ _ _ _)
  · exact .inner ((Inner.refl _).releaseCampaign c.id _)

theorem Block.resumeCampaign_answers (body : List Byte) : b.Answers (b.resumeCampaign body) :=
  .onCampaign fun c => by
    split
    · exact .refused _
    · split
      · exact .refused _
      · exact Block.resumeHeld_answers c

theorem Block.abandonCampaign_answers (body : List Byte) : b.Answers (b.abandonCampaign body) :=
  .onCampaign fun c => by
    split
    · exact .inner (((Inner.refl b).campaignEndsSession c).closeCampaign _ _ _ _)
    · exact .refused _

theorem Block.dismissCampaign_answers (body : List Byte) : b.Answers (b.dismissCampaign body) :=
  .onCampaign fun c => by
    split
    · exact .refused _
    · split
      · exact .refused _
      · exact .same

theorem Block.readCampaign_answers (body : List Byte) : b.Answers (b.readCampaign body) := by
  unfold Block.readCampaign
  split
  · exact .same
  · exact .onCampaign fun _ => .same

/-! ## The Finding Recorder -/

theorem Block.readFindings_answers (body : List Byte) : b.Answers (b.readFindings body) := by
  unfold Block.readFindings
  split
  · exact .same
  · exact .refused _

theorem Block.acknowledge_answers (body : List Byte) : b.Answers (b.acknowledge body) := by
  unfold Block.acknowledge
  dsimp only
  split
  · exact .refused _
  · have drained := Inner.drainPending b.recorder.pending.length (Inner.refl { b with recorder := b.recorder.mark (fieldAt body 0 4) })
    split
    · exact .inner drained
    · exact .inner (drained.raise _)

theorem Block.setProfile_answers (body : List Byte) : b.Answers (b.setProfile body) := by
  unfold Block.setProfile
  split
  · exact .same
  · exact .refused _

theorem Block.selectProfile_answers (body : List Byte) : b.Answers (b.selectProfile body) := by
  unfold Block.selectProfile
  split
  · exact .refused _
  · exact .same

theorem Block.readFlags_answers : b.Answers b.readFlags := .same

theorem Block.clearFlags_answers (body : List Byte) : b.Answers (b.clearFlags body) := by
  unfold Block.clearFlags
  split
  · exact .same
  · exact .refused _

/-! ## The Repair Engine -/

theorem Block.enqueueSuspects_answers (body : List Byte) : b.Answers (b.enqueueSuspects body) := by
  unfold Block.enqueueSuspects
  split
  · split
    · exact .refused _
    · split
      · exact .refused _
      · split
        · exact .refused _
        · split
          · exact .refused _
          · exact .inner (Inner.startPass (Inner.foldl (fun _ frame walked => walked.enqueueHost _ _ _ _ frame) _ (Inner.refl b)))
  · exact .refused _

theorem Block.withdrawEntry_answers (e : Entry) : b.Answers (b.withdrawEntry e) := by
  have ended : Inner b (b.endStep e) := by
    unfold Block.endStep
    split
    · exact (Inner.refl b).endOwner _
    · exact Inner.refl b
  unfold Block.withdrawEntry
  split
  · exact .inner ((Inner.refl b).dropEntry _).startPass
  · exact .inner (ended.withdrawStarted _).startPass
  · exact .inner ((Inner.refl b).withdrawStarted _).startPass
  · exact .refused _
  · exact .refused _

theorem Block.withdrawSuspect_answers (body : List Byte) : b.Answers (b.withdrawSuspect body) := by
  unfold Block.withdrawSuspect
  split
  · exact .refused _
  · split
    · exact .refused _
    · exact Block.withdrawEntry_answers _

theorem Block.readSuspects_answers (body : List Byte) : b.Answers (b.readSuspects body) := by
  unfold Block.readSuspects
  split
  · exact .same
  · exact .refused _

theorem Block.setRepair_answers (body : List Byte) : b.Answers (b.setRepair body) := by
  unfold Block.setRepair
  split
  · exact .refused _
  · dsimp only
    split
    · exact .same
    · exact .inner (Inner.refl _).testStaged

/-! ## The Duty Controller -/

theorem Block.setDuty_answers (body : List Byte) : b.Answers (b.setDuty body) := by
  unfold Block.setDuty
  split
  · exact .refused _
  · next w _ =>
    split
    · exact .same
    · obtain ⟨d, switched⟩ := b.switchDuty_inner w.mode
      exact .inner switched

theorem Block.hold_answers (body : List Byte) : b.Answers (b.hold body) := by
  unfold Block.hold
  split
  · exact .refused _
  · next w _ =>
    split
    · obtain ⟨d, entered⟩ := b.enterHeld_inner w (fieldAt body 1 2)
      exact .inner entered
    · exact .refused _

theorem Block.wake_answers (body : List Byte) : b.Answers (b.wake body) := by
  unfold Block.wake
  split
  · exact .refused _
  · next w _ =>
    obtain ⟨d, left⟩ := b.leaveHeld_inner w .wake
    exact .inner left

theorem Block.setPacing_answers (body : List Byte) : b.Answers (b.setPacing body) := by
  unfold Block.setPacing
  split
  · split
    · exact .inner ((Inner.refl _).permissionChange b.duty)
    · exact .refused _
  · exact .refused _

theorem Block.calibrateLane_answers (body : List Byte) : b.Answers (b.calibrateLane body) :=
  .onLane fun l => by
    split
    · exact .refused _
    · split
      · exact .refused _
      · exact .inner ((Inner.refl b).startCalibration l)

theorem Block.readDuty_answers : b.Answers b.readDuty := .same

/-! ## RESTART ENGINE -/

theorem Block.dutyRestarted_port (b : Block) (w : WakeMode) (t : Nat) : (b.dutyRestarted w t).port = b.port := rfl

/-- A restart keeps of the outbound queue the frame in transmission (R207; log entry 6). -/
theorem Block.restarted_outbound (b : Block) : b.restarted.port.outbound = b.port.outbound.take 1 := by
  have lanes := (Inner.lanesRestarted (Inner.refl b.partsRestarted)).outbound
  have decided : Inner (b.partsRestarted.lanesRestarted.dutyRestarted b.duty.restartWake b.clock) b.restarted := Inner.restartDecisions (Inner.refl _)
  rw [decided.outbound, Block.dutyRestarted_port, lanes]
  rfl

theorem Block.restartEngine_answers : b.Answers b.restartEngine := by
  refine .done _ _ ?_
  rw [Block.raise_port]
  dsimp only
  rw [Block.restarted_outbound]
  exact List.length_take_le' _ _

/-! ## The request rows -/

/-- What a command that stands for a request `r` is: its tag and body are those of a frame (R197), and it is taken as the request of one owner; but NOT_A_REQUEST_KIND
with a kind of R202, which is not well formed, changes nothing (log entry 14). -/
structure AsksFor (c : Instr) (r : Request) : Prop where
  fits  : c.wellFormed = true → requestFits r.tag r.body = true
  taken : (∃ owner : Block → Block × Reply, (∀ b : Block, b.Answers (owner b)) ∧ ∀ s, exec c s = s.request r.kind r.tag r.body owner) ∨
    (c.wellFormed = false ∧ ∀ s, exec c s = s.event id)

theorem AsksFor.row {c : Instr} {r : Request} {owner : Block → Block × Reply} (fits : c.wellFormed = true → requestFits r.tag r.body = true)
    (answers : ∀ b : Block, b.Answers (owner b)) (taken : ∀ s, exec c s = s.request r.kind r.tag r.body owner) : AsksFor c r :=
  ⟨fits, .inl ⟨owner, answers, taken⟩⟩

theorem isRequestKind_iff (kind : Byte) : isRequestKind kind = true ↔ kind ∈ requestKinds := requestLength_isSome kind []

/-- A kind that R202 does not list is refused KIND by the port (R200, R201). -/
theorem exec_notARequestKind {kind : Byte} (unknown : kind ∉ requestKinds) (tag : Byte) (body : List Byte) (s : State) :
    exec (.notARequestKind kind tag body) s = s.request kind tag body (fun b => b.refuse .kind) :=
  if_neg (mt (isRequestKind_iff kind).1 unknown)

theorem notARequestKind_asks (kind tag : Byte) (body : List Byte) : AsksFor (.notARequestKind kind tag body) { kind := kind, tag := tag, body := body } := by
  have wellFormed : (Instr.notARequestKind kind tag body).wellFormed = (requestFits tag body && !requestKinds.contains kind) := rfl
  refine ⟨fun w => (Bool.and_eq_true_iff.1 (wellFormed ▸ w)).1, ?_⟩
  by_cases known : kind ∈ requestKinds
  · refine .inr ⟨?_, fun s => if_pos ((isRequestKind_iff kind).2 known)⟩
    rw [wellFormed, List.contains_iff_mem.2 known]
    exact Bool.and_false _
  · exact .inl ⟨_, fun _ => .refused .kind, exec_notARequestKind known tag body⟩

/-- The 37 request rows. -/
theorem asks_of_requestOf {c : Instr} {r : Request} (h : requestOf c = some r) : AsksFor c r := by
  cases c with
  | notARequestKind kind tag body => cases h; exact notARequestKind_asks kind tag body
  | openManifest tag body => cases h; exact .row id (fun _ => Block.openManifest_answers body) fun _ => rfl
  | loadRecords tag body => cases h; exact .row id (fun _ => Block.loadRecords_answers body) fun _ => rfl
  | completeManifest tag body => cases h; exact .row id (fun _ => Block.completeManifest_answers body) fun _ => rfl
  | eraseManifest tag body => cases h; exact .row id (fun _ => Block.eraseManifest_answers body) fun _ => rfl
  | bindCopies tag body => cases h; exact .row id (fun _ => Block.bindCopies_answers body) fun _ => rfl
  | readManifest tag body => cases h; exact .row id (fun _ => Block.readManifest_answers body) fun _ => rfl
  | readRecords tag body => cases h; exact .row id (fun _ => Block.readRecords_answers body) fun _ => rfl
  | bringUpLane tag body => cases h; exact .row id (fun _ => Block.bringUpLane_answers body) fun _ => rfl
  | putDownLane tag body => cases h; exact .row id (fun _ => Block.putDownLane_answers body) fun _ => rfl
  | restartLane tag body => cases h; exact .row id (fun _ => Block.restartLane_answers body) fun _ => rfl
  | setLane tag body => cases h; exact .row id (fun _ => Block.setLane_answers body) fun _ => rfl
  | readLane tag body => cases h; exact .row id (fun _ => Block.readLane_answers body) fun _ => rfl
  | setCapture tag body => cases h; exact .row id (fun _ => Block.setCapture_answers body) fun _ => rfl
  | readCapture tag body => cases h; exact .row id (fun _ => Block.readCapture_answers body) fun _ => rfl
  | verify tag body => cases h; exact .row id (fun _ => Block.verify_answers body) fun _ => rfl
  | resumeCampaign tag body => cases h; exact .row id (fun _ => Block.resumeCampaign_answers body) fun _ => rfl
  | abandonCampaign tag body => cases h; exact .row id (fun _ => Block.abandonCampaign_answers body) fun _ => rfl
  | dismissCampaign tag body => cases h; exact .row id (fun _ => Block.dismissCampaign_answers body) fun _ => rfl
  | readCampaign tag body => cases h; exact .row id (fun _ => Block.readCampaign_answers body) fun _ => rfl
  | readFindings tag body => cases h; exact .row id (fun _ => Block.readFindings_answers body) fun _ => rfl
  | acknowledge tag body => cases h; exact .row id (fun _ => Block.acknowledge_answers body) fun _ => rfl
  | setProfile tag body => cases h; exact .row id (fun _ => Block.setProfile_answers body) fun _ => rfl
  | selectProfile tag body => cases h; exact .row id (fun _ => Block.selectProfile_answers body) fun _ => rfl
  | readFlags tag body => cases h; exact .row id (fun _ => Block.readFlags_answers) fun _ => rfl
  | clearFlags tag body => cases h; exact .row id (fun _ => Block.clearFlags_answers body) fun _ => rfl
  | enqueueSuspects tag body => cases h; exact .row id (fun _ => Block.enqueueSuspects_answers body) fun _ => rfl
  | withdrawSuspect tag body => cases h; exact .row id (fun _ => Block.withdrawSuspect_answers body) fun _ => rfl
  | readSuspects tag body => cases h; exact .row id (fun _ => Block.readSuspects_answers body) fun _ => rfl
  | setRepair tag body => cases h; exact .row id (fun _ => Block.setRepair_answers body) fun _ => rfl
  | setDuty tag body => cases h; exact .row id (fun _ => Block.setDuty_answers body) fun _ => rfl
  | hold tag body => cases h; exact .row id (fun _ => Block.hold_answers body) fun _ => rfl
  | wake tag body => cases h; exact .row id (fun _ => Block.wake_answers body) fun _ => rfl
  | setPacing tag body => cases h; exact .row id (fun _ => Block.setPacing_answers body) fun _ => rfl
  | calibrateLane tag body => cases h; exact .row id (fun _ => Block.calibrateLane_answers body) fun _ => rfl
  | readDuty tag body => cases h; exact .row id (fun _ => Block.readDuty_answers) fun _ => rfl
  | restartEngine tag body => cases h; exact .row id (fun _ => Block.restartEngine_answers) fun _ => rfl
  | _ => cases h

/-- A well-formed request is the request of one owner (R200, R202). -/
theorem exec_request {c : Instr} {r : Request} (h : requestOf c = some r) (w : c.wellFormed = true) :
    ∃ owner, ∀ s, exec c s = s.request r.kind r.tag r.body owner := by
  rcases (asks_of_requestOf h).taken with ⟨owner, -, taken⟩ | ⟨bad, -⟩
  · exact ⟨owner, taken⟩
  · rw [w] at bad
    cases bad

/-! ## The port's own checks (R200, R201, R202) -/

/-- A request that is ready is checked by the port, then taken to its owner, and answered. -/
theorem State.request_ready {s : State} {r : Request} (h : s.Ready r) (owner : Block → Block × Reply) :
    s.request r.kind r.tag r.body owner = .next (s.answered (s.blk.apply r owner).1 r.kind r.tag (s.blk.apply r owner).2) := by
  unfold State.request
  rw [Block.requestStep_taken h.live h.head h.place]
  rfl

/-- A request that the port refuses is answered with the reason, and nothing else changes. -/
theorem State.request_barred {s : State} {r : Request} (h : s.Ready r) {reason : Reason} (bars : portRefusal r s.blk.duty.mode = some reason)
    (owner : Block → Block × Reply) : s.request r.kind r.tag r.body owner = .next (s.replied s.blk r.kind r.tag (.refused reason)) := by
  rw [State.request_ready h, Block.apply_refused bars, State.answered_quiet h.quiet rfl h.told]

section
variable {r : Request} {mode : DutyMode}

theorem portRefusal_kind (h : requestLength r.kind r.body = none) : portRefusal r mode = some .kind := by
  unfold portRefusal
  rw [h]

theorem portRefusal_form {n : Nat} (h : requestLength r.kind r.body = some n) (wrong : r.body.length ≠ n) : portRefusal r mode = some .form := by
  unfold portRefusal
  rw [h]
  exact if_pos wrong

theorem portRefusal_duty (h : requestLength r.kind r.body = some r.body.length) (barred : requestModes r.kind mode = false) :
    portRefusal r mode = some .duty := by
  unfold portRefusal
  rw [h, barred]
  exact if_neg (not_not.2 rfl)

end

/-- Settles O17: each of the port's refusals, for a well-formed request and for NOT_A_REQUEST_KIND. -/
theorem portChecksInOrder : Obligations.PortChecksInOrder := by
  refine ⟨fun c r s h w ready => ?checks, fun kind tag body s unknown ready => ?unlisted⟩
  case checks =>
    obtain ⟨owner, taken⟩ := exec_request h w
    rw [taken]
    exact ⟨fun kind => State.request_barred ready (portRefusal_kind kind) owner,
      fun n length wrong => State.request_barred ready (portRefusal_form length wrong) owner,
      fun length barred => State.request_barred ready (portRefusal_duty length barred) owner⟩
  case unlisted =>
    have length : requestLength kind body = none := by
      rw [← Option.not_isSome_iff_eq_none, requestLength_isSome]
      exact unknown
    rw [exec_notARequestKind unknown]
    exact State.request_barred ready (portRefusal_kind length) _

/-! ## The frame of a refusal (R201) -/

theorem OutFrame.mem_map_fold {fs : List OutFrame} {f : OutFrame} {last : Nat}
    (h : f ∈ fs.map (fun f => if f.isLogAdvanced then .notice (.logAdvanced last) else f)) : f ∈ fs ∨ f.isNotice = true := by
  obtain ⟨g, hg, e⟩ := List.mem_map.1 h
  split at e
  · exact .inr (e ▸ rfl)
  · exact .inl (e ▸ hg)

/-- Bringing a LOG_ADVANCED up to date puts notices only in the places of the queue. -/
theorem Port.foldLog_sent {p : Port} {last k : Nat} {f : OutFrame} (h : f ∈ (p.foldLog last).outbound.drop k) :
    f ∈ p.outbound.drop k ∨ f.isNotice = true := by
  unfold Port.foldLog at h
  split at h
  · exact .inl h
  · next first rest queue =>
    rw [queue]
    cases k with
    | zero =>
      rcases List.mem_cons.1 h with rfl | behind
      · exact .inl List.mem_cons_self
      · exact (OutFrame.mem_map_fold behind).imp_left (List.mem_cons_of_mem first)
    | succ k =>
      rw [List.drop_succ_cons, ← List.map_drop] at h
      exact OutFrame.mem_map_fold h

theorem Port.place_sent {p : Port} {n : Notice} {k : Nat} {f : OutFrame} (h : f ∈ (p.place n).outbound.drop k) : f ∈ p.outbound.drop k ∨ f.isNotice = true := by
  unfold Port.place at h
  split at h
  · rw [List.drop_append] at h
    exact (List.mem_append.1 h).imp_right fun new => by
      rw [List.mem_singleton.1 (List.mem_of_mem_drop new)]
      rfl
  · exact .inl h

/-- Queueing notices puts notices only behind any place of the queue. -/
theorem Port.queueAll_sent {k : Nat} {f : OutFrame} : ∀ (ns : List Notice) {p : Port}, f ∈ (ns.foldl Port.queueNotice p).outbound.drop k →
    f ∈ p.outbound.drop k ∨ f.isNotice = true
  | [], _, h => .inl h
  | n :: ns, p, h => by
    rcases Port.queueAll_sent ns h with queued | notice
    · rcases p.queueNotice_cases n with e | ⟨last, e⟩ <;> rw [e] at queued
      · exact Port.place_sent queued
      · exact Port.foldLog_sent queued
    · exact .inr notice

/-- Behind the frames that stood before, the answer to a request puts its reply and notices. -/
theorem State.answered_sent {s : State} {b : Block} {kind tag : Byte} {rep : Reply} {k : Nat} {f : OutFrame} (unsent : b.port.outbound.length ≤ k)
    (h : f ∈ (s.answered b kind tag rep).blk.port.outbound.drop k) : f = .reply (replyKind kind) tag rep ∨ f.isNotice = true := by
  have queue : b.settleWork.port.outbound = b.port.outbound := (Inner.settleWork (Inner.refl b)).outbound
  refine (Port.queueAll_sent _ h).imp_left fun sent => ?_
  change f ∈ (b.settleWork.port.outbound ++ [OutFrame.reply (replyKind kind) tag rep]).drop k at sent
  rw [queue, List.drop_append, List.drop_eq_nil_of_le unsent, List.nil_append] at sent
  exact List.mem_singleton.1 (List.mem_of_mem_drop sent)

/-- The reply that a refusal queues names its reason. -/
theorem State.replied_sent {s : State} {b : Block} {kind tag : Byte} {rep rep' : Reply}
    (h : OutFrame.reply (replyKind kind) tag rep' ∈ (s.replied b kind tag rep).blk.port.outbound.drop s.blk.port.outbound.length) : rep' = rep := by
  change OutFrame.reply (replyKind kind) tag rep' ∈ (s.blk.port.outbound ++ [OutFrame.reply (replyKind kind) tag rep]).drop s.blk.port.outbound.length at h
  rw [List.drop_left, List.mem_singleton] at h
  cases h
  rfl

/-- Settles O18: the port or the owner has refused the request and left the part as it was; a request that is taken queues no refusal. -/
theorem refusedRequestChangesNothing : Obligations.RefusedRequestChangesNothing := by
  intro c r s t reason h ready e sent
  have refusedBy : ∀ why, t = s.replied s.blk r.kind r.tag (.refused why) → t = s.replied s.blk r.kind r.tag (.refused reason) := by
    rintro why rfl
    rw [State.replied_sent sent]
  rcases (asks_of_requestOf h).taken with ⟨owner, answers, taken⟩ | ⟨-, still⟩
  · rw [taken] at e
    cases port : portRefusal r s.blk.duty.mode with
    | some why =>
      rw [State.request_barred ready port] at e
      exact refusedBy why (Host.Outcome.next.inj e).symm
    | none =>
      rw [State.request_ready ready, Block.apply_owner port] at e
      have answer := answers s.blk
      generalize owner s.blk = out at answer e
      cases answer with
      | refused why => exact refusedBy why ((Host.Outcome.next.inj e).symm.trans (State.answered_quiet ready.quiet rfl ready.told _ _ _))
      | done b results unsent =>
        cases e
        rcases State.answered_sent unsent sent with reply | notice
        · cases reply
        · cases notice
  · rw [still, State.event_still ⟨ready.live, ready.quiet, ready.told⟩ rfl ready.quiet ready.told] at e
    cases e
    have none_sent : s.blk.port.outbound.drop s.blk.port.outbound.length = [] := List.drop_length
    exact absurd (none_sent ▸ sent) List.not_mem_nil

/-! ## Requests that wait (R199, R200) -/

/-- The part when the receiver has heard the request: one that is not at the head of the queue is received first (log entry 1). -/
def Block.heard (b : Block) (r : Request) : Block := if b.port.inbound.head? = some r then b else { b with port := b.port.hear r }

section
variable {r : Request}

/-- A request step hears the request; then the port takes it, or nothing but what hearing raised is left to do. -/
theorem Block.requestStep_heard (live : b.resetLine = false) (owner : Block → Block × Reply) : b.requestStep r owner =
    if (b.heard r).port.canTake r then
      { ((b.heard r).apply r owner).1.settleWork with
        port := ((b.heard r).apply r owner).1.settleWork.port.answer r ((b.heard r).apply r owner).2 }
    else (b.heard r).flush := by
  have released : ¬ b.resetLine = true := by simp [live]
  exact if_neg released

theorem Block.heard_head (h : b.port.inbound.head? = some r) : b.heard r = b := if_pos h

theorem Port.hear_eq_accept {p : Port} (fits : requestFits r.tag r.body = true) : p.hear r = p.accept r := by
  rw [requestFits, Bool.and_eq_true, bne_iff_ne, decide_eq_true_eq] at fits
  unfold Port.hear
  rw [if_neg (Nat.not_lt.2 fits.2), if_neg fits.1]

theorem Block.heard_new (fits : requestFits r.tag r.body = true) (h : b.port.inbound.head? ≠ some r) :
    b.heard r = { b with port := b.port.accept r } := by
  unfold Block.heard
  rw [if_neg h, Port.hear_eq_accept fits]

theorem Port.canTake_eq_false {p : Port} (h : p.inbound.head? ≠ some r ∨ 4 ≤ p.repliesUsed) : p.canTake r = false := by
  rw [← Bool.not_eq_true, Port.canTake, Bool.and_eq_true, beq_iff_eq, decide_eq_true_eq]
  exact fun take => h.elim (absurd take.1) (Nat.not_le.2 take.2)

/-- A request that, once heard, is not at the head of the queue or finds no reply place free waits. -/
theorem Block.requestStep_waits (live : b.resetLine = false) (waits : (b.heard r).port.inbound.head? ≠ some r ∨ 4 ≤ (b.heard r).port.repliesUsed)
    (owner : Block → Block × Reply) : b.requestStep r owner = (b.heard r).flush := by
  rw [Block.requestStep_heard live, Port.canTake_eq_false waits]
  exact if_neg Bool.false_ne_true

theorem Port.accept_room {p : Port} (room : p.inbound.length < 4) : p.accept r = { p with inbound := p.inbound ++ [r] } := if_pos room

theorem Port.accept_full {p : Port} (full : 4 ≤ p.inbound.length) : p.accept r = { p with raised := p.raised ++ [.requestDropped r.kind r.tag] } :=
  if_neg (Nat.not_lt.2 full)

/-- With nothing raised a flush leaves the block as it is. -/
theorem Block.flush_told (told : b.told) : b.flush = b := by
  unfold Block.flush
  rw [Port.flush_nil told]

/-- With nothing raised before it, one notice raised is the one that a flush queues. -/
theorem Port.flush_raise {p : Port} (told : p.raised = []) (n : Notice) : ({ p with raised := p.raised ++ [n] } : Port).flush = p.queueNotice n := by
  have cleared : ({ p with raised := [] } : Port) = p := by rw [← told]
  rw [told, Port.flush_one (n := n) rfl]
  exact congrArg (Port.queueNotice · n) cleared

/-- The part where the request stands alone in the queue. -/
def Block.alone (b : Block) (r : Request) : Block := { b with port := { b.port with inbound := [r] } }

/-- A request that finds the queue empty is heard as the one that stands alone in it. -/
theorem Block.heard_empty (fits : requestFits r.tag r.body = true) (empty : b.port.inbound = []) : b.heard r = b.alone r := by
  have first : b.port.inbound.head? ≠ some r := by
    rw [empty]
    exact nofun
  rw [Block.heard_new fits first, Port.accept_room (by rw [empty]; decide), empty]
  rfl

theorem Block.requestStep_alone (live : b.resetLine = false) (fits : requestFits r.tag r.body = true) (empty : b.port.inbound = [])
    (owner : Block → Block × Reply) : b.requestStep r owner = (b.alone r).requestStep r owner := by
  have standing : (b.alone r).heard r = b.alone r := Block.heard_head rfl
  rw [Block.requestStep_heard live, Block.requestStep_heard (b := b.alone r) live, standing, Block.heard_empty fits empty]

end

/-- Settles O19: the request is heard as it stands in the queue, and taken only from the head with a reply place free. -/
theorem requestsWaitOrAreDropped : Obligations.RequestsWaitOrAreDropped := by
  intro c r s h w live told
  have fits := (asks_of_requestOf h).fits w
  obtain ⟨owner, taken⟩ := exec_request h w
  have exec_eq : ∀ (t : State) {b : Block}, t.blk.requestStep r owner = b → exec c t = .next { t with blk := b } := fun t b e => by
    rw [taken, State.request, e]
  refine ⟨fun head full => ?atHead, fun empty => ⟨fun _ => ?alone, fun full => ?aloneFull⟩, fun head behind room => ?behind, fun head held => ?dropped⟩
  case atHead =>
    have stands := Block.heard_head head
    refine exec_eq s ((Block.requestStep_waits live (.inr ?_) owner).trans ?_)
    · rwa [stands]
    · rw [stands, Block.flush_told told]
  case alone =>
    have takenAlone : exec c { s with blk := s.blk.alone r } = _ := exec_eq _ rfl
    exact (exec_eq s (Block.requestStep_alone live fits empty owner)).trans takenAlone.symm
  case aloneFull =>
    have heard := Block.heard_empty fits empty
    refine exec_eq s ((Block.requestStep_waits live (.inr ?_) owner).trans ?_)
    · rwa [heard]
    · rw [heard, Block.flush_told (b := s.blk.alone r) told]
      rfl
  case behind =>
    have heard := Block.heard_new fits head
    rw [Port.accept_room room] at heard
    refine exec_eq s ((Block.requestStep_waits live (.inl ?_) owner).trans ?_)
    · rw [heard]
      exact (List.head?_append_of_ne_nil _ behind).trans_ne head
    · rw [heard]
      exact Block.flush_told told
  case dropped =>
    have heard := Block.heard_new fits head
    rw [Port.accept_full held] at heard
    refine exec_eq s ((Block.requestStep_waits live (.inl ?_) owner).trans ?_)
    · rw [heard]
      exact head
    · rw [heard]
      exact congrArg (fun p => { s.blk with port := p }) (Port.flush_raise told _)

end Sys2Proof.Machine
end

section
/-! SUPPORT. The rows of the control link (R197, R198, R203, R205, R209): FRAME_SENT, what the receiver makes of the bytes it examines, and the frames it rejects. -/
namespace Sys2Proof.Machine

/-! ## Steps of the Control Port alone -/

/-- A step of the Control Port alone ends by queueing what the port raised. -/
theorem State.portStep_idle {s : State} (h : s.Idle) (f : Port → Port) :
    s.event (Block.portStep f) = .next { s with blk := { s.blk with port := (f s.blk.port).flush } } := by
  have quiet : (s.blk.portStep f).quiet := h.quiet
  rw [State.event_live h.live, State.after, Block.settleWork_quiet quiet]
  rfl

/-! ## FRAME_SENT (R203, R205) -/

theorem Port.frameSent_cons {p : Port} {f : OutFrame} {rest : List OutFrame} (h : p.outbound = f :: rest) : p.frameSent =
    if f.isNotice = true ∧ p.gap = true then { p with outbound := rest ++ [.notice (.noticeGap p.dropped)], gap := false, dropped := 0 }
    else { p with outbound := rest } := by
  unfold Port.frameSent
  rw [h]
  simp only [Bool.and_eq_true]

theorem Port.frameSent_raised (p : Port) : p.frameSent.raised = p.raised := by
  unfold Port.frameSent
  split
  · rfl
  · split <;> rfl

/-- Settles O20: the queue without its first frame, and nothing raised to be queued behind it. -/
theorem frameSentFreesItsPlace : Obligations.FrameSentFreesItsPlace := by
  intro s f rest idle queue
  have untold : s.blk.port.frameSent.raised = [] := (Port.frameSent_raised _).trans idle.told
  refine (State.portStep_idle idle Port.frameSent).trans ?_
  rw [Port.flush_nil untold, Port.frameSent_cons queue]

/-! ## The receiver examines bytes (R198) -/

/-- With no byte left the receiver has nothing in hand. -/
theorem Port.scan_nil (n : Nat) (p : Port) : Port.scan n [] p = { p with receiver := [] } := by
  cases n <;> rfl

/-- A hunting receiver passes over a byte other than 0xA5. -/
theorem Port.scan_pass {b : Byte} (h : b ≠ 0xA5) (n : Nat) (rest : List Byte) (p : Port) : Port.scan (n + 1) (b :: rest) p = Port.scan n rest p := if_pos h

theorem Port.scan_pass_all : ∀ {bs : List Byte} {n : Nat} (p : Port), bs.all (fun x => x != 0xA5) = true → bs.length ≤ n →
    Port.scan n bs p = { p with receiver := [] }
  | [], n, p, _, _ => Port.scan_nil n p
  | b :: bs, n + 1, p, h, hn => by
    rw [List.all_cons, Bool.and_eq_true, bne_iff_ne] at h
    rw [Port.scan_pass h.1]
    exact Port.scan_pass_all p h.2 (Nat.le_of_succ_le_succ hn)

/-- The fuel of a scan does not matter as long as it is past the number of bytes. -/
theorem Port.scan_fuel : ∀ {n m : Nat} {bs : List Byte} (p : Port), bs.length < n → bs.length < m → Port.scan n bs p = Port.scan m bs p
  | n + 1, m + 1, [], p, _, _ => rfl
  | n + 1, m + 1, b :: rest, p, hn, hm => by
    have onward : ∀ q, Port.scan n rest q = Port.scan m rest q := fun q => Port.scan_fuel q (Nat.lt_of_succ_lt_succ hn) (Nat.lt_of_succ_lt_succ hm)
    have later : ∀ k q, Port.scan n ((b :: rest).drop (8 + k)) q = Port.scan m ((b :: rest).drop (8 + k)) q := fun k q => by
      simp only [List.length_cons] at hn hm
      have fewer : ((b :: rest).drop (8 + k)).length ≤ rest.length := by
        rw [List.length_drop, List.length_cons]
        omega
      exact Port.scan_fuel q (by omega) (by omega)
    unfold Port.scan
    simp only [onward, later]

/-- A length past 1,024 behind a sync pair rejects the frame LENGTH; the bytes behind its 0xA5 are examined. -/
theorem Port.scan_long {rest : List Byte} (sync : rest.head? = some 0x5A) (enough : 3 ≤ rest.length) (long : 1024 < fieldAt rest 1 2) (n : Nat) (p : Port) :
    Port.scan (n + 1) (0xA5 :: rest) p = Port.scan n rest (p.reject .length 0 0) := by
  have some_rest : rest ≠ [] := by
    rintro rfl
    cases sync
  have length : ¬ (0xA5 :: rest).length < 4 := by
    rw [List.length_cons]
    omega
  have field : 1024 < fieldAt (0xA5 :: rest) 2 2 := long
  rw [Port.scan, if_neg (not_not.2 rfl), if_neg some_rest, if_neg (not_not.2 sync), if_neg length, if_pos field]

/-! ## The layout of a frame (R209) -/

/-- The bytes of a frame that its check covers: body length, kind, tag, body. -/
def checkedBytes (kind tag : Byte) (body : List Byte) : List Byte := beBytes 2 body.length ++ [kind, tag] ++ body

/-- A whole frame with a check of its own, and what follows it on the link. -/
def framed (kind tag : Byte) (body : List Byte) (check : Word16) (more : List Byte) : List Byte :=
  0xA5 :: 0x5A :: (checkedBytes kind tag body ++ beBytes 2 check.toNat ++ more)

section
variable (kind tag : Byte) (body more : List Byte) (check : Word16)

theorem linkFrame_append : linkFrame kind tag body ++ more = framed kind tag body (crc16 (checkedBytes kind tag body)) more := by
  simp [linkFrame, framed, checkedBytes]

theorem checkedBytes_length : (checkedBytes kind tag body).length = 4 + body.length := by
  simp only [checkedBytes, List.length_append, beBytes_length, List.length_cons, List.length_nil]

/-- A part of a sequence of bytes, as the layout that names its place and its length reads it. -/
theorem sliceAt_append {before part after : List Byte} {off len : Nat} (ho : off = before.length) (hl : len = part.length) :
    sliceAt (before ++ (part ++ after)) off len = part := by
  rw [sliceAt, ho, List.drop_left, hl, List.take_left]

/-- Two bytes carry the numbers below 65,536. -/
theorem beNat_beBytes_two {v : Nat} (h : v < 65536) : beNat (beBytes 2 v) = v := by
  show (0 * 256 + (BitVec.ofNat 8 (v / 256 ^ 1)).toNat) * 256 + (BitVec.ofNat 8 (v / 256 ^ 0)).toNat = v
  rw [BitVec.toNat_ofNat, BitVec.toNat_ofNat]
  omega

theorem framed_length : (framed kind tag body check more).length = 8 + body.length + more.length := by
  simp only [framed, List.length_cons, List.length_append, checkedBytes_length, beBytes_length]
  omega

theorem framed_bodyLength (h : body.length ≤ 1024) : fieldAt (framed kind tag body check more) 2 2 = body.length := by
  have slice : sliceAt (framed kind tag body check more) 2 2 = beBytes 2 body.length := rfl
  rw [fieldAt, slice, beNat_beBytes_two (by omega)]

theorem framed_checked : sliceAt (framed kind tag body check more) 2 (4 + body.length) = checkedBytes kind tag body := by
  have layout : framed kind tag body check more = [0xA5, 0x5A] ++ (checkedBytes kind tag body ++ (beBytes 2 check.toNat ++ more)) := by simp [framed]
  rw [layout]
  exact sliceAt_append rfl (checkedBytes_length kind tag body).symm

theorem framed_check : BitVec.ofNat 16 (fieldAt (framed kind tag body check more) (6 + body.length) 2) = check := by
  have layout : framed kind tag body check more = ([0xA5, 0x5A] ++ checkedBytes kind tag body) ++ (beBytes 2 check.toNat ++ more) := by simp [framed]
  have before : 6 + body.length = ([0xA5, 0x5A] ++ checkedBytes kind tag body).length := by
    rw [List.length_append, checkedBytes_length]
    exact (Nat.add_assoc 2 4 _)
  rw [layout, fieldAt, sliceAt_append before (beBytes_length _ _).symm, beNat_beBytes_two check.isLt, BitVec.ofNat_toNat, BitVec.setWidth_eq]

theorem framed_body : sliceAt (framed kind tag body check more) 6 body.length = body := by
  have layout : framed kind tag body check more = ([0xA5, 0x5A] ++ beBytes 2 body.length ++ [kind, tag]) ++ (body ++ (beBytes 2 check.toNat ++ more)) := by
    simp [framed, checkedBytes]
  rw [layout]
  exact sliceAt_append rfl rfl

theorem framed_drop : (framed kind tag body check more).drop (8 + body.length) = more := by
  have layout : framed kind tag body check more = ([0xA5, 0x5A] ++ checkedBytes kind tag body ++ beBytes 2 check.toNat) ++ more := by simp [framed]
  have before : 8 + body.length = ([0xA5, 0x5A] ++ checkedBytes kind tag body ++ beBytes 2 check.toNat).length := by
    simp only [List.length_append, checkedBytes_length, beBytes_length, List.length_cons, List.length_nil]
    omega
  rw [layout, before, List.drop_left]

variable {kind tag body check more} (n : Nat) (p : Port)

/-- A whole frame: its check is tested, then its tag, and it becomes a request (R198, R199). -/
theorem Port.scan_framed (h : body.length ≤ 1024) : Port.scan (n + 1) (framed kind tag body check more) p =
    if crc16 (checkedBytes kind tag body) ≠ check then Port.scan n (framed kind tag body check more).tail (p.reject .check kind tag)
    else if tag = 0 then Port.scan n more (p.reject .tag kind 0)
    else Port.scan n more (p.accept { kind := kind, tag := tag, body := body }) := by
  have length := framed_length kind tag body more check
  have bodyLength := framed_bodyLength kind tag body more check h
  have checked := framed_checked kind tag body more check
  have given := framed_check kind tag body more check
  have inside := framed_body kind tag body more check
  have behind := framed_drop kind tag body more check
  have kindAt : (framed kind tag body check more).getD 4 0 = kind := rfl
  have tagAt : (framed kind tag body check more).getD 5 0 = tag := rfl
  obtain ⟨rest, layout⟩ : ∃ rest, framed kind tag body check more = 0xA5 :: 0x5A :: rest := ⟨_, rfl⟩
  have sync : (0x5A :: rest).head? = some 0x5A := rfl
  rw [layout] at length bodyLength checked given inside behind kindAt tagAt ⊢
  rw [Port.scan, bodyLength, checked, given, inside, behind, kindAt, tagAt, length, if_neg (not_not.2 rfl), if_neg (List.cons_ne_nil _ _),
    if_neg (not_not.2 sync), if_neg (by omega), if_neg (by omega), if_neg (by omega)]
  rfl

end

/-! ## A rejected frame, and the bytes that are examined behind it -/

/-- The port with requests, receiver and notices raised of its own: what the receiver writes. -/
def Port.received (p : Port) (inbound : List Request) (receiver : List Byte) (raised : List Notice) : Port :=
  { p with inbound := inbound, receiver := receiver, raised := raised }

/-- Queueing a notice neither reads nor writes what the receiver writes. -/
theorem Port.queueNotice_received (p : Port) (i : List Request) (rc : List Byte) (rs : List Notice) (n : Notice) :
    (p.received i rc rs).queueNotice n = (p.queueNotice n).received i rc rs := by
  have place : (p.received i rc rs).place n = (p.place n).received i rc rs := by
    have used : (p.received i rc rs).noticesUsed = p.noticesUsed := rfl
    unfold Port.place
    rw [used]
    split <;> rfl
  have fold : ∀ last, (p.received i rc rs).foldLog last = (p.foldLog last).received i rc rs := fun last => by
    obtain ⟨inbound, outbound, gap, dropped, receiver, raised⟩ := p
    cases outbound <;> rfl
  cases n
  case logAdvanced last =>
    by_cases waits : p.outbound.tail.any OutFrame.isLogAdvanced = true
    · rw [Port.queueNotice_fold (p := p.received i rc rs) last waits, Port.queueNotice_fold last waits, fold]
    · have unwaited : p.outbound.tail.any OutFrame.isLogAdvanced = false := Bool.eq_false_iff.2 waits
      rw [Port.queueNotice_place (p := p.received i rc rs) (.inr unwaited), Port.queueNotice_place (.inr unwaited), place]
  all_goals exact place

/-- Two ports that differ in one notice alone: `p` has it raised first, and in `q` it is queued. -/
inductive Port.Ahead (base : Port) (n : Notice) : Port → Port → Prop
  | mk (inbound : List Request) (receiver : List Byte) (raised : List Notice) :
      Port.Ahead base n (base.received inbound receiver (n :: raised)) ((base.queueNotice n).received inbound receiver raised)

section
variable {base p q : Port} {n : Notice}

theorem Port.Ahead.flush (h : Port.Ahead base n p q) : p.flush = q.flush := by
  obtain ⟨i, rc, rs⟩ := h
  exact congrArg (rs.foldl Port.queueNotice) (Port.queueNotice_received base i rc [] n)

/-- A port that rejects a frame with nothing raised before has its notice raised, and one that has queued the notice is the other. -/
theorem Port.ahead_reject (told : p.raised = []) (cause : RejectCause) (kind tag : Byte) :
    Port.Ahead p (.frameRejected cause kind tag) (p.reject cause kind tag) (p.queueNotice (.frameRejected cause kind tag)) := by
  have untouched : p.received p.inbound p.receiver [] = p := by
    rw [← told]
    rfl
  have raised : p.reject cause kind tag = p.received p.inbound p.receiver [.frameRejected cause kind tag] := by
    rw [Port.reject, told]
    rfl
  have queued := Port.queueNotice_received p p.inbound p.receiver [] (.frameRejected cause kind tag)
  rw [untouched] at queued
  have ahead := Port.Ahead.mk (base := p) (n := .frameRejected cause kind tag) p.inbound p.receiver []
  rwa [← queued, ← raised] at ahead

theorem Port.Ahead.hold (h : Port.Ahead base n p q) (bs : List Byte) : Port.Ahead base n { p with receiver := bs } { q with receiver := bs } := by
  obtain ⟨i, rc, rs⟩ := h
  exact .mk i bs rs

theorem Port.Ahead.reject (h : Port.Ahead base n p q) (cause : RejectCause) (kind tag : Byte) :
    Port.Ahead base n (p.reject cause kind tag) (q.reject cause kind tag) := by
  obtain ⟨i, rc, rs⟩ := h
  exact .mk i rc (rs ++ [.frameRejected cause kind tag])

theorem Port.Ahead.accept (h : Port.Ahead base n p q) (r : Request) : Port.Ahead base n (p.accept r) (q.accept r) := by
  obtain ⟨i, rc, rs⟩ := h
  by_cases room : i.length < 4
  · rw [Port.accept_room (p := base.received i rc (n :: rs)) room, Port.accept_room (p := (base.queueNotice n).received i rc rs) room]
    exact .mk (i ++ [r]) rc rs
  · have full := Nat.le_of_not_lt room
    rw [Port.accept_full (p := base.received i rc (n :: rs)) full, Port.accept_full (p := (base.queueNotice n).received i rc rs) full]
    exact .mk i rc (rs ++ [.requestDropped r.kind r.tag])

/-- The receiver makes the same of the bytes that follow. -/
theorem Port.Ahead.scan : ∀ (k : Nat) (bs : List Byte) {p q : Port}, Port.Ahead base n p q → Port.Ahead base n (Port.scan k bs p) (Port.scan k bs q)
  | 0, bs, _, _, h => h.hold bs
  | k + 1, [], _, _, h => h.hold []
  | k + 1, b :: rest, p, q, h => by
    unfold Port.scan
    dsimp only
    split
    · exact h.scan k rest
    · split
      · exact h.hold _
      · split
        · exact h.scan k rest
        · split
          · exact h.hold _
          · split
            · exact (h.reject _ _ _).scan k rest
            · split
              · exact h.hold _
              · split
                · exact (h.reject _ _ _).scan k rest
                · split
                  · exact (h.reject _ _ _).scan k _
                  · exact (h.accept _).scan k _

end

theorem State.noticed_idle {s : State} (h : s.Idle) (n : Notice) : (s.noticed n).Idle :=
  ⟨h.live, h.quiet, (Port.queueNotice_queued _ _).2.trans h.told⟩

section
variable {s : State}

/-- Bytes that reach a receiver with nothing in hand. -/
theorem exec_controlLinkFrame (h : s.Idle) (nothing : s.blk.port.receiver = []) (bytes : List Byte) : exec (.controlLinkFrame bytes) s =
    .next { s with blk := { s.blk with port := (Port.scan (bytes.length + 1) bytes s.blk.port).flush } } := by
  refine (State.portStep_idle h _).trans ?_
  unfold Port.receive
  rw [nothing, List.nil_append, List.length_nil, Nat.zero_add]

/-- A frame that is rejected first: its notice is queued, and the bytes behind are examined as if they came by themselves. -/
theorem exec_controlLinkFrame_rejects (h : s.Idle) (nothing : s.blk.port.receiver = []) {bytes more : List Byte} {k : Nat} {cause : RejectCause} {kind tag : Byte}
    (rejects : Port.scan (bytes.length + 1) bytes s.blk.port = Port.scan k more (s.blk.port.reject cause kind tag)) (fuel : more.length < k) :
    exec (.controlLinkFrame bytes) s = exec (.controlLinkFrame more) (s.noticed (.frameRejected cause kind tag)) := by
  have queued := Port.queueNotice_queued s.blk.port (.frameRejected cause kind tag)
  have still_nothing : (s.noticed (.frameRejected cause kind tag)).blk.port.receiver = [] := queued.1.receiver.trans nothing
  have ahead := Port.ahead_reject h.told cause kind tag
  rw [exec_controlLinkFrame h nothing, exec_controlLinkFrame (State.noticed_idle h _) still_nothing, rejects, Port.scan_fuel _ fuel (Nat.lt_succ_self _),
    (ahead.scan _ more).flush]
  rfl

/-- A frame in reception is rejected with its kind and tag as far as received; with no 0xA5 behind its first byte the receiver then has nothing in hand (R198). -/
theorem Port.gapExpired_receiving {p : Port} (receiving : 2 ≤ p.receiver.length) (hunts : p.receiver.tail.all (fun x => x != 0xA5) = true) :
    p.gapExpired = { p.reject .gap (p.receiver.getD 4 0) (p.receiver.getD 5 0) with receiver := [] } := by
  have within : p.receiver.tail.length ≤ p.receiver.length + 1 := by
    rw [List.length_tail]
    omega
  exact (if_pos (decide_eq_true receiving)).trans (Port.scan_pass_all _ hunts within)

theorem Port.gapExpired_hunting {p : Port} (hunting : p.receiver.length < 2) : p.gapExpired = p :=
  if_neg (by simpa [Port.receiving] using hunting)

end

/-- Settles O22: a good frame, the three rejections with the bytes examined behind them, and the gap within a frame and outside one. -/
theorem receiverTakesFrames : Obligations.ReceiverTakesFrames := by
  refine ⟨fun s kind tag body idle nothing room tagged short => ?good, fun s rest idle nothing sync enough long => ?long,
    fun s kind tag body more check idle nothing short => ?check, fun s kind body more idle nothing short => ?untagged,
    fun s idle receiving hunts => ?gap, fun s idle hunting => ?lone⟩
  case good =>
    have frame := linkFrame_append kind tag body []
    rw [List.append_nil] at frame
    have received : Port.scan ((linkFrame kind tag body).length + 1) (linkFrame kind tag body) s.blk.port =
        { s.blk.port with inbound := s.blk.port.inbound ++ [{ kind := kind, tag := tag, body := body }], receiver := [] } := by
      rw [frame, Port.scan_framed _ _ short, if_neg (not_not.2 rfl), if_neg tagged, Port.scan_nil, Port.accept_room room]
    rw [← nothing] at received
    rw [exec_controlLinkFrame idle nothing, received, Port.flush_nil]
    exact idle.told
  case long =>
    exact exec_controlLinkFrame_rejects idle nothing (Port.scan_long sync enough long _ _) (Nat.lt_succ_self _)
  case check =>
    intro checked rest wrong
    refine exec_controlLinkFrame_rejects idle nothing ((Port.scan_framed _ _ short).trans (if_pos wrong.symm)) ?_
    exact Nat.lt_succ_self _
  case untagged =>
    rw [linkFrame_append]
    refine exec_controlLinkFrame_rejects idle nothing ((Port.scan_framed _ _ short).trans ((if_neg (not_not.2 rfl)).trans (if_pos rfl))) ?_
    rw [framed_length]
    omega
  case gap =>
    intro n
    have told : s.blk.port.raised = [] := idle.told
    refine (State.portStep_idle idle Port.gapExpired).trans ?_
    rw [Port.gapExpired_receiving receiving hunts]
    exact congrArg (fun p => Host.Outcome.next { s with blk := { s.blk with port := p } })
      (Port.flush_raise (p := { s.blk.port with receiver := [] }) told n)
  case lone =>
    refine (State.portStep_idle idle Port.gapExpired).trans ?_
    rw [Port.gapExpired_hunting hunting, Port.flush_nil idle.told]

end Sys2Proof.Machine
end

section
/-! SUPPORT. The places of the port over a step (R199, R203), the part right after a start, and the reset line while it is asserted (R206). -/
namespace Sys2Proof.Machine

/-! ## What every step keeps -/

/-- Settles O7: of the bounds that every step keeps, the places of the port. -/
theorem stepKeepsPortPlaces : Obligations.StepKeepsPortPlaces :=
  fun _ _ fits e => (step_stays e).port fits

/-- A start leaves nothing over and everything within its bounds, whatever its cause. -/
theorem Block.started_safe (cause : EngineCause) : (Block.started cause).Safe := by
  obtain ⟨quiet, told⟩ := Block.started_done cause
  obtain ⟨staging, port, pool, recorder, lanes⟩ := Block.started_bounds cause
  exact ⟨quiet, told, port, lanes, recorder, Nat.zero_le _, Nat.zero_le _, pool, staging⟩

/-- Settles O12: POWER_UP is one of the starts. -/
theorem resetIsSafe : Obligations.ResetIsSafe := Block.started_safe .powerUp

/-! ## The reset line (R206) -/

/-- While the reset line is asserted, a command that is made as an event or as a request changes nothing. -/
theorem State.event_reset {s : State} (h : s.blk.resetLine = true) (f : Block → Block) : s.event f = .next s := by
  unfold State.event
  rw [Block.eventStep_reset h]

theorem State.request_reset {s : State} (h : s.blk.resetLine = true) (kind tag : Byte) (body : List Byte) (owner : Block → Block × Reply) :
    s.request kind tag body owner = .next s := by
  unfold State.request
  rw [Block.requestStep_reset h]

/-- A command that stands for no request, and is neither a start nor the assertion of the reset line, is an event. -/
theorem exec_event {c : Instr} (h : requestOf c = none) (power : c ≠ .powerUp) (asserts : c ≠ .resetLineAsserted) (release : c ≠ .resetLineReleased) :
    ∃ f, ∀ s, exec c s = s.event f := by
  cases c with
  | powerUp => exact absurd rfl power
  | resetLineAsserted => exact absurd rfl asserts
  | resetLineReleased => exact absurd rfl release
  | controlLinkFrame | frameGapExpired | frameSent => exact ⟨_, fun _ => rfl⟩
  | hello | header | mark | payload | endUnit | trailer | notFound | fault | annotation => exact ⟨_, fun _ => rfl⟩
  | yield | resume | rewriteDone | rewriteFailed | unknownUnitType | rewriteEndSent => exact ⟨_, fun _ => rfl⟩
  | settleWaitExpired | stallTimerExpired | freshnessTimerExpired | holdTimerExpired | pacingGateOpens | rollupCompletes => exact ⟨_, fun _ => rfl⟩
  | _ => cases h

/-- While the reset line is asserted, every command but a start and the assertion of the line changes nothing (R206): it is a request or an event. -/
theorem exec_reset {s : State} (h : s.blk.resetLine = true) (c : Instr) (power : c ≠ .powerUp) (asserts : c ≠ .resetLineAsserted)
    (release : c ≠ .resetLineReleased) : exec c s = .next s := by
  cases request : requestOf c with
  | some r =>
    rcases (asks_of_requestOf request).taken with ⟨owner, -, taken⟩ | ⟨-, still⟩
    · rw [taken, State.request_reset h]
    · rw [still, State.event_reset h]
  | none =>
    obtain ⟨f, event⟩ := exec_event request power asserts release
    rw [event, State.event_reset h]

/-- A release of the asserted line is a start (R206). -/
theorem exec_resetLineReleased {s : State} (h : s.blk.resetLine = true) :
    exec .resetLineReleased s = .next { s with blk := Block.started .resetLine } := by
  show execResetLineReleased s = _
  unfold execResetLineReleased
  rw [if_pos h]

/-- Settles O4: the two starts, the assertion of the line, and every other command under it. -/
theorem powerUpAndResetLine : Obligations.PowerUpAndResetLine :=
  ⟨rfl, fun _ => rfl, fun _ => rfl, fun _ asserted => exec_resetLineReleased asserted, fun c _ asserted => exec_reset asserted c⟩

end Sys2Proof.Machine
end

section
/-! SUPPORT. One step (log entry 5), and that every command answers a next state (log entry 23). -/
namespace Sys2Proof.Machine

/-! ## A step -/

/-- A step on an empty queue is a tick of the reference clock (log entry 5). -/
theorem step_empty {s : State} (empty : s.pending = []) : step s = .next s.tick := by
  unfold step
  rw [empty]

/-- A step takes the command at the front of the queue. -/
theorem step_front {s : State} {c : Instr} {rest : List Instr} (front : s.pending = c :: rest) : step s = exec c (s.withPending rest) := by
  unfold step
  rw [front]

/-- Settles O1: the command at the front, and the tick. -/
theorem stepTakesFrontCommand : Obligations.StepTakesFrontCommand :=
  ⟨fun _ _ _ front => step_front front, fun _ empty => step_empty empty⟩

/-! ## What every command answers -/

/-- Each way in which a command's meaning is made gives the part a new value and does nothing else: it neither stops nor touches the queue (log entry 23). -/
theorem State.Runs.changes_part {s : State} {o : Host.Outcome State Fault Refusal} (h : s.Runs o) : ∃ b : Block, o = .next { s with blk := b } := by
  cases h with
  | event f => exact ⟨s.blk.eventStep f, rfl⟩
  | request kind tag body owner => exact ⟨s.blk.requestStep { kind := kind, tag := tag, body := body } owner, rfl⟩
  | start cause => exact ⟨Block.started cause, rfl⟩
  | asserted => exact ⟨s.blk.assertReset, rfl⟩
  | nothing => exact ⟨s.blk, rfl⟩

/-- Settles O2: the part changes, and the queue of commands stands. -/
theorem everyCommandAnswersNext : Obligations.EveryCommandAnswersNext := by
  intro c s
  obtain ⟨b, next⟩ := (exec_runs c s).changes_part
  exact ⟨{ s with blk := b }, next, rfl⟩

end Sys2Proof.Machine
end
